-- ==== Sys2Proof/Word.lean ====
section
/-!
DEFINITION. The word types of the machine: 64-bit register values, 32-bit instruction words and bytes.
-/
namespace Sys2Proof

/-- A scalar register's value (R107). -/
abbrev Word := BitVec 64

/-- An instruction word (R88). -/
abbrev IWord := BitVec 32

/-- A byte of memory or of the galley. -/
abbrev Byte := BitVec 8

end Sys2Proof
end

