-- ==== Sys2Proof/Machine/Codes.lean ====
section
/-!
DEFINITION. The code tables the encodings refer to: element type codes (R68), system register numbers and their
access (R120), the registers a dispatch hart lacks (R308), scope codes (R9), cause codes (R140), and the bit-field helper of R102.
-/
namespace Sys2Proof

/-- The `n` bits of `w` from bit `lo` up (R102, bits). -/
def fld {m : Nat} (w : BitVec m) (lo n : Nat) : BitVec n := w.extractLsb' lo n

/-- A TYPE code of R68. -/
def typeCodeOk (t : BitVec 8) : Bool :=
  let v := t.toNat
  (0x01 ≤ v && v ≤ 0x09) || (0x11 ≤ v && v ≤ 0x14) || (0x80 ≤ v && v ≤ 0x9F && v % 8 ≠ 0)

/-- A system register number open to programs (R120). -/
def csrAssigned (n : BitVec 12) : Bool :=
  let v := n.toNat
  v ≤ 0x009 || (0x010 ≤ v && v ≤ 0x028) || (0x040 ≤ v && v ≤ 0x045) || (0x080 ≤ v && v ≤ 0x08F)

/-- A system register whose access in R120 is R: VL, GRB, GROWS, MVL, MVLMAX, HARTID, GANG, GANGCNT, LAUNCHID, TIME. -/
def csrReadOnly (n : BitVec 12) : Bool :=
  let v := n.toNat
  v == 0x001 || (0x020 ≤ v && v ≤ 0x028)

/-- The registers of the resources a dispatch hart lacks (R308, R122). -/
def csrAbsentInDispatch (n : BitVec 12) : Bool :=
  let v := n.toNat
  v ≤ 0x003 || (0x005 ≤ v && v ≤ 0x009) || (0x010 ≤ v && v ≤ 0x01F) || (0x020 ≤ v && v ≤ 0x023)

/-- A CSRR of register `n` decodes (R122); `dh` says that the hart is a dispatch hart. -/
def csrReadOk (dh : Bool) (n : BitVec 12) : Bool :=
  csrAssigned n && !(dh && csrAbsentInDispatch n)

/-- A CSRW, CSRS or CSRC of register `n` decodes (R122). -/
def csrWriteOk (dh : Bool) (n : BitVec 12) : Bool :=
  csrReadOk dh n && !csrReadOnly n

/-- The majors a dispatch hart accepts (R308). -/
def dispatchMajor (v : Nat) : Bool :=
  (0x01 ≤ v && v ≤ 0x10) || v == 0x66 || v == 0x70 || v == 0x71 || v == 0x75 || v == 0x76 || v == 0x78 || v == 0x7B

/-- A scope code of R9 (6 and 7 are reserved). -/
def scopeOk (sc : BitVec 3) : Bool := sc.toNat ≤ 5

/-- A mask number held in a 6-bit field (R91). -/
def maskOk (k : BitVec 6) : Bool := k.toNat ≤ 11

/-! Cause codes (R140). -/

def causeIllegalOp : BitVec 8 := 0x01
def causeIllegalFn : BitVec 8 := 0x02
def causeMbzSet : BitVec 8 := 0x03
def causeVmodeIll : BitVec 8 := 0x04
def causeShape : BitVec 8 := 0x05
def causeWidth : BitVec 8 := 0x06
def causeWindowRange : BitVec 8 := 0x07
def causeSlotOwned : BitVec 8 := 0x08
def causeSlotUnclaimed : BitVec 8 := 0x09
def causeMatrixOff : BitVec 8 := 0x0A
def causeUserTrap : BitVec 8 := 0x0B
def causeBreakpoint : BitVec 8 := 0x0C
def causeTileRange : BitVec 8 := 0x0D
def causeLoadPage : BitVec 8 := 0x40
def causeStorePage : BitVec 8 := 0x41
def causeFetchPage : BitVec 8 := 0x42
def causePermWrite : BitVec 8 := 0x43
def causePermExec : BitVec 8 := 0x44
def causeMisalign : BitVec 8 := 0x45
def causeHandleBad : BitVec 8 := 0x46
def causeParamBad : BitVec 8 := 0x47
def causeFormatMismatch : BitVec 8 := 0x48
def causeRemoteTimeout : BitVec 8 := 0x49
def causeFetchGone : BitVec 8 := 0x4A
def causeScondNolink : BitVec 8 := 0x4B
def causeBankMode : BitVec 8 := 0x4C
def causeFpInvalid : BitVec 8 := 0x80
def causeFpDivzero : BitVec 8 := 0x81
def causeFpOverflow : BitVec 8 := 0x82
def causeFpUnderflow : BitVec 8 := 0x83
def causeFpInexact : BitVec 8 := 0x84
def causeIntDivzero : BitVec 8 := 0x85
def causeMetadata : BitVec 8 := 0x86
def causeCounterPoison : BitVec 8 := 0xA0
def causeEngineFault : BitVec 8 := 0xA1
def causeCollTimeout : BitVec 8 := 0xA2
def causeDecodeError : BitVec 8 := 0xA3
def causeLaunchBad : BitVec 8 := 0xA4
def causeSyscall : BitVec 8 := 0xC0
def causeDoubleTrap : BitVec 8 := 0xC1
def causeDataUe : BitVec 8 := 0xE0
def causeLaneRetired : BitVec 8 := 0xE1
def causeLinkDown : BitVec 8 := 0xE2

/-- A handler-class cause (R137). -/
def handlerClass (c : BitVec 8) : Bool :=
  let v := c.toNat
  (0x05 ≤ v && v ≤ 0x0B) || v == 0x0D || (0x80 ≤ v && v ≤ 0x86)

end Sys2Proof
end

