-- ==== Sys2Proof/Syntax.lean ====
section
/-!
DEFINITION. The instruction set as data: one constructor of `Instr` for each row of the opcode table.
The first 214 rows are instruction words (R88 to R98): a constructor holds the word's fields as bits.
The last 94 rows are steps of the module that no word encodes (launch placement, engines, host accesses,
errors, bring-up): a constructor names the hart, unit or register concerned and carries what comes from outside.
-/
namespace Sys2Proof

/-- The three ways in which a word is not an instruction (R101, steps 1 to 3). -/
inductive BadWord where
  | illegalOp | illegalFn | mbzSet
deriving DecidableEq, Repr

/-- Cluster-store bank modes (R204). -/
inductive BankMode where
  | cache | scratch | scratchz | fifo
deriving DecidableEq, Repr

/-- Another module's contribution to a collective (R246): its rank and its elements' bits, in element order.
The order of the list is the order in which the contributions are added (unspecified, R87). -/
structure CollPart where
  rank  : Nat
  elems : List (BitVec 32)
deriving DecidableEq, Repr

/-- The operation of a peer's atomic (R218, R219): its code, whether it compares signed, CAS's old value, and the FCSR
under which FADD rounds. -/
structure PeerAtom where
  op   : Nat
  sg   : Bool
  old  : BitVec 64
  fcsr : BitVec 64
deriving DecidableEq, Repr

/-- A pod peer's request at this module (R279, R346, R376): the peer's rank, the local physical address,
the size in bytes, the data of a write or an atomic (none for a read), the atomic's operation, whether the page
is writable, and the request's age in ms. -/
structure PeerReq where
  rank  : Nat
  pa    : Nat
  size  : Nat
  data  : Option (BitVec 64)
  atom  : Option PeerAtom
  page  : Bool
  age   : Nat
deriving DecidableEq, Repr

/-- Where a corrected error was (R369, R371): its structure's code, and of lane residue the core on its die and the lane
group (R370). -/
structure ErrorSite where
  struct : Nat
  core   : Nat
  group  : Nat
deriving DecidableEq, Repr

/-- One constructor per row of the opcode table. -/
inductive Instr where
  /-- ADD (R107). -/
  | add (d : BitVec 5) (a : BitVec 5) (b : BitVec 5)
  /-- SUB (R107). -/
  | sub (d : BitVec 5) (a : BitVec 5) (b : BitVec 5)
  /-- AND (R107). -/
  | and (d : BitVec 5) (a : BitVec 5) (b : BitVec 5)
  /-- OR (R107). -/
  | or (d : BitVec 5) (a : BitVec 5) (b : BitVec 5)
  /-- XOR (R107). -/
  | xor (d : BitVec 5) (a : BitVec 5) (b : BitVec 5)
  /-- SLL (R107). -/
  | sll (d : BitVec 5) (a : BitVec 5) (b : BitVec 5)
  /-- SRL (R107). -/
  | srl (d : BitVec 5) (a : BitVec 5) (b : BitVec 5)
  /-- SRA (R107). -/
  | sra (d : BitVec 5) (a : BitVec 5) (b : BitVec 5)
  /-- MUL (R107). -/
  | mul (d : BitVec 5) (a : BitVec 5) (b : BitVec 5)
  /-- MULH (R107). -/
  | mulh (d : BitVec 5) (a : BitVec 5) (b : BitVec 5)
  /-- MULHN (R107). -/
  | mulhn (d : BitVec 5) (a : BitVec 5) (b : BitVec 5)
  /-- DIV (R108). -/
  | div (d : BitVec 5) (a : BitVec 5) (b : BitVec 5)
  /-- DIVN (R108). -/
  | divn (d : BitVec 5) (a : BitVec 5) (b : BitVec 5)
  /-- REM (R108). -/
  | rem (d : BitVec 5) (a : BitVec 5) (b : BitVec 5)
  /-- REMN (R108). -/
  | remn (d : BitVec 5) (a : BitVec 5) (b : BitVec 5)
  /-- MIN (R107). -/
  | min (d : BitVec 5) (a : BitVec 5) (b : BitVec 5)
  /-- MAX (R107). -/
  | max (d : BitVec 5) (a : BitVec 5) (b : BitVec 5)
  /-- MINN (R107). -/
  | minn (d : BitVec 5) (a : BitVec 5) (b : BitVec 5)
  /-- MAXN (R107). -/
  | maxn (d : BitVec 5) (a : BitVec 5) (b : BitVec 5)
  /-- SLT (R107). -/
  | slt (d : BitVec 5) (a : BitVec 5) (b : BitVec 5)
  /-- SLTN (R107). -/
  | sltn (d : BitVec 5) (a : BitVec 5) (b : BitVec 5)
  /-- SEL (R108). -/
  | sel (d : BitVec 5) (a : BitVec 5) (b : BitVec 5)
  /-- LEA_1 (R107). -/
  | lea1 (d : BitVec 5) (a : BitVec 5) (b : BitVec 5)
  /-- LEA_2 (R107). -/
  | lea2 (d : BitVec 5) (a : BitVec 5) (b : BitVec 5)
  /-- LEA_4 (R107). -/
  | lea4 (d : BitVec 5) (a : BitVec 5) (b : BitVec 5)
  /-- LEA_8 (R107). -/
  | lea8 (d : BitVec 5) (a : BitVec 5) (b : BitVec 5)
  /-- CLZ (R107). -/
  | clz (d : BitVec 5) (a : BitVec 5)
  /-- CTZ (R107). -/
  | ctz (d : BitVec 5) (a : BitVec 5)
  /-- POPC (R107). -/
  | popc (d : BitVec 5) (a : BitVec 5)
  /-- BREV (R107). -/
  | brev (d : BitVec 5) (a : BitVec 5)
  /-- ADDI (R109). -/
  | addi (d : BitVec 5) (a : BitVec 5) (im : BitVec 15)
  /-- ANDI (R109). -/
  | andi (d : BitVec 5) (a : BitVec 5) (im : BitVec 12)
  /-- ORI (R109). -/
  | ori (d : BitVec 5) (a : BitVec 5) (im : BitVec 12)
  /-- XORI (R109). -/
  | xori (d : BitVec 5) (a : BitVec 5) (im : BitVec 12)
  /-- SLTI (R109). -/
  | slti (d : BitVec 5) (a : BitVec 5) (im : BitVec 12)
  /-- SLLI (R109). -/
  | slli (d : BitVec 5) (a : BitVec 5) (n : BitVec 6)
  /-- SRLI (R109). -/
  | srli (d : BitVec 5) (a : BitVec 5) (n : BitVec 6)
  /-- SRAI (R109). -/
  | srai (d : BitVec 5) (a : BitVec 5) (n : BitVec 6)
  /-- LUI (R109). -/
  | lui (d : BitVec 5) (im : BitVec 20)
  /-- AUIPC (R109). -/
  | auipc (d : BitVec 5) (im : BitVec 20)
  /-- BEQ (R110). -/
  | beq (a : BitVec 5) (b : BitVec 5) (o : BitVec 15)
  /-- BNE (R110). -/
  | bne (a : BitVec 5) (b : BitVec 5) (o : BitVec 15)
  /-- BLT (R110). -/
  | blt (a : BitVec 5) (b : BitVec 5) (o : BitVec 15)
  /-- BGE (R110). -/
  | bge (a : BitVec 5) (b : BitVec 5) (o : BitVec 15)
  /-- BLTN (R110). -/
  | bltn (a : BitVec 5) (b : BitVec 5) (o : BitVec 15)
  /-- BGEN (R110). -/
  | bgen (a : BitVec 5) (b : BitVec 5) (o : BitVec 15)
  /-- JAL (R111). -/
  | jal (d : BitVec 5) (im : BitVec 20)
  /-- JALR (R111). -/
  | jalr (d : BitVec 5) (a : BitVec 5) (im : BitVec 15)
  /-- LDB (R112). -/
  | ldb (d : BitVec 5) (a : BitVec 5) (im : BitVec 11)
  /-- LDH (R112). -/
  | ldh (d : BitVec 5) (a : BitVec 5) (im : BitVec 11)
  /-- LDW (R112). -/
  | ldw (d : BitVec 5) (a : BitVec 5) (im : BitVec 11)
  /-- LDD (R112). -/
  | ldd (d : BitVec 5) (a : BitVec 5) (im : BitVec 11)
  /-- LDBN (R112). -/
  | ldbn (d : BitVec 5) (a : BitVec 5) (im : BitVec 11)
  /-- LDHN (R112). -/
  | ldhn (d : BitVec 5) (a : BitVec 5) (im : BitVec 11)
  /-- LDWN (R112). -/
  | ldwn (d : BitVec 5) (a : BitVec 5) (im : BitVec 11)
  /-- LDC (R115). -/
  | ldc (d : BitVec 5) (a : BitVec 5) (im : BitVec 11)
  /-- STB (R112). -/
  | stb (d : BitVec 5) (a : BitVec 5) (im : BitVec 11)
  /-- STH (R112). -/
  | sth (d : BitVec 5) (a : BitVec 5) (im : BitVec 11)
  /-- STW (R112). -/
  | stw (d : BitVec 5) (a : BitVec 5) (im : BitVec 11)
  /-- STD (R112). -/
  | std (d : BitVec 5) (a : BitVec 5) (im : BitVec 11)
  /-- CSRR (R121). -/
  | csrr (d : BitVec 5) (sy : BitVec 12)
  /-- CSRW (R121). -/
  | csrw (a : BitVec 5) (sy : BitVec 12)
  /-- CSRS (R121). -/
  | csrs (a : BitVec 5) (sy : BitVec 12)
  /-- CSRC (R121). -/
  | csrc (a : BitVec 5) (sy : BitVec 12)
  /-- TRAP (R127). -/
  | trap (a : BitVec 5)
  /-- TRET (R128). -/
  | tret
  /-- SCALL (R129). -/
  | scall (d : BitVec 5) (a : BitVec 5)
  /-- BREAK (R130). -/
  | brk
  /-- YIELD (R131). -/
  | yield
  /-- CFENCE (R132). -/
  | cfence
  /-- HALT (R133). -/
  | halt
  /-- FADD (R116). -/
  | fadd (d : BitVec 5) (a : BitVec 5) (b : BitVec 5) (t : BitVec 2)
  /-- FSUB (R116). -/
  | fsub (d : BitVec 5) (a : BitVec 5) (b : BitVec 5) (t : BitVec 2)
  /-- FMUL (R116). -/
  | fmul (d : BitVec 5) (a : BitVec 5) (b : BitVec 5) (t : BitVec 2)
  /-- FFMA (R116). -/
  | ffma (d : BitVec 5) (a : BitVec 5) (b : BitVec 5) (t : BitVec 2)
  /-- FDIV (R116). -/
  | fdiv (d : BitVec 5) (a : BitVec 5) (b : BitVec 5) (t : BitVec 2)
  /-- FSQRT (R116). -/
  | fsqrt (d : BitVec 5) (a : BitVec 5) (t : BitVec 2)
  /-- FMIN (R116). -/
  | fmin (d : BitVec 5) (a : BitVec 5) (b : BitVec 5) (t : BitVec 2)
  /-- FMAX (R116). -/
  | fmax (d : BitVec 5) (a : BitVec 5) (b : BitVec 5) (t : BitVec 2)
  /-- FCMP (R118). -/
  | fcmp (d : BitVec 5) (a : BitVec 5) (b : BitVec 5) (c : BitVec 4) (t : BitVec 2)
  /-- FCVT (R117). -/
  | fcvt (d : BitVec 5) (a : BitVec 5) (c : BitVec 4) (t : BitVec 2)
  /-- FCLASS (R118). -/
  | fclass (d : BitVec 5) (a : BitVec 5) (t : BitVec 2)
  /-- VADD (R158). -/
  | vadd (d : BitVec 6) (a : BitVec 6) (b : BitVec 6)
  /-- VSUB (R158). -/
  | vsub (d : BitVec 6) (a : BitVec 6) (b : BitVec 6)
  /-- VMUL (R158). -/
  | vmul (d : BitVec 6) (a : BitVec 6) (b : BitVec 6)
  /-- VFMA (R158). -/
  | vfma (d : BitVec 6) (a : BitVec 6) (b : BitVec 6)
  /-- VFMS (R158). -/
  | vfms (d : BitVec 6) (a : BitVec 6) (b : BitVec 6)
  /-- VDIV (R158). -/
  | vdiv (d : BitVec 6) (a : BitVec 6) (b : BitVec 6)
  /-- VMIN (R158). -/
  | vmin (d : BitVec 6) (a : BitVec 6) (b : BitVec 6)
  /-- VMAX (R158). -/
  | vmax (d : BitVec 6) (a : BitVec 6) (b : BitVec 6)
  /-- VABS (R158). -/
  | vabs (d : BitVec 6) (a : BitVec 6)
  /-- VNEG (R158). -/
  | vneg (d : BitVec 6) (a : BitVec 6)
  /-- VAND (R158). -/
  | vand (d : BitVec 6) (a : BitVec 6) (b : BitVec 6)
  /-- VOR (R158). -/
  | vor (d : BitVec 6) (a : BitVec 6) (b : BitVec 6)
  /-- VXOR (R158). -/
  | vxor (d : BitVec 6) (a : BitVec 6) (b : BitVec 6)
  /-- VSLL (R158). -/
  | vsll (d : BitVec 6) (a : BitVec 6) (b : BitVec 6)
  /-- VSRL (R158). -/
  | vsrl (d : BitVec 6) (a : BitVec 6) (b : BitVec 6)
  /-- VSRA (R158). -/
  | vsra (d : BitVec 6) (a : BitVec 6) (b : BitVec 6)
  /-- VMULH (R158). -/
  | vmulh (d : BitVec 6) (a : BitVec 6) (b : BitVec 6)
  /-- VAVG (R158). -/
  | vavg (d : BitVec 6) (a : BitVec 6) (b : BitVec 6)
  /-- VCMPEQ (R161). -/
  | vcmpeq (d : BitVec 6) (a : BitVec 6) (b : BitVec 6)
  /-- VCMPNE (R161). -/
  | vcmpne (d : BitVec 6) (a : BitVec 6) (b : BitVec 6)
  /-- VCMPLT (R161). -/
  | vcmplt (d : BitVec 6) (a : BitVec 6) (b : BitVec 6)
  /-- VCMPLE (R161). -/
  | vcmple (d : BitVec 6) (a : BitVec 6) (b : BitVec 6)
  /-- VMOV (R159). -/
  | vmov (d : BitVec 6) (a : BitVec 6)
  /-- VSEL (R161). -/
  | vsel (d : BitVec 6) (a : BitVec 6) (b : BitVec 6) (k : BitVec 4)
  /-- VBCAST (R162). -/
  | vbcast (d : BitVec 6) (b : BitVec 5)
  /-- VSLIDE_UP (R162). -/
  | vslideUp (d : BitVec 6) (a : BitVec 6) (b : BitVec 5)
  /-- VSLIDE_DN (R162). -/
  | vslideDn (d : BitVec 6) (a : BitVec 6) (b : BitVec 5)
  /-- VCVT (R162). -/
  | vcvt (d : BitVec 6) (a : BitVec 6) (t : BitVec 8)
  /-- VREDSUM (R164). -/
  | vredsum (d : BitVec 6) (a : BitVec 6) (b : BitVec 6)
  /-- VREDMAX (R164). -/
  | vredmax (d : BitVec 6) (a : BitVec 6) (b : BitVec 6)
  /-- VREDMIN (R164). -/
  | vredmin (d : BitVec 6) (a : BitVec 6) (b : BitVec 6)
  /-- VSCAN (R164). -/
  | vscan (d : BitVec 6) (a : BitVec 6) (b : BitVec 6)
  /-- VPERM (R166). -/
  | vperm (d : BitVec 6) (a : BitVec 6) (b : BitVec 6)
  /-- VCOMPRESS (R166). -/
  | vcompress (d : BitVec 6) (a : BitVec 6)
  /-- VEXPAND (R166). -/
  | vexpand (d : BitVec 6) (a : BitVec 6)
  /-- VEXP2 (R79). -/
  | vexp2 (d : BitVec 6) (a : BitVec 6)
  /-- VLOG2 (R79). -/
  | vlog2 (d : BitVec 6) (a : BitVec 6)
  /-- VRCP (R79). -/
  | vrcp (d : BitVec 6) (a : BitVec 6)
  /-- VRSQRT (R79). -/
  | vrsqrt (d : BitVec 6) (a : BitVec 6)
  /-- VSQRT (R79). -/
  | vsqrt (d : BitVec 6) (a : BitVec 6)
  /-- VTANH (R79). -/
  | vtanh (d : BitVec 6) (a : BitVec 6)
  /-- VSIGM (R79). -/
  | vsigm (d : BitVec 6) (a : BitVec 6)
  /-- SPADD (R170). -/
  | spadd (d : BitVec 6) (a : BitVec 6) (b : BitVec 6)
  /-- SPMUL (R170). -/
  | spmul (d : BitVec 6) (a : BitVec 6) (b : BitVec 6)
  /-- SPFROM (R171). -/
  | spfrom (d : BitVec 6) (a : BitVec 6)
  /-- SPTO (R171). -/
  | spto (d : BitVec 6) (a : BitVec 6)
  /-- WDEF (R146). -/
  | wdef (d : BitVec 6) (b : BitVec 5)
  /-- WSAVE (R148). -/
  | wsave (d : BitVec 6) (a : BitVec 6) (b : BitVec 5)
  /-- WLOAD (R148). -/
  | wload (d : BitVec 6) (a : BitVec 6) (b : BitVec 5)
  /-- WSPILL (R150). -/
  | wspill (a : BitVec 6) (b : BitVec 5)
  /-- WFILL (R150). -/
  | wfill (d : BitVec 6) (b : BitVec 5)
  /-- SETMODE (R153). -/
  | setmode (m : BitVec 25)
  /-- WDEFI (R146). -/
  | wdefi (d : BitVec 6) (a : BitVec 6) (r : BitVec 9)
  /-- SETVL (R152). -/
  | setvl (d : BitVec 5) (a : BitVec 5)
  /-- MPOPVL (R152). -/
  | mpopvl (d : BitVec 5) (k : BitVec 6)
  /-- MCNT (R155). -/
  | mcnt (d : BitVec 5) (k : BitVec 6)
  /-- MFIRST (R155). -/
  | mfirst (d : BitVec 5) (k : BitVec 6)
  /-- WGET (R147). -/
  | wget (d : BitVec 5) (w : BitVec 6)
  /-- SETMODEX (R153). -/
  | setmodex (d : BitVec 5) (a : BitVec 5)
  /-- BRLOOP (R156). -/
  | brloop (o : BitVec 15)
  /-- MAND (R154). -/
  | mand (d : BitVec 6) (a : BitVec 6) (b : BitVec 6)
  /-- MOR (R154). -/
  | mor (d : BitVec 6) (a : BitVec 6) (b : BitVec 6)
  /-- MXOR (R154). -/
  | mxor (d : BitVec 6) (a : BitVec 6) (b : BitVec 6)
  /-- MANDN (R154). -/
  | mandn (d : BitVec 6) (a : BitVec 6) (b : BitVec 6)
  /-- MSBF (R154). -/
  | msbf (d : BitVec 6) (a : BitVec 6)
  /-- MRANK_ADD (R191). -/
  | mrankAdd (t : BitVec 4) (a : BitVec 6) (b : BitVec 6) (x : BitVec 1)
  /-- MRANK_SUB (R191). -/
  | mrankSub (t : BitVec 4) (a : BitVec 6) (b : BitVec 6) (x : BitVec 1)
  /-- MMA (R192). -/
  | mma (t : BitVec 4) (a : BitVec 6) (b : BitVec 6)
  /-- MMASP (R193). -/
  | mmasp (t : BitVec 4) (v : BitVec 6) (b : BitVec 6)
  /-- MCOMP (R194). -/
  | mcomp (v : BitVec 6) (b : BitVec 6)
  /-- MZERO (R195). -/
  | mzero (t : BitVec 4)
  /-- ATOW (R196). -/
  | atow (t : BitVec 4) (d : BitVec 6) (n : BitVec 1) (x : BitVec 1)
  /-- WTOA (R197). -/
  | wtoa (t : BitVec 4) (a : BitVec 6) (n : BitVec 1) (x : BitVec 1)
  /-- ARED (R198). -/
  | ared (t : BitVec 4) (d : BitVec 6) (o : BitVec 2)
  /-- AMULR (R199). -/
  | amulr (t : BitVec 4) (a : BitVec 6)
  /-- AADDR (R199). -/
  | aaddr (t : BitVec 4) (a : BitVec 6)
  /-- MSTART (R176). -/
  | mstart (d : BitVec 5) (a : BitVec 5)
  /-- MSTOP (R176). -/
  | mstop
  /-- MCLAIM (R179). -/
  | mclaim (a : BitVec 5)
  /-- MREL (R179). -/
  | mrel (a : BitVec 5)
  /-- MFETCH (R188). -/
  | mfetch (h : BitVec 4) (c : BitVec 4) (a : BitVec 5) (b : BitVec 5) (w : BitVec 6) (x : BitVec 1)
  /-- MFETCH_D (R188). -/
  | mfetchD (h : BitVec 4) (c : BitVec 4) (a : BitVec 5) (b : BitVec 5) (w : BitVec 6) (x : BitVec 1)
  /-- MFETCH_PG (R188). -/
  | mfetchPg (h : BitVec 4) (c : BitVec 4) (a : BitVec 5) (b : BitVec 5) (w : BitVec 6) (x : BitVec 1)
  /-- MFETCH_PG_D (R188). -/
  | mfetchPgD (h : BitVec 4) (c : BitVec 4) (a : BitVec 5) (b : BitVec 5) (w : BitVec 6) (x : BitVec 1)
  /-- MFETCH_SH (R188). -/
  | mfetchSh (h : BitVec 4) (c : BitVec 4) (a : BitVec 5) (b : BitVec 5) (w : BitVec 6) (x : BitVec 1)
  /-- MFETCH_SH_D (R188). -/
  | mfetchShD (h : BitVec 4) (c : BitVec 4) (a : BitVec 5) (b : BitVec 5) (w : BitVec 6) (x : BitVec 1)
  /-- HSET (R210). -/
  | hset (h : BitVec 4) (n : BitVec 4) (a : BitVec 5)
  /-- HLD (R210). -/
  | hld (h : BitVec 4) (a : BitVec 5)
  /-- HST (R210). -/
  | hst (h : BitVec 4) (a : BitVec 5)
  /-- HGET (R210). -/
  | hget (h : BitVec 4) (n : BitVec 4) (a : BitVec 5)
  /-- LDT (R213). -/
  | ldt (h : BitVec 4) (a : BitVec 5) (b : BitVec 5) (w : BitVec 6)
  /-- STT (R213). -/
  | stt (h : BitVec 4) (a : BitVec 5) (b : BitVec 5) (w : BitVec 6)
  /-- LDV (R214). -/
  | ldv (a : BitVec 5) (w : BitVec 6)
  /-- STV (R214). -/
  | stv (a : BitVec 5) (w : BitVec 6)
  /-- LDS (R214). -/
  | lds (a : BitVec 5) (b : BitVec 5) (w : BitVec 6)
  /-- STS (R214). -/
  | sts (a : BitVec 5) (b : BitVec 5) (w : BitVec 6)
  /-- GATH (R215). -/
  | gath (d : BitVec 6) (a : BitVec 6) (b : BitVec 5)
  /-- SCAT (R215). -/
  | scat (d : BitVec 6) (a : BitVec 6) (b : BitVec 5)
  /-- SCATADD (R216). -/
  | scatadd (d : BitVec 6) (a : BitVec 6) (b : BitVec 5)
  /-- GLINK (R217). -/
  | glink (d : BitVec 6) (a : BitVec 6) (b : BitVec 5)
  /-- SCOND (R217). -/
  | scond (d : BitVec 6) (a : BitVec 6) (b : BitVec 5)
  /-- VAMO (R219). -/
  | vamo (d : BitVec 6) (a : BitVec 6) (b : BitVec 5) (q : BitVec 1) (r : BitVec 1) (p : BitVec 4)
  /-- VAMO_ORD (R219). -/
  | vamoOrd (d : BitVec 6) (a : BitVec 6) (b : BitVec 5) (q : BitVec 1) (r : BitVec 1) (p : BitVec 4)
  /-- AMO (R219). -/
  | amo (d : BitVec 5) (a : BitVec 5) (b : BitVec 5) (e : BitVec 1) (n : BitVec 1) (q : BitVec 1) (r : BitVec 1) (p : BitVec 4)
  /-- VWAIT (R220). -/
  | vwait (d : BitVec 5) (a : BitVec 5) (b : BitVec 5) (e : BitVec 1) (c : BitVec 3)
  /-- STRM (R221). -/
  | strm (h : BitVec 4) (c : BitVec 4) (a : BitVec 5) (b : BitVec 5) (w : BitVec 6)
  /-- STRMX (R221). -/
  | strmx (h : BitVec 4) (c : BitVec 4) (a : BitVec 5) (w : BitVec 6)
  /-- STRMX_UNBIND (R222). -/
  | strmxUnbind (w : BitVec 6)
  /-- PREF (R223). -/
  | pref (a : BitVec 5) (b : BitVec 5) (w : BitVec 1) (l : BitVec 2)
  /-- COPY (R235). -/
  | copy (h : BitVec 4) (c : BitVec 4) (a : BitVec 5) (b : BitVec 5) (hs : BitVec 4)
  /-- COPY_BLOCK (R236). -/
  | copyBlock (c : BitVec 4) (a : BitVec 5)
  /-- QCOPY (R238). -/
  | qcopy (h : BitVec 4) (c : BitVec 4) (a : BitVec 5) (b : BitVec 5) (x : BitVec 1) (hs : BitVec 4)
  /-- QCOPY_BLOCK (R238). -/
  | qcopyBlock (c : BitVec 4) (a : BitVec 5)
  /-- RELAY (R240). -/
  | relay (h : BitVec 4) (c : BitVec 4) (a : BitVec 5) (b : BitVec 5) (t : BitVec 4)
  /-- COLL (R246). -/
  | coll (c : BitVec 4) (a : BitVec 5) (sw : BitVec 1) (t : BitVec 2) (o : BitVec 1) (k : BitVec 2)
  /-- ENCF (R248). -/
  | encf (c : BitVec 4) (a : BitVec 5) (e : BitVec 4)
  /-- CWAIT (R231). -/
  | cwait (c : BitVec 4) (k : BitVec 6)
  /-- CWAIT_X (R231). -/
  | cwaitX (c : BitVec 4) (a : BitVec 5)
  /-- CREAD (R232). -/
  | cread (c : BitVec 4) (a : BitVec 5)
  /-- CREAD_CLR (R232). -/
  | creadClr (c : BitVec 4) (a : BitVec 5)
  /-- GLD (R261). -/
  | gld (g : BitVec 4) (d : BitVec 6) (w : BitVec 6)
  /-- GSCAT (R262). -/
  | gscat (g : BitVec 4) (d : BitVec 6) (w : BitVec 6) (c : BitVec 4)
  /-- FENCEX (R255). -/
  | fencex (b : BitVec 8) (a : BitVec 8)
  /-- VFENCE (R257). -/
  | vfence (sc : BitVec 3)
  /-- BAR (R257). -/
  | bar (sc : BitVec 3)
  /-- BARA (R257). -/
  | bara (sc : BitVec 3)
  /-- BARW (R257). -/
  | barw (sc : BitVec 3)
  /-- SBARR (R252). -/
  | sbarr (d : BitVec 5) (a : BitVec 5) (n : BitVec 6)
  /-- SBARW (R252). -/
  | sbarw (d : BitVec 5) (a : BitVec 5) (n : BitVec 6)
  /-- SBIND (R252). -/
  | sbind (c : BitVec 4) (n : BitVec 6)
  /-- LAUNCH (R30). -/
  | launch (d : BitVec 5) (a : BitVec 5)
  /-- LAUNCH_W (R30). -/
  | launchW (d : BitVec 5) (a : BitVec 5)
  /-- WORD_NOT_INSTRUCTION (R101). -/
  | wordNotInstruction (e : BadWord) (w : BitVec 32)
  /-- MATRIX_QUEUE_START (R182). -/
  | matrixQueueStart (hid : Nat)
  /-- MATRIX_INSTRUCTION_COMPLETE (R185). -/
  | matrixInstructionComplete (hid : Nat)
  /-- MFETCH_ROW_VALID (R181). -/
  | mfetchRowValid (hid f : Nat)
  /-- MFETCH_COMPLETE (R189). -/
  | mfetchComplete (hid f : Nat)
  /-- ENGINE_COMMAND_END (R228). -/
  | engineCommandEnd (hid c : Nat)
  /-- ENGINE_COMMAND_FAULT (R228). -/
  | engineCommandFault (hid c : Nat) (cause : BitVec 8) (addr : BitVec 64)
  /-- COPY_UNIT_ARRIVAL (R253). -/
  | copyUnitArrival (hid c : Nat)
  /-- SHEET_MOVING (R242). -/
  | sheetMoving (r : Nat)
  /-- SHEET_NEW (R242). -/
  | sheetNew (r : Nat)
  /-- COLL_DELIVERY (R247). -/
  | collDelivery (hid c : Nat) (parts : List CollPart)
  /-- COLL_TIMEOUT (R247). -/
  | collTimeout (hid c : Nat)
  /-- ENCF_BAND_READ (R250). -/
  | encfBandRead (hid c : Nat)
  /-- BANK_ADD (R216). -/
  | bankAdd (hid n : Nat)
  /-- STREAM_REFILL (R222). -/
  | streamRefill (hid w : Nat)
  /-- COMPLETION_WORD (R15). -/
  | completionWord (serial : Nat)
  /-- PREEMPTION_POINT_REACHED (R21). -/
  | preemptionPointReached (hid : Nat)
  /-- CONTEXT_SAVE (R349). -/
  | contextSave (hid : Nat)
  /-- FREE_COUNT_REPORT (R315). -/
  | freeCountReport (die : Nat) (places : List (Nat × Nat))
  /-- PLACEMENT_CONFIRM (R316). -/
  | placementConfirm (ok image : Bool)
  /-- GANG_YIELD (R26). -/
  | gangYield (serial g : Nat)
  /-- AGING (R317). -/
  | aging (serial g : Nat)
  /-- UNPLACEABLE_RESERVATION (R318). -/
  | unplaceableReservation (inst : Nat)
  /-- CRITICAL_LAUNCH (R319). -/
  | criticalLaunch (serial inst : Nat)
  /-- TIME_SHARE_PREEMPT (R320). -/
  | timeSharePreempt (serial g vserial vg : Nat)
  /-- WORLD_SWITCH (R355). -/
  | worldSwitch (part : Nat)
  /-- VWAIT_WAKE (R220). -/
  | vwaitWake (hid : Nat)
  /-- CWAIT_WAKE (R231). -/
  | cwaitWake (hid : Nat)
  /-- SBARW_WAKE (R252). -/
  | sbarwWake (hid : Nat)
  /-- BARW_WAKE (R257). -/
  | barwWake (hid : Nat)
  /-- LAUNCH_W_WAKE (R30). -/
  | launchWWake (hid : Nat)
  /-- FIFO_ACCESS_WAKE (R204). -/
  | fifoAccessWake (hid : Nat)
  /-- DISPATCH_STALL_END (R227). -/
  | dispatchStallEnd (hid : Nat)
  /-- SCALL_ANSWER (R340). -/
  | scallAnswer (hid : Nat)
  /-- MIGRATION_REWALK (R337). -/
  | migrationRewalk (hid : Nat)
  /-- REMOTE_TIMEOUT (R376). -/
  | remoteTimeout (hid : Nat)
  /-- PEER_ACCESS (R279). -/
  | peerAccess (q : PeerReq)
  /-- FLIT_REPLAY (R375). -/
  | flitReplay (port : Nat)
  /-- LINK_DOWN (R375). -/
  | linkDown (port : Nat)
  /-- LINK_TRAINING_END (R375). -/
  | linkTrainingEnd (port : Nat) (lanes : BitVec 4)
  /-- LINK_TRAIN_REQUEST (R374). -/
  | linkTrainRequest (port : Nat)
  /-- CXL_LINK_LOSS (R305). -/
  | cxlLinkLoss (port : Nat)
  /-- LANE_GROUP_FAILURE (R7). -/
  | laneGroupFailure (core grp : Nat)
  /-- CORRECTED_ERROR (R369). -/
  | correctedError (die : Nat) (site : ErrorSite)
  /-- EVICTION_DATA_ERROR (R344). -/
  | evictionDataError (pa dom : Nat)
  /-- BANK_RETIREMENT (R370). -/
  | bankRetirement (die quad bank : Nat)
  /-- MBPOST (R307). -/
  | mbpost (fn q : Nat) (v : BitVec 64)
  /-- DISPATCH_PROGRAM_START (R306). -/
  | dispatchProgramStart (q : Nat)
  /-- BAR2_READ (R304). -/
  | bar2Read (off n : Nat)
  /-- BAR2_WRITE (R304). -/
  | bar2Write (off : Nat) (bytes : List (BitVec 8))
  /-- HOST_ACCESS_VIOLATION (R346). -/
  | hostAccessViolation (src kind : Nat) (addr : BitVec 64)
  /-- REGISTER_WRITE (R303). -/
  | registerWrite (fn off : Nat) (v : BitVec 64)
  /-- SESSION_PIN (R324). -/
  | sessionPin (v : BitVec 64)
  /-- SESSION_RELEASE (R324). -/
  | sessionRelease (v : BitVec 64)
  /-- SESSION_REQUEST_DONE (R324). -/
  | sessionRequestDone
  /-- BANK_MODE_CHANGE (R205). -/
  | bankModeChange (die quad bank : Nat) (mode : BankMode)
  /-- BANK_MODE_CHANGE_DONE (R205). -/
  | bankModeChangeDone (die quad bank : Nat)
  /-- TLBINV_PAGE (R336). -/
  | tlbinvPage (v : BitVec 64)
  /-- TLBINV_ASID (R336). -/
  | tlbinvAsid (v : BitVec 64)
  /-- TLBINV_ALL (R336). -/
  | tlbinvAll (v : BitVec 64)
  /-- TLBINV_DONE (R336). -/
  | tlbinvDone
  /-- FNROOT_WRITE (R333). -/
  | fnrootWrite (f : Nat) (v : BitVec 64)
  /-- FNOWN_WRITE (R333). -/
  | fnownWrite (f : Nat) (v : BitVec 64)
  /-- PART_WRITE (R352). -/
  | partWrite (n : Nat) (v : BitVec 64)
  /-- VFMAP_WRITE (R352). -/
  | vfmapWrite (f : Nat) (v : BitVec 64)
  /-- FUNCTION_LEVEL_RESET (R358). -/
  | functionLevelReset (f : Nat)
  /-- VF_ENABLE_CLEAR (R358). -/
  | vfEnableClear
  /-- PF_FUNCTION_LEVEL_RESET (R358). -/
  | pfFunctionLevelReset
  /-- FUNCTION_RESET_COMPLETE (R358). -/
  | functionResetComplete (f : Nat)
  /-- FREEZE (R377). -/
  | freeze
  /-- FREEZE_COMPLETE (R377). -/
  | freezeComplete
  /-- THAW (R377). -/
  | thaw
  /-- FW_VERIFY_STAGED (R380). -/
  | fwVerifyStaged
  /-- FW_RAISE_ROLLBACK (R380). -/
  | fwRaiseRollback
  /-- FW_OPERATION_DONE (R380). -/
  | fwOperationDone
  /-- ATTESTATION_REQUEST (R381). -/
  | attestationRequest
  /-- ATTESTATION_DONE (R381). -/
  | attestationDone
  /-- POWER_CAP (R383). -/
  | powerCap (v : BitVec 64)
  /-- POWER_OFF (R383). -/
  | powerOff
  /-- POWER_THROTTLE (R384). -/
  | powerThrottle (watts : Nat)
  /-- THERMAL_THROTTLE (R384). -/
  | thermalThrottle (die temp : Nat)
  /-- THERMAL_TRIP (R384). -/
  | thermalTrip (die : Nat)
  /-- MODULE_RESET (R325). -/
  | moduleReset
  /-- FIRMWARE_VERIFIED (R379). -/
  | firmwareVerified
  /-- PCIE_LINK_TRAINED (R325). -/
  | pcieLinkTrained
  /-- HBM_TRAINED (R325). -/
  | hbmTrained
  /-- CXL_ENUMERATED (R325). -/
  | cxlEnumerated (up : BitVec 8) (cap : Nat)
  /-- DIES_RELEASED (R325). -/
  | diesReleased
  /-- POWER_LOSS (R373). -/
  | powerLoss
  /-- COLOPHON_FLUSH (R373). -/
  | colophonFlush
  /-- COLOPHON_HOUR (R371). -/
  | colophonHour
  /-- DEBUGGER_RESUME (R130). -/
  | debuggerResume (hid : Nat) (pc : BitVec 64)
  /-- REMOTE_ACCESS_RESPONSE (R21). -/
  | remoteAccessResponse (hid : Nat)
  /-- PAGE_MIGRATION (R337). -/
  | pageMigration (asid va frame : Nat)
deriving DecidableEq, Repr

end Sys2Proof
end

