-- ==== Sys2Proof/WellFormed.lean ====
section
/-!
DEFINITION. Which terms of `Instr` an instruction word can stand for: the operand ranges that the field
widths do not already give (R91, R101 step 2). Rows without an encoding are never well-formed words.
-/
namespace Sys2Proof

/-- The constructor stands for an instruction word (rows of the table with an encoding). -/
def Instr.isWord : Instr → Bool
  | .wordNotInstruction _ _ => false
  | .matrixQueueStart _ => false
  | .matrixInstructionComplete _ => false
  | .mfetchRowValid _ _ => false
  | .mfetchComplete _ _ => false
  | .engineCommandEnd _ _ => false
  | .engineCommandFault _ _ _ _ => false
  | .copyUnitArrival _ _ => false
  | .sheetMoving _ => false
  | .sheetNew _ => false
  | .collDelivery _ _ _ => false
  | .collTimeout _ _ => false
  | .encfBandRead _ _ => false
  | .bankAdd _ _ => false
  | .streamRefill _ _ => false
  | .completionWord _ => false
  | .preemptionPointReached _ => false
  | .contextSave _ => false
  | .freeCountReport _ _ => false
  | .placementConfirm _ _ => false
  | .gangYield _ _ => false
  | .aging _ _ => false
  | .unplaceableReservation _ => false
  | .criticalLaunch _ _ => false
  | .timeSharePreempt _ _ _ _ => false
  | .worldSwitch _ => false
  | .vwaitWake _ => false
  | .cwaitWake _ => false
  | .sbarwWake _ => false
  | .barwWake _ => false
  | .launchWWake _ => false
  | .fifoAccessWake _ => false
  | .dispatchStallEnd _ => false
  | .scallAnswer _ => false
  | .migrationRewalk _ => false
  | .remoteTimeout _ => false
  | .peerAccess _ => false
  | .flitReplay _ => false
  | .linkDown _ => false
  | .linkTrainingEnd _ _ => false
  | .linkTrainRequest _ => false
  | .cxlLinkLoss _ => false
  | .laneGroupFailure _ _ => false
  | .correctedError _ _ => false
  | .evictionDataError _ _ => false
  | .bankRetirement _ _ _ => false
  | .mbpost _ _ _ => false
  | .dispatchProgramStart _ => false
  | .bar2Read _ _ => false
  | .bar2Write _ _ => false
  | .hostAccessViolation _ _ _ => false
  | .registerWrite _ _ _ => false
  | .sessionPin _ => false
  | .sessionRelease _ => false
  | .sessionRequestDone => false
  | .bankModeChange _ _ _ _ => false
  | .bankModeChangeDone _ _ _ => false
  | .tlbinvPage _ => false
  | .tlbinvAsid _ => false
  | .tlbinvAll _ => false
  | .tlbinvDone => false
  | .fnrootWrite _ _ => false
  | .fnownWrite _ _ => false
  | .partWrite _ _ => false
  | .vfmapWrite _ _ => false
  | .functionLevelReset _ => false
  | .vfEnableClear => false
  | .pfFunctionLevelReset => false
  | .functionResetComplete _ => false
  | .freeze => false
  | .freezeComplete => false
  | .thaw => false
  | .fwVerifyStaged => false
  | .fwRaiseRollback => false
  | .fwOperationDone => false
  | .attestationRequest => false
  | .attestationDone => false
  | .powerCap _ => false
  | .powerOff => false
  | .powerThrottle _ => false
  | .thermalThrottle _ _ => false
  | .thermalTrip _ => false
  | .moduleReset => false
  | .firmwareVerified => false
  | .pcieLinkTrained => false
  | .hbmTrained => false
  | .cxlEnumerated _ _ => false
  | .diesReleased => false
  | .powerLoss => false
  | .colophonFlush => false
  | .colophonHour => false
  | .debuggerResume _ _ => false
  | .remoteAccessResponse _ => false
  | .pageMigration _ _ _ => false
  | _ => true

/-- The operand ranges beyond the field widths (R91, R101, R122), each as the entry named in the table states it. -/
def Instr.rangesOk : Instr → Bool
  | .csrr _ sy => csrReadOk false sy
  | .csrw _ sy => csrWriteOk false sy
  | .csrs _ sy => csrWriteOk false sy
  | .csrc _ sy => csrWriteOk false sy
  | .fcmp _ _ _ c _ => decide (c.toNat ≤ 3)
  | .fcvt _ _ c _ => decide (c.toNat ≤ 11)
  | .vcmpeq d _ _ => maskOk d
  | .vcmpne d _ _ => maskOk d
  | .vcmplt d _ _ => maskOk d
  | .vcmple d _ _ => maskOk d
  | .vsel _ _ _ k => decide (k.toNat ≤ 11)
  | .vcvt _ _ t => typeCodeOk t
  | .wsave d a _ => decide (d.toNat ≤ a.toNat)
  | .wload d a _ => decide (d.toNat ≤ a.toNat)
  | .mpopvl _ k => maskOk k
  | .mcnt _ k => maskOk k
  | .mfirst _ k => maskOk k
  | .mand d a b => maskOk d && maskOk a && maskOk b
  | .mor d a b => maskOk d && maskOk a && maskOk b
  | .mxor d a b => maskOk d && maskOk a && maskOk b
  | .mandn d a b => maskOk d && maskOk a && maskOk b
  | .msbf d a => maskOk d && maskOk a
  | .mmasp _ v _ => decide (v.toNat ≤ 62)
  | .mcomp v _ => decide (v.toNat ≤ 62)
  | .ared _ _ op => decide (op.toNat ≤ 2)
  | .mfetchD h _ _ _ _ _ => decide (h.toNat ≤ 14)
  | .mfetchPgD h _ _ _ _ _ => decide (h.toNat ≤ 14)
  | .mfetchSh h _ _ _ _ _ => decide (h.toNat ≤ 14)
  | .mfetchShD h _ _ _ _ _ => decide (h.toNat ≤ 13)
  | .hset _ n _ => decide (n.toNat ≤ 7)
  | .hget _ n _ => decide (n.toNat ≤ 7)
  | .vamo _ _ _ _ _ p => decide (p.toNat ≤ 7)
  | .vamoOrd _ _ _ _ _ p => decide (p.toNat ≤ 7)
  | .amo _ _ _ _ n _ _ p => decide (p.toNat ≤ 8) && (n == 0#1 || p == 4#4 || p == 5#4)
  | .vwait _ _ _ _ c => decide (c.toNat ≤ 6)
  | .strmx _ _ a _ => a != 0#5
  | .pref _ _ _ l => decide (l.toNat ≤ 1)
  | .coll _ _ _ t op k => decide (t.toNat ≤ 2) && (op == 0#1 || decide (k.toNat ≤ 1))
  | .encf _ _ e => decide (e.toNat ≤ 8)
  | .vfence sc => scopeOk sc
  | .bar sc => scopeOk sc
  | .bara sc => scopeOk sc
  | .barw sc => scopeOk sc
  | _ => true

/-- A well-formed instruction word. -/
def Instr.wf (i : Instr) : Bool := i.isWord && i.rangesOk

end Sys2Proof
end

