-- ==== Sys2Proof/Decode.lean ====
section
/-!
DEFINITION. Decoding, total on any bytes (R88 to R101), and the encoder written from the same tables.
A word is tested as R101 says: the major first, then the function value and every field value an entry marks
ILLEGAL_FN, then the must-be-zero bits. A dispatch hart (R308, R122) has fewer majors and system registers.
-/
namespace Sys2Proof

/-- Steps 2 and 3 of R101 for one row: `fn` says that no field value is illegal, `z` that the must-be-zero bits are 0. -/
def okIf (fn z : Bool) (i : Instr) : Except BadWord Instr :=
  if fn then (if z then .ok i else .error .mbzSet) else .error .illegalFn

/-- Major 0x01 (R98). -/
def dec01 (w : BitVec 32) : Except BadWord Instr :=
  match (fld w 0 10).toNat with
  | 0 => .ok (.add (fld w 20 5) (fld w 15 5) (fld w 10 5))
  | 1 => .ok (.sub (fld w 20 5) (fld w 15 5) (fld w 10 5))
  | 2 => .ok (.and (fld w 20 5) (fld w 15 5) (fld w 10 5))
  | 3 => .ok (.or (fld w 20 5) (fld w 15 5) (fld w 10 5))
  | 4 => .ok (.xor (fld w 20 5) (fld w 15 5) (fld w 10 5))
  | 5 => .ok (.sll (fld w 20 5) (fld w 15 5) (fld w 10 5))
  | 6 => .ok (.srl (fld w 20 5) (fld w 15 5) (fld w 10 5))
  | 7 => .ok (.sra (fld w 20 5) (fld w 15 5) (fld w 10 5))
  | 8 => .ok (.mul (fld w 20 5) (fld w 15 5) (fld w 10 5))
  | 9 => .ok (.mulh (fld w 20 5) (fld w 15 5) (fld w 10 5))
  | 10 => .ok (.mulhn (fld w 20 5) (fld w 15 5) (fld w 10 5))
  | 11 => .ok (.div (fld w 20 5) (fld w 15 5) (fld w 10 5))
  | 12 => .ok (.divn (fld w 20 5) (fld w 15 5) (fld w 10 5))
  | 13 => .ok (.rem (fld w 20 5) (fld w 15 5) (fld w 10 5))
  | 14 => .ok (.remn (fld w 20 5) (fld w 15 5) (fld w 10 5))
  | 15 => .ok (.min (fld w 20 5) (fld w 15 5) (fld w 10 5))
  | 16 => .ok (.max (fld w 20 5) (fld w 15 5) (fld w 10 5))
  | 17 => .ok (.minn (fld w 20 5) (fld w 15 5) (fld w 10 5))
  | 18 => .ok (.maxn (fld w 20 5) (fld w 15 5) (fld w 10 5))
  | 19 => .ok (.slt (fld w 20 5) (fld w 15 5) (fld w 10 5))
  | 20 => .ok (.sltn (fld w 20 5) (fld w 15 5) (fld w 10 5))
  | 21 => .ok (.sel (fld w 20 5) (fld w 15 5) (fld w 10 5))
  | 22 => .ok (.lea1 (fld w 20 5) (fld w 15 5) (fld w 10 5))
  | 23 => .ok (.lea2 (fld w 20 5) (fld w 15 5) (fld w 10 5))
  | 24 => .ok (.lea4 (fld w 20 5) (fld w 15 5) (fld w 10 5))
  | 25 => .ok (.lea8 (fld w 20 5) (fld w 15 5) (fld w 10 5))
  | 26 => okIf (true) (fld w 10 5 == 0) (.clz (fld w 20 5) (fld w 15 5))
  | 27 => okIf (true) (fld w 10 5 == 0) (.ctz (fld w 20 5) (fld w 15 5))
  | 28 => okIf (true) (fld w 10 5 == 0) (.popc (fld w 20 5) (fld w 15 5))
  | 29 => okIf (true) (fld w 10 5 == 0) (.brev (fld w 20 5) (fld w 15 5))
  | _ => .error .illegalFn

/-- Major 0x03 (R98). -/
def dec03 (w : BitVec 32) : Except BadWord Instr :=
  match (fld w 12 3).toNat with
  | 0 => .ok (.andi (fld w 20 5) (fld w 15 5) (fld w 0 12))
  | 1 => .ok (.ori (fld w 20 5) (fld w 15 5) (fld w 0 12))
  | 2 => .ok (.xori (fld w 20 5) (fld w 15 5) (fld w 0 12))
  | 3 => .ok (.slti (fld w 20 5) (fld w 15 5) (fld w 0 12))
  | 4 => okIf (true) (fld w 6 6 == 0) (.slli (fld w 20 5) (fld w 15 5) (fld w 0 6))
  | 5 => okIf (true) (fld w 6 6 == 0) (.srli (fld w 20 5) (fld w 15 5) (fld w 0 6))
  | 6 => okIf (true) (fld w 6 6 == 0) (.srai (fld w 20 5) (fld w 15 5) (fld w 0 6))
  | _ => .error .illegalFn

/-- Major 0x0E (R98). -/
def dec0E (w : BitVec 32) : Except BadWord Instr :=
  match (fld w 11 4).toNat with
  | 0 => .ok (.ldb (fld w 20 5) (fld w 15 5) (fld w 0 11))
  | 1 => .ok (.ldh (fld w 20 5) (fld w 15 5) (fld w 0 11))
  | 2 => .ok (.ldw (fld w 20 5) (fld w 15 5) (fld w 0 11))
  | 3 => .ok (.ldd (fld w 20 5) (fld w 15 5) (fld w 0 11))
  | 4 => .ok (.ldbn (fld w 20 5) (fld w 15 5) (fld w 0 11))
  | 5 => .ok (.ldhn (fld w 20 5) (fld w 15 5) (fld w 0 11))
  | 6 => .ok (.ldwn (fld w 20 5) (fld w 15 5) (fld w 0 11))
  | 7 => .ok (.ldc (fld w 20 5) (fld w 15 5) (fld w 0 11))
  | 8 => .ok (.stb (fld w 20 5) (fld w 15 5) (fld w 0 11))
  | 9 => .ok (.sth (fld w 20 5) (fld w 15 5) (fld w 0 11))
  | 10 => .ok (.stw (fld w 20 5) (fld w 15 5) (fld w 0 11))
  | 11 => .ok (.std (fld w 20 5) (fld w 15 5) (fld w 0 11))
  | _ => .error .illegalFn

/-- Major 0x0F (R98). -/
def dec0F (dh : Bool) (w : BitVec 32) : Except BadWord Instr :=
  match (fld w 0 3).toNat with
  | 0 => okIf (csrReadOk dh (fld w 3 12)) (fld w 15 5 == 0) (.csrr (fld w 20 5) (fld w 3 12))
  | 1 => okIf (csrWriteOk dh (fld w 3 12)) (fld w 20 5 == 0) (.csrw (fld w 15 5) (fld w 3 12))
  | 2 => okIf (csrWriteOk dh (fld w 3 12)) (fld w 20 5 == 0) (.csrs (fld w 15 5) (fld w 3 12))
  | 3 => okIf (csrWriteOk dh (fld w 3 12)) (fld w 20 5 == 0) (.csrc (fld w 15 5) (fld w 3 12))
  | 4 => match (fld w 3 12).toNat with
    | 0 => okIf (true) (fld w 20 5 == 0) (.trap (fld w 15 5))
    | 1 => okIf (true) (fld w 15 10 == 0) .tret
    | 2 => .ok (.scall (fld w 20 5) (fld w 15 5))
    | 3 => okIf (true) (fld w 15 10 == 0) .brk
    | 4 => okIf (true) (fld w 15 10 == 0) .yield
    | 5 => okIf (true) (fld w 15 10 == 0) .cfence
    | 6 => okIf (true) (fld w 15 10 == 0) .halt
    | _ => .error .illegalFn
  | _ => .error .illegalFn

/-- Major 0x10 (R98). -/
def dec10 (w : BitVec 32) : Except BadWord Instr :=
  match (fld w 0 4).toNat with
  | 0 => okIf (true) (fld w 6 4 == 0) (.fadd (fld w 20 5) (fld w 15 5) (fld w 10 5) (fld w 4 2))
  | 1 => okIf (true) (fld w 6 4 == 0) (.fsub (fld w 20 5) (fld w 15 5) (fld w 10 5) (fld w 4 2))
  | 2 => okIf (true) (fld w 6 4 == 0) (.fmul (fld w 20 5) (fld w 15 5) (fld w 10 5) (fld w 4 2))
  | 3 => okIf (true) (fld w 6 4 == 0) (.ffma (fld w 20 5) (fld w 15 5) (fld w 10 5) (fld w 4 2))
  | 4 => okIf (true) (fld w 6 4 == 0) (.fdiv (fld w 20 5) (fld w 15 5) (fld w 10 5) (fld w 4 2))
  | 5 => okIf (true) (fld w 6 9 == 0) (.fsqrt (fld w 20 5) (fld w 15 5) (fld w 4 2))
  | 6 => okIf (true) (fld w 6 4 == 0) (.fmin (fld w 20 5) (fld w 15 5) (fld w 10 5) (fld w 4 2))
  | 7 => okIf (true) (fld w 6 4 == 0) (.fmax (fld w 20 5) (fld w 15 5) (fld w 10 5) (fld w 4 2))
  | 8 => okIf (decide ((fld w 6 4).toNat ≤ 3)) (true) (.fcmp (fld w 20 5) (fld w 15 5) (fld w 10 5) (fld w 6 4) (fld w 4 2))
  | 9 => okIf (decide ((fld w 6 4).toNat ≤ 11)) (fld w 10 5 == 0) (.fcvt (fld w 20 5) (fld w 15 5) (fld w 6 4) (fld w 4 2))
  | 10 => okIf (true) (fld w 6 9 == 0) (.fclass (fld w 20 5) (fld w 15 5) (fld w 4 2))
  | _ => .error .illegalFn

/-- Major 0x20 (R98). -/
def dec20 (w : BitVec 32) : Except BadWord Instr :=
  match (fld w 0 7).toNat with
  | 0 => .ok (.vadd (fld w 19 6) (fld w 13 6) (fld w 7 6))
  | 1 => .ok (.vsub (fld w 19 6) (fld w 13 6) (fld w 7 6))
  | 2 => .ok (.vmul (fld w 19 6) (fld w 13 6) (fld w 7 6))
  | 3 => .ok (.vfma (fld w 19 6) (fld w 13 6) (fld w 7 6))
  | 4 => .ok (.vfms (fld w 19 6) (fld w 13 6) (fld w 7 6))
  | 5 => .ok (.vdiv (fld w 19 6) (fld w 13 6) (fld w 7 6))
  | 6 => .ok (.vmin (fld w 19 6) (fld w 13 6) (fld w 7 6))
  | 7 => .ok (.vmax (fld w 19 6) (fld w 13 6) (fld w 7 6))
  | 8 => okIf (true) (fld w 7 6 == 0) (.vabs (fld w 19 6) (fld w 13 6))
  | 9 => okIf (true) (fld w 7 6 == 0) (.vneg (fld w 19 6) (fld w 13 6))
  | 10 => .ok (.vand (fld w 19 6) (fld w 13 6) (fld w 7 6))
  | 11 => .ok (.vor (fld w 19 6) (fld w 13 6) (fld w 7 6))
  | 12 => .ok (.vxor (fld w 19 6) (fld w 13 6) (fld w 7 6))
  | 13 => .ok (.vsll (fld w 19 6) (fld w 13 6) (fld w 7 6))
  | 14 => .ok (.vsrl (fld w 19 6) (fld w 13 6) (fld w 7 6))
  | 15 => .ok (.vsra (fld w 19 6) (fld w 13 6) (fld w 7 6))
  | 16 => .ok (.vmulh (fld w 19 6) (fld w 13 6) (fld w 7 6))
  | 17 => .ok (.vavg (fld w 19 6) (fld w 13 6) (fld w 7 6))
  | _ => .error .illegalFn

/-- Major 0x21 (R98). -/
def dec21 (w : BitVec 32) : Except BadWord Instr :=
  match (fld w 0 7).toNat with
  | 0 => okIf (maskOk (fld w 19 6)) (true) (.vcmpeq (fld w 19 6) (fld w 13 6) (fld w 7 6))
  | 1 => okIf (maskOk (fld w 19 6)) (true) (.vcmpne (fld w 19 6) (fld w 13 6) (fld w 7 6))
  | 2 => okIf (maskOk (fld w 19 6)) (true) (.vcmplt (fld w 19 6) (fld w 13 6) (fld w 7 6))
  | 3 => okIf (maskOk (fld w 19 6)) (true) (.vcmple (fld w 19 6) (fld w 13 6) (fld w 7 6))
  | 4 => okIf (true) (fld w 7 6 == 0) (.vmov (fld w 19 6) (fld w 13 6))
  | _ => if fld w 4 3 == 1#3 then okIf (decide ((fld w 0 4).toNat ≤ 11)) true (.vsel (fld w 19 6) (fld w 13 6) (fld w 7 6) (fld w 0 4)) else .error .illegalFn

/-- Major 0x22 (R98). -/
def dec22 (w : BitVec 32) : Except BadWord Instr :=
  match (fld w 0 8).toNat with
  | 0 => okIf (true) (fld w 13 6 == 0) (.vbcast (fld w 19 6) (fld w 8 5))
  | 1 => .ok (.vslideUp (fld w 19 6) (fld w 13 6) (fld w 8 5))
  | 2 => .ok (.vslideDn (fld w 19 6) (fld w 13 6) (fld w 8 5))
  | _ => .error .illegalFn

/-- Major 0x24 (R98). -/
def dec24 (w : BitVec 32) : Except BadWord Instr :=
  match (fld w 0 7).toNat with
  | 0 => .ok (.vredsum (fld w 19 6) (fld w 13 6) (fld w 7 6))
  | 1 => .ok (.vredmax (fld w 19 6) (fld w 13 6) (fld w 7 6))
  | 2 => .ok (.vredmin (fld w 19 6) (fld w 13 6) (fld w 7 6))
  | 3 => .ok (.vscan (fld w 19 6) (fld w 13 6) (fld w 7 6))
  | _ => .error .illegalFn

/-- Major 0x25 (R98). -/
def dec25 (w : BitVec 32) : Except BadWord Instr :=
  match (fld w 0 7).toNat with
  | 0 => .ok (.vperm (fld w 19 6) (fld w 13 6) (fld w 7 6))
  | 1 => okIf (true) (fld w 7 6 == 0) (.vcompress (fld w 19 6) (fld w 13 6))
  | 2 => okIf (true) (fld w 7 6 == 0) (.vexpand (fld w 19 6) (fld w 13 6))
  | _ => .error .illegalFn

/-- Major 0x26 (R98). -/
def dec26 (w : BitVec 32) : Except BadWord Instr :=
  match (fld w 0 7).toNat with
  | 0 => okIf (true) (fld w 7 6 == 0) (.vexp2 (fld w 19 6) (fld w 13 6))
  | 1 => okIf (true) (fld w 7 6 == 0) (.vlog2 (fld w 19 6) (fld w 13 6))
  | 2 => okIf (true) (fld w 7 6 == 0) (.vrcp (fld w 19 6) (fld w 13 6))
  | 3 => okIf (true) (fld w 7 6 == 0) (.vrsqrt (fld w 19 6) (fld w 13 6))
  | 4 => okIf (true) (fld w 7 6 == 0) (.vsqrt (fld w 19 6) (fld w 13 6))
  | 5 => okIf (true) (fld w 7 6 == 0) (.vtanh (fld w 19 6) (fld w 13 6))
  | 6 => okIf (true) (fld w 7 6 == 0) (.vsigm (fld w 19 6) (fld w 13 6))
  | _ => .error .illegalFn

/-- Major 0x27 (R98). -/
def dec27 (w : BitVec 32) : Except BadWord Instr :=
  match (fld w 0 7).toNat with
  | 0 => .ok (.spadd (fld w 19 6) (fld w 13 6) (fld w 7 6))
  | 1 => .ok (.spmul (fld w 19 6) (fld w 13 6) (fld w 7 6))
  | 2 => okIf (true) (fld w 7 6 == 0) (.spfrom (fld w 19 6) (fld w 13 6))
  | 3 => okIf (true) (fld w 7 6 == 0) (.spto (fld w 19 6) (fld w 13 6))
  | _ => .error .illegalFn

/-- Major 0x40 (R98). -/
def dec40 (w : BitVec 32) : Except BadWord Instr :=
  match (fld w 0 8).toNat with
  | 0 => okIf (true) (fld w 13 6 == 0) (.wdef (fld w 19 6) (fld w 8 5))
  | 1 => okIf (decide ((fld w 19 6).toNat ≤ (fld w 13 6).toNat)) (true) (.wsave (fld w 19 6) (fld w 13 6) (fld w 8 5))
  | 2 => okIf (decide ((fld w 19 6).toNat ≤ (fld w 13 6).toNat)) (true) (.wload (fld w 19 6) (fld w 13 6) (fld w 8 5))
  | 3 => okIf (true) (fld w 19 6 == 0) (.wspill (fld w 13 6) (fld w 8 5))
  | 4 => okIf (true) (fld w 13 6 == 0) (.wfill (fld w 19 6) (fld w 8 5))
  | _ => .error .illegalFn

/-- Major 0x43 (R98). -/
def dec43 (w : BitVec 32) : Except BadWord Instr :=
  match (fld w 6 4).toNat with
  | 0 => okIf (true) (fld w 10 5 == 0 && fld w 0 6 == 0) (.setvl (fld w 20 5) (fld w 15 5))
  | 1 => okIf (maskOk (fld w 0 6)) (fld w 10 10 == 0) (.mpopvl (fld w 20 5) (fld w 0 6))
  | 2 => okIf (maskOk (fld w 0 6)) (fld w 10 10 == 0) (.mcnt (fld w 20 5) (fld w 0 6))
  | 3 => okIf (maskOk (fld w 0 6)) (fld w 10 10 == 0) (.mfirst (fld w 20 5) (fld w 0 6))
  | 4 => okIf (true) (fld w 10 10 == 0) (.wget (fld w 20 5) (fld w 0 6))
  | 5 => okIf (true) (fld w 10 5 == 0 && fld w 0 6 == 0) (.setmodex (fld w 20 5) (fld w 15 5))
  | _ => .error .illegalFn

/-- Major 0x45 (R98). -/
def dec45 (w : BitVec 32) : Except BadWord Instr :=
  match (fld w 0 7).toNat with
  | 0 => okIf (maskOk (fld w 19 6) && maskOk (fld w 13 6) && maskOk (fld w 7 6)) (true) (.mand (fld w 19 6) (fld w 13 6) (fld w 7 6))
  | 1 => okIf (maskOk (fld w 19 6) && maskOk (fld w 13 6) && maskOk (fld w 7 6)) (true) (.mor (fld w 19 6) (fld w 13 6) (fld w 7 6))
  | 2 => okIf (maskOk (fld w 19 6) && maskOk (fld w 13 6) && maskOk (fld w 7 6)) (true) (.mxor (fld w 19 6) (fld w 13 6) (fld w 7 6))
  | 3 => okIf (maskOk (fld w 19 6) && maskOk (fld w 13 6) && maskOk (fld w 7 6)) (true) (.mandn (fld w 19 6) (fld w 13 6) (fld w 7 6))
  | 4 => okIf (maskOk (fld w 19 6) && maskOk (fld w 13 6) && maskOk (fld w 7 6)) (fld w 7 6 == 0) (.msbf (fld w 19 6) (fld w 13 6))
  | _ => .error .illegalFn

/-- Major 0x50 (R98). -/
def dec50 (w : BitVec 32) : Except BadWord Instr :=
  match (fld w 0 5).toNat with
  | 0 => okIf (true) (fld w 6 3 == 0) (.mrankAdd (fld w 21 4) (fld w 15 6) (fld w 9 6) (fld w 5 1))
  | 1 => okIf (true) (fld w 6 3 == 0) (.mrankSub (fld w 21 4) (fld w 15 6) (fld w 9 6) (fld w 5 1))
  | 2 => okIf (true) (fld w 5 4 == 0) (.mma (fld w 21 4) (fld w 15 6) (fld w 9 6))
  | 3 => okIf (decide ((fld w 15 6).toNat ≤ 62)) (fld w 5 4 == 0) (.mmasp (fld w 21 4) (fld w 15 6) (fld w 9 6))
  | 4 => okIf (decide ((fld w 15 6).toNat ≤ 62)) (fld w 21 4 == 0 && fld w 5 4 == 0) (.mcomp (fld w 15 6) (fld w 9 6))
  | 5 => okIf (true) (fld w 5 16 == 0) (.mzero (fld w 21 4))
  | 6 => okIf (true) (fld w 7 8 == 0) (.atow (fld w 21 4) (fld w 15 6) (fld w 6 1) (fld w 5 1))
  | 7 => okIf (true) (fld w 7 8 == 0) (.wtoa (fld w 21 4) (fld w 15 6) (fld w 6 1) (fld w 5 1))
  | 8 => okIf (decide ((fld w 5 2).toNat ≤ 2)) (fld w 7 8 == 0) (.ared (fld w 21 4) (fld w 15 6) (fld w 5 2))
  | 9 => okIf (true) (fld w 5 10 == 0) (.amulr (fld w 21 4) (fld w 15 6))
  | 10 => okIf (true) (fld w 5 10 == 0) (.aaddr (fld w 21 4) (fld w 15 6))
  | _ => .error .illegalFn

/-- Major 0x51 (R98). -/
def dec51 (w : BitVec 32) : Except BadWord Instr :=
  match (fld w 0 10).toNat with
  | 0 => okIf (true) (fld w 10 5 == 0) (.mstart (fld w 20 5) (fld w 15 5))
  | 1 => okIf (true) (fld w 10 15 == 0) .mstop
  | 2 => okIf (true) (fld w 20 5 == 0 && fld w 10 5 == 0) (.mclaim (fld w 15 5))
  | 3 => okIf (true) (fld w 20 5 == 0 && fld w 10 5 == 0) (.mrel (fld w 15 5))
  | _ => .error .illegalFn

/-- Major 0x60 (R98). -/
def dec60 (w : BitVec 32) : Except BadWord Instr :=
  match (fld w 1 6).toNat with
  | 0 => okIf (decide ((fld w 17 4).toNat ≤ 7)) (fld w 7 5 == 0 && fld w 0 1 == 0) (.hset (fld w 21 4) (fld w 17 4) (fld w 12 5))
  | 1 => okIf (true) (fld w 17 4 == 0 && fld w 7 5 == 0 && fld w 0 1 == 0) (.hld (fld w 21 4) (fld w 12 5))
  | 2 => okIf (true) (fld w 17 4 == 0 && fld w 7 5 == 0 && fld w 0 1 == 0) (.hst (fld w 21 4) (fld w 12 5))
  | 3 => okIf (decide ((fld w 17 4).toNat ≤ 7)) (fld w 7 5 == 0 && fld w 0 1 == 0) (.hget (fld w 21 4) (fld w 17 4) (fld w 12 5))
  | _ => .error .illegalFn

/-- Major 0x61 (R98). -/
def dec61 (w : BitVec 32) : Except BadWord Instr :=
  match (fld w 0 1).toNat with
  | 0 => okIf (true) (fld w 17 4 == 0) (.ldt (fld w 21 4) (fld w 12 5) (fld w 7 5) (fld w 1 6))
  | _ => okIf (true) (fld w 17 4 == 0) (.stt (fld w 21 4) (fld w 12 5) (fld w 7 5) (fld w 1 6))

/-- Major 0x62 (R98). -/
def dec62 (w : BitVec 32) : Except BadWord Instr :=
  match (fld w 0 1).toNat with
  | 0 => okIf (true) (fld w 17 8 == 0 && fld w 7 5 == 0) (.ldv (fld w 12 5) (fld w 1 6))
  | _ => okIf (true) (fld w 17 8 == 0 && fld w 7 5 == 0) (.stv (fld w 12 5) (fld w 1 6))

/-- Major 0x63 (R98). -/
def dec63 (w : BitVec 32) : Except BadWord Instr :=
  match (fld w 0 1).toNat with
  | 0 => okIf (true) (fld w 17 8 == 0) (.lds (fld w 12 5) (fld w 7 5) (fld w 1 6))
  | _ => okIf (true) (fld w 17 8 == 0) (.sts (fld w 12 5) (fld w 7 5) (fld w 1 6))

/-- Major 0x64 (R98). -/
def dec64 (w : BitVec 32) : Except BadWord Instr :=
  match (fld w 0 8).toNat with
  | 0 => .ok (.gath (fld w 19 6) (fld w 13 6) (fld w 8 5))
  | 1 => .ok (.scat (fld w 19 6) (fld w 13 6) (fld w 8 5))
  | 2 => .ok (.scatadd (fld w 19 6) (fld w 13 6) (fld w 8 5))
  | _ => .error .illegalFn

/-- Major 0x65 (R98). -/
def dec65 (w : BitVec 32) : Except BadWord Instr :=
  match (fld w 6 2).toNat with
  | 0 => match (fld w 0 6).toNat with
    | 0 => .ok (.glink (fld w 19 6) (fld w 13 6) (fld w 8 5))
    | 1 => .ok (.scond (fld w 19 6) (fld w 13 6) (fld w 8 5))
    | _ => .error .illegalFn
  | 1 => okIf (decide ((fld w 0 4).toNat ≤ 7)) (true) (.vamo (fld w 19 6) (fld w 13 6) (fld w 8 5) (fld w 5 1) (fld w 4 1) (fld w 0 4))
  | 2 => okIf (decide ((fld w 0 4).toNat ≤ 7)) (true) (.vamoOrd (fld w 19 6) (fld w 13 6) (fld w 8 5) (fld w 5 1) (fld w 4 1) (fld w 0 4))
  | _ => .error .illegalFn

/-- Major 0x66 (R98). -/
def dec66 (w : BitVec 32) : Except BadWord Instr :=
  match (fld w 8 2).toNat with
  | 0 => okIf (decide ((fld w 0 4).toNat ≤ 8) && ((fld w 6 1) == 0#1 || (fld w 0 4) == 4#4 || (fld w 0 4) == 5#4)) (true) (.amo (fld w 20 5) (fld w 15 5) (fld w 10 5) (fld w 7 1) (fld w 6 1) (fld w 5 1) (fld w 4 1) (fld w 0 4))
  | 1 => if fld w 4 4 == 0#4 then okIf (decide ((fld w 0 3).toNat ≤ 6)) (true) (.vwait (fld w 20 5) (fld w 15 5) (fld w 10 5) (fld w 3 1) (fld w 0 3)) else .error .illegalFn
  | _ => .error .illegalFn

/-- Major 0x67 (R98). -/
def dec67 (w : BitVec 32) : Except BadWord Instr :=
  if fld w 0 1 == 0#1 then .ok (.strm (fld w 21 4) (fld w 17 4) (fld w 12 5) (fld w 7 5) (fld w 1 6))
  else if fld w 12 5 == 0#5 then okIf (true) (fld w 17 8 == 0 && fld w 7 5 == 0) (.strmxUnbind (fld w 1 6))
  else okIf (true) (fld w 7 5 == 0) (.strmx (fld w 21 4) (fld w 17 4) (fld w 12 5) (fld w 1 6))

/-- Major 0x70 (R98). -/
def dec70 (w : BitVec 32) : Except BadWord Instr :=
  match (fld w 0 1).toNat with
  | 0 => okIf (true) (fld w 5 2 == 0) (.copy (fld w 21 4) (fld w 17 4) (fld w 12 5) (fld w 7 5) (fld w 1 4))
  | _ => okIf (true) (fld w 21 4 == 0 && fld w 1 11 == 0) (.copyBlock (fld w 17 4) (fld w 12 5))

/-- Major 0x71 (R98). -/
def dec71 (w : BitVec 32) : Except BadWord Instr :=
  match (fld w 0 1).toNat with
  | 0 => okIf (true) (fld w 6 1 == 0) (.qcopy (fld w 21 4) (fld w 17 4) (fld w 12 5) (fld w 7 5) (fld w 5 1) (fld w 1 4))
  | _ => okIf (true) (fld w 21 4 == 0 && fld w 1 11 == 0) (.qcopyBlock (fld w 17 4) (fld w 12 5))

/-- Major 0x75 (R98). -/
def dec75 (w : BitVec 32) : Except BadWord Instr :=
  match (fld w 0 1).toNat with
  | 0 => okIf (true) (fld w 21 4 == 0 && fld w 7 10 == 0) (.cwait (fld w 17 4) (fld w 1 6))
  | _ => okIf (true) (fld w 21 4 == 0 && fld w 1 11 == 0) (.cwaitX (fld w 17 4) (fld w 12 5))

/-- Major 0x76 (R98). -/
def dec76 (w : BitVec 32) : Except BadWord Instr :=
  match (fld w 0 1).toNat with
  | 0 => okIf (true) (fld w 21 4 == 0 && fld w 1 11 == 0) (.cread (fld w 17 4) (fld w 12 5))
  | _ => okIf (true) (fld w 21 4 == 0 && fld w 1 11 == 0) (.creadClr (fld w 17 4) (fld w 12 5))

/-- Major 0x77 (R98). -/
def dec77 (w : BitVec 32) : Except BadWord Instr :=
  match (fld w 0 5).toNat with
  | 0 => okIf (true) (fld w 5 4 == 0) (.gld (fld w 21 4) (fld w 15 6) (fld w 9 6))
  | 1 => .ok (.gscat (fld w 21 4) (fld w 15 6) (fld w 9 6) (fld w 5 4))
  | _ => .error .illegalFn

/-- Major 0x79 (R98). -/
def dec79 (w : BitVec 32) : Except BadWord Instr :=
  match (fld w 0 3).toNat with
  | 0 => okIf (scopeOk (fld w 3 3)) (fld w 6 19 == 0) (.vfence (fld w 3 3))
  | 1 => okIf (scopeOk (fld w 3 3)) (fld w 6 19 == 0) (.bar (fld w 3 3))
  | 2 => okIf (scopeOk (fld w 3 3)) (fld w 6 19 == 0) (.bara (fld w 3 3))
  | 3 => okIf (scopeOk (fld w 3 3)) (fld w 6 19 == 0) (.barw (fld w 3 3))
  | _ => .error .illegalFn

/-- Major 0x7A (R98). -/
def dec7A (w : BitVec 32) : Except BadWord Instr :=
  match (fld w 0 3).toNat with
  | 0 => okIf (true) (fld w 9 6 == 0) (.sbarr (fld w 20 5) (fld w 15 5) (fld w 3 6))
  | 1 => okIf (true) (fld w 9 6 == 0) (.sbarw (fld w 20 5) (fld w 15 5) (fld w 3 6))
  | 2 => okIf (true) (fld w 13 12 == 0) (.sbind (fld w 9 4) (fld w 3 6))
  | _ => .error .illegalFn

/-- Major 0x7B (R98). -/
def dec7B (w : BitVec 32) : Except BadWord Instr :=
  match (fld w 0 3).toNat with
  | 0 => okIf (true) (fld w 3 12 == 0) (.launch (fld w 20 5) (fld w 15 5))
  | 1 => okIf (true) (fld w 3 12 == 0) (.launchW (fld w 20 5) (fld w 15 5))
  | _ => .error .illegalFn

/-- The word as an instruction, or the first failing test of R101. `dh`: the hart is a dispatch hart. -/
def decodeMajor (dh : Bool) (w : BitVec 32) : Except BadWord Instr :=
  match (fld w 25 7).toNat with
  | 0x01 => dec01 w
  | 0x02 => .ok (.addi (fld w 20 5) (fld w 15 5) (fld w 0 15))
  | 0x03 => dec03 w
  | 0x04 => .ok (.lui (fld w 20 5) (fld w 0 20))
  | 0x05 => .ok (.auipc (fld w 20 5) (fld w 0 20))
  | 0x06 => .ok (.beq (fld w 20 5) (fld w 15 5) (fld w 0 15))
  | 0x07 => .ok (.bne (fld w 20 5) (fld w 15 5) (fld w 0 15))
  | 0x08 => .ok (.blt (fld w 20 5) (fld w 15 5) (fld w 0 15))
  | 0x09 => .ok (.bge (fld w 20 5) (fld w 15 5) (fld w 0 15))
  | 0x0A => .ok (.bltn (fld w 20 5) (fld w 15 5) (fld w 0 15))
  | 0x0B => .ok (.bgen (fld w 20 5) (fld w 15 5) (fld w 0 15))
  | 0x0C => .ok (.jal (fld w 20 5) (fld w 0 20))
  | 0x0D => .ok (.jalr (fld w 20 5) (fld w 15 5) (fld w 0 15))
  | 0x0E => dec0E w
  | 0x0F => dec0F dh w
  | 0x10 => dec10 w
  | 0x20 => dec20 w
  | 0x21 => dec21 w
  | 0x22 => dec22 w
  | 0x23 => okIf (typeCodeOk (fld w 0 8)) (fld w 8 5 == 0) (.vcvt (fld w 19 6) (fld w 13 6) (fld w 0 8))
  | 0x24 => dec24 w
  | 0x25 => dec25 w
  | 0x26 => dec26 w
  | 0x27 => dec27 w
  | 0x40 => dec40 w
  | 0x41 => .ok (.setmode (fld w 0 25))
  | 0x42 => okIf (true) (fld w 0 4 == 0) (.wdefi (fld w 19 6) (fld w 13 6) (fld w 4 9))
  | 0x43 => dec43 w
  | 0x44 => okIf (true) (fld w 15 10 == 0) (.brloop (fld w 0 15))
  | 0x45 => dec45 w
  | 0x50 => dec50 w
  | 0x51 => dec51 w
  | 0x52 => .ok (.mfetch (fld w 21 4) (fld w 17 4) (fld w 12 5) (fld w 7 5) (fld w 1 6) (fld w 0 1))
  | 0x53 => okIf (decide ((fld w 21 4).toNat ≤ 14)) (true) (.mfetchD (fld w 21 4) (fld w 17 4) (fld w 12 5) (fld w 7 5) (fld w 1 6) (fld w 0 1))
  | 0x54 => .ok (.mfetchPg (fld w 21 4) (fld w 17 4) (fld w 12 5) (fld w 7 5) (fld w 1 6) (fld w 0 1))
  | 0x55 => okIf (decide ((fld w 21 4).toNat ≤ 14)) (true) (.mfetchPgD (fld w 21 4) (fld w 17 4) (fld w 12 5) (fld w 7 5) (fld w 1 6) (fld w 0 1))
  | 0x56 => okIf (decide ((fld w 21 4).toNat ≤ 14)) (true) (.mfetchSh (fld w 21 4) (fld w 17 4) (fld w 12 5) (fld w 7 5) (fld w 1 6) (fld w 0 1))
  | 0x57 => okIf (decide ((fld w 21 4).toNat ≤ 13)) (true) (.mfetchShD (fld w 21 4) (fld w 17 4) (fld w 12 5) (fld w 7 5) (fld w 1 6) (fld w 0 1))
  | 0x60 => dec60 w
  | 0x61 => dec61 w
  | 0x62 => dec62 w
  | 0x63 => dec63 w
  | 0x64 => dec64 w
  | 0x65 => dec65 w
  | 0x66 => dec66 w
  | 0x67 => dec67 w
  | 0x68 => if fld w 3 7 == 0#7 then okIf (decide ((fld w 0 2).toNat ≤ 1)) (fld w 20 5 == 0) (.pref (fld w 15 5) (fld w 10 5) (fld w 2 1) (fld w 0 2)) else .error .illegalFn
  | 0x70 => dec70 w
  | 0x71 => dec71 w
  | 0x72 => okIf (true) (fld w 5 2 == 0 && fld w 0 1 == 0) (.relay (fld w 21 4) (fld w 17 4) (fld w 12 5) (fld w 7 5) (fld w 1 4))
  | 0x73 => okIf (decide ((fld w 4 2).toNat ≤ 2)) (fld w 21 4 == 0 && fld w 7 5 == 0 && fld w 0 1 == 0 && ((fld w 3 1) == 0#1 || decide ((fld w 1 2).toNat ≤ 1))) (.coll (fld w 17 4) (fld w 12 5) (fld w 6 1) (fld w 4 2) (fld w 3 1) (fld w 1 2))
  | 0x74 => okIf (decide ((fld w 1 4).toNat ≤ 8)) (fld w 21 4 == 0 && fld w 5 7 == 0 && fld w 0 1 == 0) (.encf (fld w 17 4) (fld w 12 5) (fld w 1 4))
  | 0x75 => dec75 w
  | 0x76 => dec76 w
  | 0x77 => dec77 w
  | 0x78 => okIf (true) (fld w 16 9 == 0) (.fencex (fld w 8 8) (fld w 0 8))
  | 0x79 => dec79 w
  | 0x7A => dec7A w
  | 0x7B => dec7B w
  | _ => .error .illegalOp

/-- Decoding a word (R101), with the majors a dispatch hart lacks refused first (R308). -/
def decodeWord (dh : Bool) (w : BitVec 32) : Except BadWord Instr :=
  if dh && !dispatchMajor (fld w 25 7).toNat then .error .illegalOp else decodeMajor dh w

/-- The 32-bit word stored least significant byte first (R88). -/
def wordOfBytes (a b c d : Byte) : BitVec 32 := d ++ c ++ b ++ a

/-- The four bytes of a word, lowest address first (R88). -/
def bytesOfWord (w : BitVec 32) : List Byte := [fld w 0 8, fld w 8 8, fld w 16 8, fld w 24 8]

/-- Decoding from bytes: the first word and the bytes that follow; none where there are fewer than four bytes. -/
def decodeBytes (dh : Bool) : List Byte → Option (Except BadWord Instr × List Byte)
  | a :: b :: c :: d :: rest => some (decodeWord dh (wordOfBytes a b c d), rest)
  | _ => none

/-- The instruction of a word whose bits are numbered as the opcode table numbers them. -/
def decodeTableWord (nbits w : Nat) : Option Instr :=
  match decodeBytes false (bytesOfWord (BitVec.ofNat 32 (w % 2 ^ nbits))) with
  | some (.ok i, _) => some i
  | _ => none

/-- The word of an instruction, from the format and opcode tables (R89, R98); none for a row without an encoding. -/
def encode : Instr → Option (BitVec 32)
  | .add d a b => some (0x1#7 ++ d ++ a ++ b ++ 0x0#10 : BitVec 32)
  | .sub d a b => some (0x1#7 ++ d ++ a ++ b ++ 0x1#10 : BitVec 32)
  | .and d a b => some (0x1#7 ++ d ++ a ++ b ++ 0x2#10 : BitVec 32)
  | .or d a b => some (0x1#7 ++ d ++ a ++ b ++ 0x3#10 : BitVec 32)
  | .xor d a b => some (0x1#7 ++ d ++ a ++ b ++ 0x4#10 : BitVec 32)
  | .sll d a b => some (0x1#7 ++ d ++ a ++ b ++ 0x5#10 : BitVec 32)
  | .srl d a b => some (0x1#7 ++ d ++ a ++ b ++ 0x6#10 : BitVec 32)
  | .sra d a b => some (0x1#7 ++ d ++ a ++ b ++ 0x7#10 : BitVec 32)
  | .mul d a b => some (0x1#7 ++ d ++ a ++ b ++ 0x8#10 : BitVec 32)
  | .mulh d a b => some (0x1#7 ++ d ++ a ++ b ++ 0x9#10 : BitVec 32)
  | .mulhn d a b => some (0x1#7 ++ d ++ a ++ b ++ 0xa#10 : BitVec 32)
  | .div d a b => some (0x1#7 ++ d ++ a ++ b ++ 0xb#10 : BitVec 32)
  | .divn d a b => some (0x1#7 ++ d ++ a ++ b ++ 0xc#10 : BitVec 32)
  | .rem d a b => some (0x1#7 ++ d ++ a ++ b ++ 0xd#10 : BitVec 32)
  | .remn d a b => some (0x1#7 ++ d ++ a ++ b ++ 0xe#10 : BitVec 32)
  | .min d a b => some (0x1#7 ++ d ++ a ++ b ++ 0xf#10 : BitVec 32)
  | .max d a b => some (0x1#7 ++ d ++ a ++ b ++ 0x10#10 : BitVec 32)
  | .minn d a b => some (0x1#7 ++ d ++ a ++ b ++ 0x11#10 : BitVec 32)
  | .maxn d a b => some (0x1#7 ++ d ++ a ++ b ++ 0x12#10 : BitVec 32)
  | .slt d a b => some (0x1#7 ++ d ++ a ++ b ++ 0x13#10 : BitVec 32)
  | .sltn d a b => some (0x1#7 ++ d ++ a ++ b ++ 0x14#10 : BitVec 32)
  | .sel d a b => some (0x1#7 ++ d ++ a ++ b ++ 0x15#10 : BitVec 32)
  | .lea1 d a b => some (0x1#7 ++ d ++ a ++ b ++ 0x16#10 : BitVec 32)
  | .lea2 d a b => some (0x1#7 ++ d ++ a ++ b ++ 0x17#10 : BitVec 32)
  | .lea4 d a b => some (0x1#7 ++ d ++ a ++ b ++ 0x18#10 : BitVec 32)
  | .lea8 d a b => some (0x1#7 ++ d ++ a ++ b ++ 0x19#10 : BitVec 32)
  | .clz d a => some (0x1#7 ++ d ++ a ++ 0x1a#15 : BitVec 32)
  | .ctz d a => some (0x1#7 ++ d ++ a ++ 0x1b#15 : BitVec 32)
  | .popc d a => some (0x1#7 ++ d ++ a ++ 0x1c#15 : BitVec 32)
  | .brev d a => some (0x1#7 ++ d ++ a ++ 0x1d#15 : BitVec 32)
  | .addi d a im => some (0x2#7 ++ d ++ a ++ im : BitVec 32)
  | .andi d a im => some (0x3#7 ++ d ++ a ++ 0x0#3 ++ im : BitVec 32)
  | .ori d a im => some (0x3#7 ++ d ++ a ++ 0x1#3 ++ im : BitVec 32)
  | .xori d a im => some (0x3#7 ++ d ++ a ++ 0x2#3 ++ im : BitVec 32)
  | .slti d a im => some (0x3#7 ++ d ++ a ++ 0x3#3 ++ im : BitVec 32)
  | .slli d a n => some (0x3#7 ++ d ++ a ++ 0x100#9 ++ n : BitVec 32)
  | .srli d a n => some (0x3#7 ++ d ++ a ++ 0x140#9 ++ n : BitVec 32)
  | .srai d a n => some (0x3#7 ++ d ++ a ++ 0x180#9 ++ n : BitVec 32)
  | .lui d im => some (0x4#7 ++ d ++ im : BitVec 32)
  | .auipc d im => some (0x5#7 ++ d ++ im : BitVec 32)
  | .beq a b o => some (0x6#7 ++ a ++ b ++ o : BitVec 32)
  | .bne a b o => some (0x7#7 ++ a ++ b ++ o : BitVec 32)
  | .blt a b o => some (0x8#7 ++ a ++ b ++ o : BitVec 32)
  | .bge a b o => some (0x9#7 ++ a ++ b ++ o : BitVec 32)
  | .bltn a b o => some (0xa#7 ++ a ++ b ++ o : BitVec 32)
  | .bgen a b o => some (0xb#7 ++ a ++ b ++ o : BitVec 32)
  | .jal d im => some (0xc#7 ++ d ++ im : BitVec 32)
  | .jalr d a im => some (0xd#7 ++ d ++ a ++ im : BitVec 32)
  | .ldb d a im => some (0xe#7 ++ d ++ a ++ 0x0#4 ++ im : BitVec 32)
  | .ldh d a im => some (0xe#7 ++ d ++ a ++ 0x1#4 ++ im : BitVec 32)
  | .ldw d a im => some (0xe#7 ++ d ++ a ++ 0x2#4 ++ im : BitVec 32)
  | .ldd d a im => some (0xe#7 ++ d ++ a ++ 0x3#4 ++ im : BitVec 32)
  | .ldbn d a im => some (0xe#7 ++ d ++ a ++ 0x4#4 ++ im : BitVec 32)
  | .ldhn d a im => some (0xe#7 ++ d ++ a ++ 0x5#4 ++ im : BitVec 32)
  | .ldwn d a im => some (0xe#7 ++ d ++ a ++ 0x6#4 ++ im : BitVec 32)
  | .ldc d a im => some (0xe#7 ++ d ++ a ++ 0x7#4 ++ im : BitVec 32)
  | .stb d a im => some (0xe#7 ++ d ++ a ++ 0x8#4 ++ im : BitVec 32)
  | .sth d a im => some (0xe#7 ++ d ++ a ++ 0x9#4 ++ im : BitVec 32)
  | .stw d a im => some (0xe#7 ++ d ++ a ++ 0xa#4 ++ im : BitVec 32)
  | .std d a im => some (0xe#7 ++ d ++ a ++ 0xb#4 ++ im : BitVec 32)
  | .csrr d sy => some (0xf#7 ++ d ++ 0x0#5 ++ sy ++ 0x0#3 : BitVec 32)
  | .csrw a sy => some (0xf#7 ++ 0x0#5 ++ a ++ sy ++ 0x1#3 : BitVec 32)
  | .csrs a sy => some (0xf#7 ++ 0x0#5 ++ a ++ sy ++ 0x2#3 : BitVec 32)
  | .csrc a sy => some (0xf#7 ++ 0x0#5 ++ a ++ sy ++ 0x3#3 : BitVec 32)
  | .trap a => some (0xf#7 ++ 0x0#5 ++ a ++ 0x4#15 : BitVec 32)
  | .tret => some (0xf#7 ++ 0xc#25 : BitVec 32)
  | .scall d a => some (0xf#7 ++ d ++ a ++ 0x14#15 : BitVec 32)
  | .brk => some (0xf#7 ++ 0x1c#25 : BitVec 32)
  | .yield => some (0xf#7 ++ 0x24#25 : BitVec 32)
  | .cfence => some (0xf#7 ++ 0x2c#25 : BitVec 32)
  | .halt => some (0xf#7 ++ 0x34#25 : BitVec 32)
  | .fadd d a b t => some (0x10#7 ++ d ++ a ++ b ++ 0x0#4 ++ t ++ 0x0#4 : BitVec 32)
  | .fsub d a b t => some (0x10#7 ++ d ++ a ++ b ++ 0x0#4 ++ t ++ 0x1#4 : BitVec 32)
  | .fmul d a b t => some (0x10#7 ++ d ++ a ++ b ++ 0x0#4 ++ t ++ 0x2#4 : BitVec 32)
  | .ffma d a b t => some (0x10#7 ++ d ++ a ++ b ++ 0x0#4 ++ t ++ 0x3#4 : BitVec 32)
  | .fdiv d a b t => some (0x10#7 ++ d ++ a ++ b ++ 0x0#4 ++ t ++ 0x4#4 : BitVec 32)
  | .fsqrt d a t => some (0x10#7 ++ d ++ a ++ 0x0#9 ++ t ++ 0x5#4 : BitVec 32)
  | .fmin d a b t => some (0x10#7 ++ d ++ a ++ b ++ 0x0#4 ++ t ++ 0x6#4 : BitVec 32)
  | .fmax d a b t => some (0x10#7 ++ d ++ a ++ b ++ 0x0#4 ++ t ++ 0x7#4 : BitVec 32)
  | .fcmp d a b c t => some (0x10#7 ++ d ++ a ++ b ++ c ++ t ++ 0x8#4 : BitVec 32)
  | .fcvt d a c t => some (0x10#7 ++ d ++ a ++ 0x0#5 ++ c ++ t ++ 0x9#4 : BitVec 32)
  | .fclass d a t => some (0x10#7 ++ d ++ a ++ 0x0#9 ++ t ++ 0xa#4 : BitVec 32)
  | .vadd d a b => some (0x20#7 ++ d ++ a ++ b ++ 0x0#7 : BitVec 32)
  | .vsub d a b => some (0x20#7 ++ d ++ a ++ b ++ 0x1#7 : BitVec 32)
  | .vmul d a b => some (0x20#7 ++ d ++ a ++ b ++ 0x2#7 : BitVec 32)
  | .vfma d a b => some (0x20#7 ++ d ++ a ++ b ++ 0x3#7 : BitVec 32)
  | .vfms d a b => some (0x20#7 ++ d ++ a ++ b ++ 0x4#7 : BitVec 32)
  | .vdiv d a b => some (0x20#7 ++ d ++ a ++ b ++ 0x5#7 : BitVec 32)
  | .vmin d a b => some (0x20#7 ++ d ++ a ++ b ++ 0x6#7 : BitVec 32)
  | .vmax d a b => some (0x20#7 ++ d ++ a ++ b ++ 0x7#7 : BitVec 32)
  | .vabs d a => some (0x20#7 ++ d ++ a ++ 0x8#13 : BitVec 32)
  | .vneg d a => some (0x20#7 ++ d ++ a ++ 0x9#13 : BitVec 32)
  | .vand d a b => some (0x20#7 ++ d ++ a ++ b ++ 0xa#7 : BitVec 32)
  | .vor d a b => some (0x20#7 ++ d ++ a ++ b ++ 0xb#7 : BitVec 32)
  | .vxor d a b => some (0x20#7 ++ d ++ a ++ b ++ 0xc#7 : BitVec 32)
  | .vsll d a b => some (0x20#7 ++ d ++ a ++ b ++ 0xd#7 : BitVec 32)
  | .vsrl d a b => some (0x20#7 ++ d ++ a ++ b ++ 0xe#7 : BitVec 32)
  | .vsra d a b => some (0x20#7 ++ d ++ a ++ b ++ 0xf#7 : BitVec 32)
  | .vmulh d a b => some (0x20#7 ++ d ++ a ++ b ++ 0x10#7 : BitVec 32)
  | .vavg d a b => some (0x20#7 ++ d ++ a ++ b ++ 0x11#7 : BitVec 32)
  | .vcmpeq d a b => some (0x21#7 ++ d ++ a ++ b ++ 0x0#7 : BitVec 32)
  | .vcmpne d a b => some (0x21#7 ++ d ++ a ++ b ++ 0x1#7 : BitVec 32)
  | .vcmplt d a b => some (0x21#7 ++ d ++ a ++ b ++ 0x2#7 : BitVec 32)
  | .vcmple d a b => some (0x21#7 ++ d ++ a ++ b ++ 0x3#7 : BitVec 32)
  | .vmov d a => some (0x21#7 ++ d ++ a ++ 0x4#13 : BitVec 32)
  | .vsel d a b k => some (0x21#7 ++ d ++ a ++ b ++ 0x1#3 ++ k : BitVec 32)
  | .vbcast d b => some (0x22#7 ++ d ++ 0x0#6 ++ b ++ 0x0#8 : BitVec 32)
  | .vslideUp d a b => some (0x22#7 ++ d ++ a ++ b ++ 0x1#8 : BitVec 32)
  | .vslideDn d a b => some (0x22#7 ++ d ++ a ++ b ++ 0x2#8 : BitVec 32)
  | .vcvt d a t => some (0x23#7 ++ d ++ a ++ 0x0#5 ++ t : BitVec 32)
  | .vredsum d a b => some (0x24#7 ++ d ++ a ++ b ++ 0x0#7 : BitVec 32)
  | .vredmax d a b => some (0x24#7 ++ d ++ a ++ b ++ 0x1#7 : BitVec 32)
  | .vredmin d a b => some (0x24#7 ++ d ++ a ++ b ++ 0x2#7 : BitVec 32)
  | .vscan d a b => some (0x24#7 ++ d ++ a ++ b ++ 0x3#7 : BitVec 32)
  | .vperm d a b => some (0x25#7 ++ d ++ a ++ b ++ 0x0#7 : BitVec 32)
  | .vcompress d a => some (0x25#7 ++ d ++ a ++ 0x1#13 : BitVec 32)
  | .vexpand d a => some (0x25#7 ++ d ++ a ++ 0x2#13 : BitVec 32)
  | .vexp2 d a => some (0x26#7 ++ d ++ a ++ 0x0#13 : BitVec 32)
  | .vlog2 d a => some (0x26#7 ++ d ++ a ++ 0x1#13 : BitVec 32)
  | .vrcp d a => some (0x26#7 ++ d ++ a ++ 0x2#13 : BitVec 32)
  | .vrsqrt d a => some (0x26#7 ++ d ++ a ++ 0x3#13 : BitVec 32)
  | .vsqrt d a => some (0x26#7 ++ d ++ a ++ 0x4#13 : BitVec 32)
  | .vtanh d a => some (0x26#7 ++ d ++ a ++ 0x5#13 : BitVec 32)
  | .vsigm d a => some (0x26#7 ++ d ++ a ++ 0x6#13 : BitVec 32)
  | .spadd d a b => some (0x27#7 ++ d ++ a ++ b ++ 0x0#7 : BitVec 32)
  | .spmul d a b => some (0x27#7 ++ d ++ a ++ b ++ 0x1#7 : BitVec 32)
  | .spfrom d a => some (0x27#7 ++ d ++ a ++ 0x2#13 : BitVec 32)
  | .spto d a => some (0x27#7 ++ d ++ a ++ 0x3#13 : BitVec 32)
  | .wdef d b => some (0x40#7 ++ d ++ 0x0#6 ++ b ++ 0x0#8 : BitVec 32)
  | .wsave d a b => some (0x40#7 ++ d ++ a ++ b ++ 0x1#8 : BitVec 32)
  | .wload d a b => some (0x40#7 ++ d ++ a ++ b ++ 0x2#8 : BitVec 32)
  | .wspill a b => some (0x40#7 ++ 0x0#6 ++ a ++ b ++ 0x3#8 : BitVec 32)
  | .wfill d b => some (0x40#7 ++ d ++ 0x0#6 ++ b ++ 0x4#8 : BitVec 32)
  | .setmode m => some (0x41#7 ++ m : BitVec 32)
  | .wdefi d a r => some (0x42#7 ++ d ++ a ++ r ++ 0x0#4 : BitVec 32)
  | .setvl d a => some (0x43#7 ++ d ++ a ++ 0x0#15 : BitVec 32)
  | .mpopvl d k => some (0x43#7 ++ d ++ 0x1#14 ++ k : BitVec 32)
  | .mcnt d k => some (0x43#7 ++ d ++ 0x2#14 ++ k : BitVec 32)
  | .mfirst d k => some (0x43#7 ++ d ++ 0x3#14 ++ k : BitVec 32)
  | .wget d w => some (0x43#7 ++ d ++ 0x4#14 ++ w : BitVec 32)
  | .setmodex d a => some (0x43#7 ++ d ++ a ++ 0x140#15 : BitVec 32)
  | .brloop o => some (0x44#7 ++ 0x0#10 ++ o : BitVec 32)
  | .mand d a b => some (0x45#7 ++ d ++ a ++ b ++ 0x0#7 : BitVec 32)
  | .mor d a b => some (0x45#7 ++ d ++ a ++ b ++ 0x1#7 : BitVec 32)
  | .mxor d a b => some (0x45#7 ++ d ++ a ++ b ++ 0x2#7 : BitVec 32)
  | .mandn d a b => some (0x45#7 ++ d ++ a ++ b ++ 0x3#7 : BitVec 32)
  | .msbf d a => some (0x45#7 ++ d ++ a ++ 0x4#13 : BitVec 32)
  | .mrankAdd t a b x => some (0x50#7 ++ t ++ a ++ b ++ 0x0#3 ++ x ++ 0x0#5 : BitVec 32)
  | .mrankSub t a b x => some (0x50#7 ++ t ++ a ++ b ++ 0x0#3 ++ x ++ 0x1#5 : BitVec 32)
  | .mma t a b => some (0x50#7 ++ t ++ a ++ b ++ 0x2#9 : BitVec 32)
  | .mmasp t v b => some (0x50#7 ++ t ++ v ++ b ++ 0x3#9 : BitVec 32)
  | .mcomp v b => some (0x50#7 ++ 0x0#4 ++ v ++ b ++ 0x4#9 : BitVec 32)
  | .mzero t => some (0x50#7 ++ t ++ 0x5#21 : BitVec 32)
  | .atow t d n x => some (0x50#7 ++ t ++ d ++ 0x0#8 ++ n ++ x ++ 0x6#5 : BitVec 32)
  | .wtoa t a n x => some (0x50#7 ++ t ++ a ++ 0x0#8 ++ n ++ x ++ 0x7#5 : BitVec 32)
  | .ared t d o => some (0x50#7 ++ t ++ d ++ 0x0#8 ++ o ++ 0x8#5 : BitVec 32)
  | .amulr t a => some (0x50#7 ++ t ++ a ++ 0x9#15 : BitVec 32)
  | .aaddr t a => some (0x50#7 ++ t ++ a ++ 0xa#15 : BitVec 32)
  | .mstart d a => some (0x51#7 ++ d ++ a ++ 0x0#15 : BitVec 32)
  | .mstop => some (0x51#7 ++ 0x1#25 : BitVec 32)
  | .mclaim a => some (0x51#7 ++ 0x0#5 ++ a ++ 0x2#15 : BitVec 32)
  | .mrel a => some (0x51#7 ++ 0x0#5 ++ a ++ 0x3#15 : BitVec 32)
  | .mfetch h c a b w x => some (0x52#7 ++ h ++ c ++ a ++ b ++ w ++ x : BitVec 32)
  | .mfetchD h c a b w x => some (0x53#7 ++ h ++ c ++ a ++ b ++ w ++ x : BitVec 32)
  | .mfetchPg h c a b w x => some (0x54#7 ++ h ++ c ++ a ++ b ++ w ++ x : BitVec 32)
  | .mfetchPgD h c a b w x => some (0x55#7 ++ h ++ c ++ a ++ b ++ w ++ x : BitVec 32)
  | .mfetchSh h c a b w x => some (0x56#7 ++ h ++ c ++ a ++ b ++ w ++ x : BitVec 32)
  | .mfetchShD h c a b w x => some (0x57#7 ++ h ++ c ++ a ++ b ++ w ++ x : BitVec 32)
  | .hset h n a => some (0x60#7 ++ h ++ n ++ a ++ 0x0#12 : BitVec 32)
  | .hld h a => some (0x60#7 ++ h ++ 0x0#4 ++ a ++ 0x2#12 : BitVec 32)
  | .hst h a => some (0x60#7 ++ h ++ 0x0#4 ++ a ++ 0x4#12 : BitVec 32)
  | .hget h n a => some (0x60#7 ++ h ++ n ++ a ++ 0x6#12 : BitVec 32)
  | .ldt h a b w => some (0x61#7 ++ h ++ 0x0#4 ++ a ++ b ++ w ++ 0x0#1 : BitVec 32)
  | .stt h a b w => some (0x61#7 ++ h ++ 0x0#4 ++ a ++ b ++ w ++ 0x1#1 : BitVec 32)
  | .ldv a w => some (0x62#7 ++ 0x0#8 ++ a ++ 0x0#5 ++ w ++ 0x0#1 : BitVec 32)
  | .stv a w => some (0x62#7 ++ 0x0#8 ++ a ++ 0x0#5 ++ w ++ 0x1#1 : BitVec 32)
  | .lds a b w => some (0x63#7 ++ 0x0#8 ++ a ++ b ++ w ++ 0x0#1 : BitVec 32)
  | .sts a b w => some (0x63#7 ++ 0x0#8 ++ a ++ b ++ w ++ 0x1#1 : BitVec 32)
  | .gath d a b => some (0x64#7 ++ d ++ a ++ b ++ 0x0#8 : BitVec 32)
  | .scat d a b => some (0x64#7 ++ d ++ a ++ b ++ 0x1#8 : BitVec 32)
  | .scatadd d a b => some (0x64#7 ++ d ++ a ++ b ++ 0x2#8 : BitVec 32)
  | .glink d a b => some (0x65#7 ++ d ++ a ++ b ++ 0x0#8 : BitVec 32)
  | .scond d a b => some (0x65#7 ++ d ++ a ++ b ++ 0x1#8 : BitVec 32)
  | .vamo d a b q r p => some (0x65#7 ++ d ++ a ++ b ++ 0x1#2 ++ q ++ r ++ p : BitVec 32)
  | .vamoOrd d a b q r p => some (0x65#7 ++ d ++ a ++ b ++ 0x2#2 ++ q ++ r ++ p : BitVec 32)
  | .amo d a b e n q r p => some (0x66#7 ++ d ++ a ++ b ++ 0x0#2 ++ e ++ n ++ q ++ r ++ p : BitVec 32)
  | .vwait d a b e c => some (0x66#7 ++ d ++ a ++ b ++ 0x10#6 ++ e ++ c : BitVec 32)
  | .strm h c a b w => some (0x67#7 ++ h ++ c ++ a ++ b ++ w ++ 0x0#1 : BitVec 32)
  | .strmx h c a w => some (0x67#7 ++ h ++ c ++ a ++ 0x0#5 ++ w ++ 0x1#1 : BitVec 32)
  | .strmxUnbind w => some (0x67#7 ++ 0x0#18 ++ w ++ 0x1#1 : BitVec 32)
  | .pref a b w l => some (0x68#7 ++ 0x0#5 ++ a ++ b ++ 0x0#7 ++ w ++ l : BitVec 32)
  | .copy h c a b hs => some (0x70#7 ++ h ++ c ++ a ++ b ++ 0x0#2 ++ hs ++ 0x0#1 : BitVec 32)
  | .copyBlock c a => some (0x70#7 ++ 0x0#4 ++ c ++ a ++ 0x1#12 : BitVec 32)
  | .qcopy h c a b x hs => some (0x71#7 ++ h ++ c ++ a ++ b ++ 0x0#1 ++ x ++ hs ++ 0x0#1 : BitVec 32)
  | .qcopyBlock c a => some (0x71#7 ++ 0x0#4 ++ c ++ a ++ 0x1#12 : BitVec 32)
  | .relay h c a b t => some (0x72#7 ++ h ++ c ++ a ++ b ++ 0x0#2 ++ t ++ 0x0#1 : BitVec 32)
  | .coll c a sw t o k => some (0x73#7 ++ 0x0#4 ++ c ++ a ++ 0x0#5 ++ sw ++ t ++ o ++ k ++ 0x0#1 : BitVec 32)
  | .encf c a e => some (0x74#7 ++ 0x0#4 ++ c ++ a ++ 0x0#7 ++ e ++ 0x0#1 : BitVec 32)
  | .cwait c k => some (0x75#7 ++ 0x0#4 ++ c ++ 0x0#10 ++ k ++ 0x0#1 : BitVec 32)
  | .cwaitX c a => some (0x75#7 ++ 0x0#4 ++ c ++ a ++ 0x1#12 : BitVec 32)
  | .cread c a => some (0x76#7 ++ 0x0#4 ++ c ++ a ++ 0x0#12 : BitVec 32)
  | .creadClr c a => some (0x76#7 ++ 0x0#4 ++ c ++ a ++ 0x1#12 : BitVec 32)
  | .gld g d w => some (0x77#7 ++ g ++ d ++ w ++ 0x0#9 : BitVec 32)
  | .gscat g d w c => some (0x77#7 ++ g ++ d ++ w ++ c ++ 0x1#5 : BitVec 32)
  | .fencex b a => some (0x78#7 ++ 0x0#9 ++ b ++ a : BitVec 32)
  | .vfence sc => some (0x79#7 ++ 0x0#19 ++ sc ++ 0x0#3 : BitVec 32)
  | .bar sc => some (0x79#7 ++ 0x0#19 ++ sc ++ 0x1#3 : BitVec 32)
  | .bara sc => some (0x79#7 ++ 0x0#19 ++ sc ++ 0x2#3 : BitVec 32)
  | .barw sc => some (0x79#7 ++ 0x0#19 ++ sc ++ 0x3#3 : BitVec 32)
  | .sbarr d a n => some (0x7a#7 ++ d ++ a ++ 0x0#6 ++ n ++ 0x0#3 : BitVec 32)
  | .sbarw d a n => some (0x7a#7 ++ d ++ a ++ 0x0#6 ++ n ++ 0x1#3 : BitVec 32)
  | .sbind c n => some (0x7a#7 ++ 0x0#12 ++ c ++ n ++ 0x2#3 : BitVec 32)
  | .launch d a => some (0x7b#7 ++ d ++ a ++ 0x0#15 : BitVec 32)
  | .launchW d a => some (0x7b#7 ++ d ++ a ++ 0x1#15 : BitVec 32)
  | .wordNotInstruction _ _ => none
  | .matrixQueueStart _ => none
  | .matrixInstructionComplete _ => none
  | .mfetchRowValid _ _ => none
  | .mfetchComplete _ _ => none
  | .engineCommandEnd _ _ => none
  | .engineCommandFault _ _ _ _ => none
  | .copyUnitArrival _ _ => none
  | .sheetMoving _ => none
  | .sheetNew _ => none
  | .collDelivery _ _ _ => none
  | .collTimeout _ _ => none
  | .encfBandRead _ _ => none
  | .bankAdd _ _ => none
  | .streamRefill _ _ => none
  | .completionWord _ => none
  | .preemptionPointReached _ => none
  | .contextSave _ => none
  | .freeCountReport _ _ => none
  | .placementConfirm _ _ => none
  | .gangYield _ _ => none
  | .aging _ _ => none
  | .unplaceableReservation _ => none
  | .criticalLaunch _ _ => none
  | .timeSharePreempt _ _ _ _ => none
  | .worldSwitch _ => none
  | .vwaitWake _ => none
  | .cwaitWake _ => none
  | .sbarwWake _ => none
  | .barwWake _ => none
  | .launchWWake _ => none
  | .fifoAccessWake _ => none
  | .dispatchStallEnd _ => none
  | .scallAnswer _ => none
  | .migrationRewalk _ => none
  | .remoteTimeout _ => none
  | .peerAccess _ => none
  | .flitReplay _ => none
  | .linkDown _ => none
  | .linkTrainingEnd _ _ => none
  | .linkTrainRequest _ => none
  | .cxlLinkLoss _ => none
  | .laneGroupFailure _ _ => none
  | .correctedError _ _ => none
  | .evictionDataError _ _ => none
  | .bankRetirement _ _ _ => none
  | .mbpost _ _ _ => none
  | .dispatchProgramStart _ => none
  | .bar2Read _ _ => none
  | .bar2Write _ _ => none
  | .hostAccessViolation _ _ _ => none
  | .registerWrite _ _ _ => none
  | .sessionPin _ => none
  | .sessionRelease _ => none
  | .sessionRequestDone => none
  | .bankModeChange _ _ _ _ => none
  | .bankModeChangeDone _ _ _ => none
  | .tlbinvPage _ => none
  | .tlbinvAsid _ => none
  | .tlbinvAll _ => none
  | .tlbinvDone => none
  | .fnrootWrite _ _ => none
  | .fnownWrite _ _ => none
  | .partWrite _ _ => none
  | .vfmapWrite _ _ => none
  | .functionLevelReset _ => none
  | .vfEnableClear => none
  | .pfFunctionLevelReset => none
  | .functionResetComplete _ => none
  | .freeze => none
  | .freezeComplete => none
  | .thaw => none
  | .fwVerifyStaged => none
  | .fwRaiseRollback => none
  | .fwOperationDone => none
  | .attestationRequest => none
  | .attestationDone => none
  | .powerCap _ => none
  | .powerOff => none
  | .powerThrottle _ => none
  | .thermalThrottle _ _ => none
  | .thermalTrip _ => none
  | .moduleReset => none
  | .firmwareVerified => none
  | .pcieLinkTrained => none
  | .hbmTrained => none
  | .cxlEnumerated _ _ => none
  | .diesReleased => none
  | .powerLoss => none
  | .colophonFlush => none
  | .colophonHour => none
  | .debuggerResume _ _ => none
  | .remoteAccessResponse _ => none
  | .pageMigration _ _ _ => none

end Sys2Proof
end

