-- ==== Sys2Proof/Machine/State.lean ====
section
/-!
DEFINITION. The state of the module: plain data. One hart is the one whose turn it is (`State.hart`); the others, with
their registers, are in `State.others`. The rest is what they share: memory, cluster-store banks, cores, the pending
launches, the hub's registers, and the time. `State.agenda` says what moves next (log 2).
-/
namespace Sys2Proof.Machine

open Sys2Proof

/-- Why a run of the model stops although the machine would go on. It has no constructor: no step of the model stops. -/
inductive Fault where
deriving DecidableEq, Repr

/-- Instructions without a meaning. -/
inductive Refusal where
  /-- Raised by an arm of `exec` that has no meaning yet. Safe. -/
  | notModelled (mnemonic : String)
deriving DecidableEq, Repr

/-! ## The hart -/

/-- A handle register (R206): eight double words, validity (R210), and the level entries a GRID handle holds (R258). -/
structure Handle where
  dw     : Vector Word 8
  valid  : Bool
  levels : List Word
deriving DecidableEq, Repr

def Handle.zero : Handle := { dw := Vector.replicate 8 0, valid := false, levels := [] }

/-- A completion counter (R229), with the address of the errata entry of its first poisoning, and that entry's number. -/
structure Counter where
  count  : BitVec 16
  poison : Bool
  first  : Word
  entry  : Nat
deriving DecidableEq, Repr

def Counter.zero : Counter := { count := 0, poison := false, first := 0, entry := 0 }

/-- What a hart that does not issue is waiting for. The first five park it (R20); the others do not. -/
inductive Wait where
  | vwait | cwait | sbarw | launchW | barw
  /-- The FIFO port of a bank without the entries or the room (R204). -/
  | fifo (bank : Nat)
  /-- A full engine or matrix queue, a counter at its limit, a stream without points, a fence's earlier accesses. -/
  | stall
  /-- A read or write of VFLAGS waiting for earlier work. -/
  | drain
  /-- HALT, from its fetch on: it is not fetched again (R133). -/
  | halt
  /-- A walk met a migrating entry (R337). -/
  | migration
  /-- A pod-remote access without its response (R21). -/
  | remote
deriving DecidableEq, Repr

/-- What a hart is doing. -/
inductive Status where
  /-- No launch has started here. -/
  | absent
  | running
  | waiting (w : Wait)
  /-- SCALL, until the supervisor answers (R129): the registers of its result and of the service number. -/
  | inScall (d a : BitVec 5)
  /-- BREAK with a debugger attached (R130). -/
  | atBreak
  /-- HALT has ended it (R133). -/
  | ended
  /-- A supervisor-class cause has halted it, or its launch was aborted (R18, R339). -/
  | halted
deriving DecidableEq, Repr

/-- Who a hart is: its launch, gang and place (R14), what the launch granted it (R10, R13), and whether it is a dispatch
hart (R306). `resident` says that it holds a core slot; a hart that is saved does not (R12, R349). -/
structure Ident where
  id       : Nat
  dispatch : Bool
  queue    : Nat
  fn       : Nat
  serial   : Nat
  gang     : Nat
  rank     : Nat
  gcount   : Nat
  gsize    : Nat
  gscope   : Nat
  cls      : Nat
  sessv    : Bool
  session  : Nat
  podid    : Nat
  sbFirst  : Nat
  sbNum    : Nat
  shape    : Nat
  die      : Nat
  quad     : Nat
  core     : Nat
  slot     : Nat
  degr     : Bool
  resident : Bool
  grows    : Nat
  accb     : Nat
  troot    : Word
  ctxown   : Word
deriving DecidableEq, Repr

/-- The vector state: the mode and length registers, the window and mask registers, and the galley stripe. The galley
maps row times 512 plus the byte of the stripe to the byte, bytes of 0 unlisted. -/
structure VecState where
  vmode  : Word
  vl     : Nat
  vstart : Nat
  vflags : BitVec 9
  lc     : Word
  rcur   : Nat
  rlo    : Nat
  rhi    : Nat
  pass   : Nat
  cmask  : BitVec 1024
  w      : Vector Word 64
  m      : Vector (BitVec 1024) 12
  galley : List Host.Cell
deriving DecidableEq, Repr

/-- One entry of the matrix queue (R182) with the values it captured at dispatch (R47): `bytes` holds MMASP's metadata
(R193), or the slot of MCLAIM. An entry of MCLAIM, MSTART or MSTOP is the part of it that keeps queue order (R176, R179).
`fetch` is the number of an MFETCH's fetch, and `k` the next step of a started MMA (R200). -/
structure MEntry where
  op      : Instr
  vmode   : Word
  vl      : Nat
  mvl     : Word
  rcur    : Nat
  rlo     : Nat
  rhi     : Nat
  wa      : Word
  wb      : Word
  fetch   : Nat
  bytes   : List Nat
  started : Bool
  k       : Nat
  flags   : BitVec 9
deriving DecidableEq, Repr

/-- An MFETCH the fetcher carries out (R186 to R189): captured handles, coordinates and destination, the next row to
deliver, the bound stage barrier, and the earlier accesses a FENCEX makes it wait for. `behind` says that it has left the
queue behind a started instruction that has not completed (R182). -/
structure Fetch where
  id      : Nat
  op      : Instr
  ctr     : Nat
  sb      : Option Nat
  deps    : List Nat
  issued  : Nat
  inQueue : Bool
  behind  : Bool
  scale   : Nat
  delta   : Bool
  tr      : Bool
  h       : Handle
  hs      : Handle
  hd      : Handle
  c       : List Nat
  win     : Word
  vmode   : Word
  mvl     : Word
  rcur    : Nat
  rlo     : Nat
  rhi     : Nat
  row     : Nat
  faulted : Bool
  flags   : BitVec 9
deriving DecidableEq, Repr

/-- The matrix state: MVL (R175), the accumulator words at (tile times MVL + row) times MVL + column (R177), the claimed
slots (R179), the scale planes (R180) at (row div 16) times 1,024 plus the stripe's column, entries of 127 unlisted, the
slot rows that are not valid (R181), the queue, and the fetches. -/
structure MatState where
  mvl     : Word
  acc     : List (Nat × BitVec 32)
  claimed : List Nat
  plane   : List Host.Cell
  rowBusy : List (Nat × Nat)
  mq      : List MEntry
  fetches : List Fetch
deriving DecidableEq, Repr

/-- An engine command in flight (R227): what it captured, the units it has delivered, the bound barrier, and the earlier
accesses a FENCEX makes it wait for. -/
structure Cmd where
  id     : Nat
  op     : Instr
  ctr    : Nat
  sb     : Option Nat
  deps   : List Nat
  issued : Nat
  h      : Handle
  hs     : Handle
  c      : List Nat
  block  : List Byte
  addr   : Word
  units  : Nat
deriving DecidableEq, Repr

/-- A bank add that has been issued and not performed (R216, R262): its instruction, the place, the virtual address of
its first contribution, the element type's code, the partial, and the GSCAT command it belongs to. -/
structure BankAdd where
  id    : Nat
  op    : Instr
  pa    : Nat
  va    : Nat
  ty    : BitVec 8
  part  : Nat
  cmd   : Option Nat
  deps  : List Nat
deriving DecidableEq, Repr

/-- A FENCEX that still binds: the accesses it waits for, and the classes that wait (R255). -/
structure Fence where
  before : List Nat
  after  : BitVec 8
deriving DecidableEq, Repr

/-- A bound window (R221, R222): the walk, the next point to buffer, and the buffered bits. -/
structure Stream where
  id      : Nat
  win     : Nat
  op      : Instr
  ctr     : Nat
  deps    : List Nat
  h       : Handle
  vmode   : Word
  raster  : Bool
  start   : List Nat
  counts  : List Nat
  steps   : List Int
  pos     : Nat
  buf     : List Nat
  faulted : Bool
deriving DecidableEq, Repr

/-- What a hart has under way outside its own streams. -/
structure EngState where
  cmds    : List Cmd
  adds    : List BankAdd
  fences  : List Fence
  streams : List Stream
  /-- The link set: its lines, and whether each tag is unbroken (R217). -/
  link    : Option (List (Nat × Bool))
  /-- The errata pending state, with the first entry's address (R233). -/
  errPend : Option Word
  /-- The unused SBIND bindings: counters and their barriers, each counter once (R252). -/
  sbind   : List (Nat × Nat)
  /-- Arrivals at the barrier of each scope, lane to pod (R257). -/
  arrived : Vector Nat 6
  /-- A BAR that has arrived and waits, and its scope. -/
  barWait : Option Nat
  /-- The record of a LAUNCH or LAUNCH.W that waits (R30, R135), and whether its BADREC test has been passed. -/
  launchRec : Option (Bool × List Word)
deriving DecidableEq, Repr

/-- The trap registers (R136, R54). -/
structure TrapState where
  utvec  : Word
  tepc   : Word
  tcause : Word
  tval   : Word
  tpos   : Word
  twin   : Word
deriving DecidableEq, Repr

/-- A TLB, of a core or of a quad (R334), by the number of either; or the ATS cache of the host port (R302, R336). -/
inductive TlbPlace where
  | core (c : Nat)
  | quad (q : Nat)
  | ats
deriving DecidableEq, Repr

/-- A TLB entry (R334): the leaf of a page of 2^`size` bytes of an address space. -/
structure TlbEntry where
  place : TlbPlace
  asid  : Nat
  vpn   : Nat
  size  : Nat
  leaf  : Word
deriving DecidableEq, Repr

/-- A table entry that a die's walker caches (R334): address space, the lowest index bit of its level, the bits of the
address above it, and the entry. -/
structure WalkEntry where
  die  : Nat
  asid : Nat
  lo   : Nat
  tag  : Nat
  e    : Word
deriving DecidableEq, Repr

/-- A run of consecutive pages of 2^`size` bytes: the first one's number, and how many (R335). -/
structure PinRun where
  size  : Nat
  first : Nat
  n     : Nat
deriving DecidableEq, Repr

/-- The translations that an access under way has pinned (R281, R335): its runs of pages, or its whole address space; whether
the runs are in the core's pin store; and the page tables and TLBs as they stood when it translated. -/
structure Pins where
  runs   : List PinRun
  whole  : Bool
  store  : Bool
  mem    : List Host.Cell
  tlb    : List TlbEntry
  wcache : List WalkEntry
deriving DecidableEq, Repr

/-- What befalls the instruction of a hart's turn inside it. -/
inductive Strike where
  /-- It stops, asked to (R21): before element `k`; or, of an unordered one, in the segment from `k` on, with the elements
  of `done` complete. -/
  | stop (k : Nat) (done : BitVec 1024)
  /-- An uncorrectable error of the lane's result, or of a galley cell of the window of a role, at element k (R344, R369). -/
  | fault (k role lane : Nat)
  /-- It is tried: does it run without a trap, a wait or a device page (R114)? -/
  | probe
deriving DecidableEq, Repr

/-- A store that a hart has made and that has not performed (R267, R268): its place, its virtual address, its bytes, the bits
of them that it writes (one nibble of one byte, R264, or all), and when it was made. -/
structure Posted where
  key   : Nat
  va    : Nat
  bytes : List Byte
  mask  : Byte
  since : Nat
deriving DecidableEq, Repr

/-- What an observer or an engine class of a hart still reads: memory, its poison marks, and the banks' contents as they were
at an earlier place of the global order (R267, R269, R271). For an observer also: the X registers that depend on a later load
of the other stream (R270), and how often it has read each aligned 8 bytes here (R268). -/
structure View where
  mem    : List Host.Cell
  poison : List Nat
  banks  : List (Nat × List Host.Cell)
  taint  : BitVec 32
  seen   : List (Nat × Nat)
deriving DecidableEq, Repr

/-- An access that has been dispatched and has not performed (R269): its number, its instruction, its pc, and what it captured:
X registers, vector state (without the galley), FCSR, handles, MVL, the claimed slots, the fences that bind it, its translations,
and memory as it was at dispatch; and since when no earlier store of its stream is unperformed (R268). -/
structure Late where
  id      : Nat
  op      : Instr
  pc      : Word
  x       : Vector Word 32
  vec     : VecState
  fcsr    : Word
  h       : Vector Handle 16
  mvl     : Word
  claimed : List Nat
  fences  : List Fence
  pins    : Pins
  back    : View
  since   : Nat
deriving DecidableEq, Repr

/-- What the memory model leaves to a hart's accesses (R265 to R273, log 4): for either stream, whether its stores are held
back, and those that are; the views of the streams and of the engine classes; and the accesses of either stream that are under way,
in program order. -/
structure Weak where
  holdS : Bool
  holdV : Bool
  postS : List Posted
  postV : List Posted
  viewS : Option View
  viewV : Option View
  viewE : List (Nat × View)
  late  : List Late
deriving DecidableEq, Repr

def Weak.calm : Weak :=
  { holdS := false, holdV := false, postS := [], postV := [], viewS := none, viewV := none, viewE := [], late := [] }

/-- A hart. -/
structure Hart where
  who     : Ident
  status  : Status
  /-- It is asked to stop at its next pre-emption point (R12, R21). -/
  stopReq : Bool
  /-- It has stopped at a pre-emption point and executes nothing until it is resumed. -/
  stopped : Bool
  /-- A lane group of its core has been remapped: it resumes on the same core (R7). -/
  sameCore : Bool
  /-- It is being stopped by a world switch, or was (R355, R359). -/
  world   : Bool
  /-- What became of the pod-remote access it waits for: its response has arrived (true), or has not in time (false). -/
  remote  : Option Bool
  /-- The translations of that access. -/
  pins    : Option Pins
  strike  : Option Strike
  /-- The accesses whose place in the global order is still open. -/
  weak    : Weak
  /-- The time its current wait began (R376). -/
  waitFrom : Nat
  x       : Vector Word 32
  pc      : Word
  fcsr    : Word
  vec     : VecState
  mat     : MatState
  h       : Vector Handle 16
  c       : Vector Counter 16
  eng     : EngState
  trap    : TrapState
  ev      : Vector (BitVec 48) 8
  evsel   : Vector Word 8
  /-- Constant-path entries: address and value (R115). -/
  ccache  : List (Nat × Word)
  /-- Words fetched ahead: address and word (R276). -/
  icache  : List (Nat × BitVec 32)
deriving DecidableEq, Repr

/-! ## Memory, banks, cores -/

/-- A line in a quad's cache, in a set of it and in the way of a CACHE bank (R204), or, for none, in the die cache that is its
home, by the number of the die (R202); with its owner tag (R361). -/
structure CacheLine where
  quad : Option Nat
  set  : Nat
  way  : Nat
  line : Nat
  own  : Nat
deriving DecidableEq, Repr

/-- A cluster-store bank (R204): mode, contents (bytes of 0 unlisted), FIFO entries, the session that pins it, the gang
that holds it, retirement, and the mode it is being changed to. -/
structure Bank where
  mode     : BankMode
  data     : List Host.Cell
  fifo     : List Word
  session  : Option Nat
  holder   : Option (Nat × Nat)
  retired  : Bool
  changing : Option BankMode
deriving DecidableEq, Repr

def Bank.init : Bank :=
  { mode := .cache, data := [], fifo := [], session := none, holder := none, retired := false, changing := none }

/-- A core's lanes (R7, R8, R393): the physical groups that have failed, and its state; those that are to be retired at its
next pre-emption point, and the times of corrected residue errors by group (R370). -/
structure CoreState where
  failed   : List Nat
  degraded : Bool
  out      : Bool
  pending  : List Nat
  residue  : List (Nat × Nat)
deriving DecidableEq, Repr

def CoreState.init : CoreState := { failed := [], degraded := false, out := false, pending := [], residue := [] }

/-- A compute die (R383, R384): the steps by which its arithmetic clock is lowered for temperature, its hottest sensor,
whether that has passed 95 °C and is not below it again, since when it has been above 105 °C, and a thermal trip. -/
structure DieState where
  heat    : Nat
  temp    : Nat
  hot     : Bool
  above   : Option Nat
  tripped : Bool
deriving DecidableEq, Repr

def DieState.init : DieState := { heat := 0, temp := 0, hot := false, above := none, tripped := false }

/-- The conversion of a RELAY (R241, R242): the address space, the issuing hart, the command, the handle, the old pitch,
and the sheets' states (0 OLD, 1 MOVING, 2 NEW), held by the engine itself. `failed` is the fault that has stopped it, while
sheets that are MOVING become NEW; `dead` says that it has ended by it. -/
structure Relay where
  id     : Nat
  asid   : Nat
  hid    : Nat
  cmd    : Nat
  h      : Handle
  oldLd  : Nat
  sheets : List Nat
  failed : Option (BitVec 8 × Nat)
  dead   : Bool
deriving DecidableEq, Repr

/-! ## Launches -/

/-- The fields of a launch record (R311). -/
structure LaunchRec where
  entry    : Nat
  args     : Nat
  done     : Nat
  deadline : Nat
  cls      : Nat
  shape    : Nat
  scope    : Nat
  gsize    : Nat
  count    : Nat
  irq      : Bool
  sbNum    : Nat
  sbFirst  : Nat
  accb     : Nat
  rows     : Nat
  podid    : Nat
  sessv    : Bool
  session  : Nat
  est      : Nat
deriving DecidableEq, Repr

/-- Where a started gang stands. -/
inductive GangStatus where
  | placed | preempted | ended
deriving DecidableEq, Repr

/-- A started gang: the scope instance it occupies, when it was placed and when pre-empted, and its aging (R317). -/
structure Gang where
  index   : Nat
  status  : GangStatus
  inst    : Nat
  placeAt : Nat
  preAt   : Nat
  aged    : Nat
  stop    : Bool
deriving DecidableEq, Repr

/-- A pending launch (R313): its record, queue and function, its stage barriers (R251; barriers of 0 unlisted), its gangs
in order of start, and what its completion word will say (R16); the constants and words that its harts have taken since it
started (R276). -/
structure Launch where
  desc    : LaunchRec
  serial  : Nat
  queue   : Nat
  fn      : Nat
  troot   : Word
  ctxown  : Word
  sbs     : List (Nat × (BitVec 32 × Bool))
  gangs   : List Gang
  started : Nat
  gdone   : Nat
  aborted : Bool
  cause   : BitVec 8
  quiet   : Bool
  enqAt   : Nat
  lastAt  : Nat
  aged    : Nat
  debug   : Bool
  ccache  : List (Nat × Word)
  icache  : List (Nat × BitVec 32)
deriving DecidableEq, Repr

/-- A gang the distributor has reserved places for and not yet started (R316). -/
structure Reservation where
  serial : Nat
  gang   : Nat
  inst   : Nat
  places : List (Nat × Nat)
deriving DecidableEq, Repr

/-- The functions' turns in a partition (R354): whose turn it is, the turns it still has with this one, when the turn
began, and the function to which a world switch is going on (R355). -/
structure Turn where
  fn    : Nat
  left  : Nat
  since : Nat
  into  : Option Nat
deriving DecidableEq, Repr

/-- The kinds of Dusk-queue work (R322). -/
inductive DuskKind where
  /-- The Hexja translator (R298). -/
  | translator
  | scrub
  /-- The colophon's flush (R373). -/
  | flush
deriving DecidableEq, Repr

/-- Dusk-queue work (R322): its kind, its shape, and the cores and slots it occupies; none while it waits. -/
structure DuskJob where
  num    : Nat
  kind   : DuskKind
  shape  : Nat
  places : List (Nat × Nat)
deriving DecidableEq, Repr

structure Sched where
  launches   : List Launch
  nextSerial : Nat
  reserved   : Option Reservation
  /-- The launch, gang and instance that R318 keeps free for an unplaceable first candidate of its function (R356). -/
  blocked    : List (Nat × Nat × Nat)
  /-- By function: the queue whose pass of the round robin goes on, and the placements it has had in it (R318, R356). -/
  rr         : List (Nat × (Nat × Nat))
  /-- Candidates, by launch and gang, that were found not to fit, and since when (R318, R320). -/
  unplaced   : List ((Nat × Nat) × Nat)
  turns      : List (Nat × Turn)
  /-- Pod rendezvous identifiers and the phases in which every hart of the other modules has arrived (R257). -/
  podPeers   : List (Nat × Nat)
  dusk       : List DuskJob
deriving DecidableEq, Repr

/-! ## The hub -/

/-- A launch queue (R307). -/
structure QueueRegs where
  cfg   : Word
  posts : List Word
  drop  : Bool
  err   : Bool
  cause : BitVec 8
  mberr : Word
deriving DecidableEq, Repr

def QueueRegs.init : QueueRegs := { cfg := 1, posts := [], drop := false, err := false, cause := 0, mberr := 0 }

/-- A function's registers (R333, R341, R364), and a reset in progress (R358). -/
structure FnRegs where
  root    : Word
  own     : Word
  errBase : Word
  errLg   : Nat
  errHead : Word
  evBase  : Word
  evLg    : Nat
  evHead  : Word
  ovfStat : Word
  ovfVec  : Word
  reset   : Bool
deriving DecidableEq, Repr

def FnRegs.init : FnRegs :=
  { root := 0, own := 0, errBase := 0, errLg := 0, errHead := 0, evBase := 0, evLg := 0, evHead := 0,
    ovfStat := 0, ovfVec := 1, reset := false }

/-- An entry of the violation log (R346). -/
structure Violation where
  addr : Word
  src  : Nat
  kind : Nat
  time : Nat
deriving DecidableEq, Repr

/-- A Kwator port (R374, R375). -/
structure Port where
  peer     : Nat
  retrains : Nat
  ev       : Bool
  lanes    : BitVec 4
  state    : Nat
  replays  : Nat
deriving DecidableEq, Repr

def Port.init : Port := { peer := 0, retrains := 0, ev := false, lanes := 0, state := 0, replays := 0 }

/-- A request register's answer: 0 done, 1 busy, 2 rejected. -/
abbrev Res := Nat

/-- The firmware and attestation state (R379 to R381). An image is its bytes. -/
structure Security where
  fwRes     : Res
  fwOp      : Nat
  slots     : Vector (List Byte) 2
  booted    : Option Nat
  /-- Neither slot has verified (R379). -/
  failed    : Bool
  rollback  : Nat
  stage     : List Host.Cell
  measured  : List (List Word)
  nonce     : Vector Word 4
  attRes    : Res
  report    : List Byte
deriving DecidableEq, Repr

structure Hub where
  queues   : List (Nat × QueueRegs)
  fns      : List (Nat × FnRegs)
  parts    : List (Nat × Word)
  vfmaps   : List (Nat × Word)
  ownmap   : List (Nat × Word)
  step     : Nat
  ready    : Bool
  cxlUp    : BitVec 8
  cxlCap   : Nat
  bar2win  : Word
  podexp   : Word
  sessRes  : Res
  sessReq  : Word
  tlbRes   : Res
  tlbReq   : Word
  viol     : List Violation
  violHead : Nat
  colsel   : Word
  colo     : List (Nat × Nat)
  coloNv   : List (Nat × Nat)
  coloHour : List (Nat × Nat)
  hourNv   : List (Nat × Nat)
  /-- Operating seconds of the colophon's current hour, now and as flushed (R371, R373). -/
  hourSecs : Nat
  hourNvSecs : Nat
  /-- Nanoseconds since the last flush of ten minutes (R373). -/
  sinceFlush : Nat
  ports    : List (Nat × Port)
  snap     : Nat
  thawPend : Bool
  pwrCap   : Nat
  pwrSteps : Nat
  watts    : Nat
  offPend  : Bool
  /-- HUBSTAT has been returned to its reset value (R358). -/
  statClear : Bool
  /-- A reset of the physical function waits for those of the virtual functions (R358). -/
  pfPend   : Bool
  sec      : Security
deriving DecidableEq, Repr

/-! ## What moves next -/

/-- One entry of the agenda. -/
inductive Act where
  /-- This hart takes its turn. -/
  | run (hid : Nat)
  /-- A step of the module without an encoding happens. -/
  | event (i : Instr)
  /-- Device time passes. -/
  | tick (ns : Nat)
  /-- `n` events of a code that the model does not derive (cycles, link flits, R360) occur, for a hart or for the module. -/
  | count (hid code n : Nat)
  /-- The stores of a hart's scalar or vector stream (`vec`) are held back from now on, or are not (R267). -/
  | hold (hid : Nat) (vec on : Bool)
  /-- The oldest store of a stream that is held back performs. -/
  | performStore (hid : Nat) (vec : Bool)
  /-- What a stream (classes 0 and 1) or an engine class of a hart reads stays as it is now, or is current again (R269, R271). -/
  | view (hid cls : Nat)
  | viewDrop (hid cls : Nat)
  /-- The hart's next instruction, an access that may, is dispatched, and performs later; the oldest such of a stream performs
  (R269). -/
  | late (hid : Nat)
  | performLate (hid : Nat) (vec : Bool)
  /-- The hart's quad cache, or a die cache, prefetches the line at an address (R338), or a line leaves a cache (R361). -/
  | cacheFill (hid va : Nat) (quad : Bool)
  | cacheDrop (quad : Option Nat) (line : Nat)
  /-- The hart takes its turn, and its instruction stops inside (R21). -/
  | stopIn (hid k : Nat) (done : BitVec 1024)
  /-- The hart takes its turn, and meets an uncorrectable error at element k (R344, R369): `role` names the window; `residue`
  says that it is the lane's arithmetic that failed. -/
  | cellError (hid k role lane : Nat) (residue : Bool)
  /-- The matrix instruction under way meets an uncorrectable error: of element k of the window of a role, or, for role 0, of
  the accumulator or of a result of the lane. -/
  | matError (hid k role lane : Nat) (residue : Bool)
  /-- The hart takes its turn, and a line it may read gives an uncorrectable error (R344, R370). -/
  | badRead (hid line : Nat)
  /-- An uncorrectable error comes to be in a line (R344). -/
  | lineError (line : Nat)
  /-- A flit of a port passes its check (R375). -/
  | flitGood (port : Nat)
  /-- A memory write of the host that carries the Data Poisoning indication (R302). -/
  | poisonedWrite (off : Nat) (bytes : List Byte)
  /-- The module has thawed (R377). -/
  | thawEnd
  /-- A group that is to be retired on a core without a hart (R370). -/
  | retireIdle (core : Nat)
  /-- The line leaves the die cache, or its tag is lost (R217). -/
  | breakLink (line : Nat)
  /-- The constant path fills, or drops, the entry at an address (R115). -/
  | constFill (hid va : Nat)
  | constDrop (hid va : Nat)
  /-- Fetch runs ahead to an address, or drops what it holds (R276, R338). -/
  | fetchFill (hid va : Nat)
  | fetchDrop (hid va : Nat)
  /-- A hart's core TLB, or its quad's, takes the translation of an address, or drops an entry (R334). -/
  | tlbFill (hid va : Nat) (quad : Bool)
  | tlbDrop (place : TlbPlace) (asid vpn : Nat)
  /-- The ATS cache takes the translation of an address of a function (R302). -/
  | atsFill (fn va : Nat)
  /-- A byte of a saved context image changes (R350, log 73). -/
  | imageByte (hid off : Nat) (b : Byte)
  /-- The walker of a hart's die caches the entry of a level that a walk of an address reads, or drops one (R334). -/
  | walkFill (hid va lo : Nat)
  | walkDrop (die asid lo tag : Nat)
  /-- Every hart of the other modules has arrived in one more phase of a pod barrier (R257). -/
  | podArrive (podid : Nat)
  /-- A byte of a remote module's memory (R279) or of hub device space (R326, log 12) changes. -/
  | remoteByte (pa : Nat) (b : Byte)
  /-- A debugger attaches to a launch, or leaves it (R130). -/
  | debugger (serial : Nat) (on : Bool)
  /-- A started MMA or MMASP of a hart takes one step of its K loop (R200). -/
  | mmaStep (hid : Nat)
  /-- Dusk-queue work is to be placed on free residency (R322), or ends; a translation may fail (R298). -/
  | duskPlace (num : Nat) (kind : DuskKind) (shape : Nat) (places : List (Nat × Nat))
  | duskEnd (num : Nat) (failed : Bool)
  /-- A participant of a hart's COLL command is lost (R247). -/
  | collLost (hid cmd : Nat)
  /-- The rank at the far end of a port becomes known (R374). -/
  | portPeer (port rank : Nat)
  /-- A function of the host reads a register of its BAR0 (R303). -/
  | barRead (fn off : Nat)
deriving DecidableEq, Repr

structure State where
  hart    : Hart
  others  : List Hart
  /-- Physical memory by 52-bit address (R326), bytes of 0 unlisted (log 1). -/
  mem     : List Host.Cell
  /-- Lines with a poison mark (R344). -/
  poison  : List Nat
  tlb     : List TlbEntry
  /-- The walkers' caches (R334). -/
  wcache  : List WalkEntry
  /-- Lines in the quad caches and the die caches, the last filled first (R202, R204, R361). -/
  lines   : List CacheLine
  /-- The context images of saved harts, by the hart's number, in hub-owned memory (R347 to R349). -/
  images  : List (Nat × List Byte)
  /-- Pages under migration: address space, virtual address, and the leaf before (R337). -/
  migs    : List (Nat × Nat × Word)
  banks   : List (Nat × Bank)
  cores   : List (Nat × CoreState)
  dies    : List (Nat × DieState)
  relays  : List Relay
  sched   : Sched
  hub     : Hub
  time    : Nat
  power   : Bool
  /-- GROUP and SEQ of the COLL commands issued on the module (R246). -/
  colls   : List (Nat × Nat)
  msix    : List (Nat × Nat)
  /-- The bytes the last host read returned, and whether it carried the Data Poisoning indication (R304). -/
  hostData : List Byte
  hostEp   : Bool
  /-- Numbers for harts, commands, fetches and conversions (the model's own). -/
  nextId  : Nat
  /-- The next free value (the model's own, log 13). -/
  freeIdx : Nat
  agenda  : List Act
deriving DecidableEq, Repr

/-! ## Reset -/

def Ident.zero : Ident :=
  { id := 0, dispatch := false, queue := 0, fn := 0, serial := 0, gang := 0, rank := 0, gcount := 0, gsize := 0,
    gscope := 0, cls := 0, sessv := false, session := 0, podid := 0, sbFirst := 0, sbNum := 0, shape := 0, die := 0,
    quad := 0, core := 0, slot := 0, degr := false, resident := false, grows := 0, accb := 0, troot := 0, ctxown := 0 }

/-- The vector state at entry (R13): VMODE at its reset value, everything else 0. -/
def VecState.entry : VecState :=
  { vmode := 0x13, vl := 0, vstart := 0, vflags := 0, lc := 0, rcur := 0, rlo := 0, rhi := 0, pass := 0, cmask := 0,
    w := Vector.replicate 64 0, m := Vector.replicate 12 0, galley := [] }

def MatState.entry : MatState :=
  { mvl := 0, acc := [], claimed := [], plane := [], rowBusy := [], mq := [], fetches := [] }

def EngState.entry : EngState :=
  { cmds := [], adds := [], fences := [], streams := [], link := none, errPend := none, sbind := [],
    arrived := Vector.replicate 6 0, barWait := none, launchRec := none }

def TrapState.entry : TrapState := { utvec := 0, tepc := 0, tcause := 0, tval := 0, tpos := 0, twin := 0 }

/-- A hart with every register as R13 gives it at entry, but for those the launch sets. -/
def Hart.blank : Hart :=
  { who := Ident.zero, status := .absent, stopReq := false, stopped := false, sameCore := false, world := false, remote := none, pins := none, strike := none, weak := Weak.calm, waitFrom := 0, x := Vector.replicate 32 0,
    pc := 0, fcsr := 0, vec := VecState.entry, mat := MatState.entry, h := Vector.replicate 16 Handle.zero,
    c := Vector.replicate 16 Counter.zero, eng := EngState.entry, trap := TrapState.entry, ev := Vector.replicate 8 0,
    evsel := Vector.replicate 8 0, ccache := [], icache := [] }

def Sched.init : Sched :=
  { launches := [], nextSerial := 1, reserved := none, blocked := [], rr := [], unplaced := [], turns := [],
    podPeers := [], dusk := [] }

/-- The image in slot A at reset: magic, version 0, body length 0, zero, and a signature of zeros (R379; log 10). -/
def resetImage : List Byte := [0x57, 0x46, 0x59, 0x4D, 0, 0, 0, 0, 0, 0, 0, 0, 0, 0, 0, 0] ++ List.replicate 384 0

def Security.init : Security :=
  { fwRes := 0, fwOp := 0, slots := #v[resetImage, []], booted := none, failed := false, rollback := 0, stage := [], measured := [],
    nonce := Vector.replicate 4 0, attRes := 0, report := [] }

/-- The hub's registers at their reset values. -/
def Hub.init : Hub :=
  { queues := [], fns := [], parts := [], vfmaps := [], ownmap := [], step := 0, ready := false, cxlUp := 0, cxlCap := 0,
    bar2win := 0, podexp := 0, sessRes := 0, sessReq := 0, tlbRes := 0, tlbReq := 0, viol := [], violHead := 0,
    colsel := 0, colo := [], coloNv := [], coloHour := [], hourNv := [],
    hourSecs := 0, hourNvSecs := 0, sinceFlush := 0, ports := [], snap := 0, thawPend := false, pwrCap := 12000,
    pwrSteps := 0, watts := 0, offPend := false, statClear := false, pfPend := false, sec := Security.init }

/-- The module right after module reset (R325): powered, no firmware accepted yet, no hart, memory as it is. -/
def State.reset : State :=
  { hart := Hart.blank, others := [], mem := [], poison := [], tlb := [], wcache := [], lines := [], images := [], migs := [], banks := [], cores := [],
    dies := [], relays := [], sched := Sched.init, hub := Hub.init, time := 0, power := true, colls := [], msix := [], hostData := [], hostEp := false,
    nextId := 1, freeIdx := 0, agenda := [] }

end Sys2Proof.Machine
end

