-- ==== Sys2Proof/Machine/Mem.lean ====
section
/-!
DEFINITION. Sparse tables in canonical form (keys strictly rising, no entry equal to what an unlisted key reads as), and
on them physical memory, the banks' contents and every other map of the state. Byte order is decided here once: values
are stored least significant byte first (R33, R202).
-/
namespace Sys2Proof.Machine

open Sys2Proof

/-! ## Tables -/

/-- The value at a key; `d` where the key is not listed. -/
def tabGet {α : Type} (d : α) : List (Nat × α) → Nat → α
  | [], _ => d
  | (k, v) :: t, a => if k = a then v else if a < k then d else tabGet d t a

/-- The table without a key. -/
def tabErase {α : Type} : List (Nat × α) → Nat → List (Nat × α)
  | [], _ => []
  | (k, v) :: t, a => if k = a then t else if a < k then (k, v) :: t else (k, v) :: tabErase t a

/-- The table with a value at a key, in place. -/
def tabInsert {α : Type} : List (Nat × α) → Nat → α → List (Nat × α)
  | [], a, v => [(a, v)]
  | (k, w) :: t, a, v =>
    if k = a then (a, v) :: t else if a < k then (a, v) :: (k, w) :: t else (k, w) :: tabInsert t a v

/-- Writing a key: the value an unlisted key reads as is not listed. -/
def tabSet {α : Type} [DecidableEq α] (d : α) (t : List (Nat × α)) (a : Nat) (v : α) : List (Nat × α) :=
  if v = d then tabErase t a else tabInsert t a v

/-- Keys above `lo` and strictly rising, and no value equal to `d`. -/
def tabWfFrom {α : Type} [DecidableEq α] (d : α) : Option Nat → List (Nat × α) → Bool
  | _, [] => true
  | lo, (k, v) :: t => (match lo with | none => true | some l => decide (l < k)) && decide (v ≠ d) && tabWfFrom d (some k) t

/-- The canonical form. -/
def tabWf {α : Type} [DecidableEq α] (d : α) (t : List (Nat × α)) : Bool := tabWfFrom d none t

/-- The canonical form of a memory. -/
def Memory.wf (m : List Host.Cell) : Bool := tabWf 0#8 m

/-! ## Bytes and words -/

/-- The number a list of bytes stands for, the first byte the least significant. -/
def natOfBytes : List Byte → Nat
  | [] => 0
  | b :: t => b.toNat + 256 * natOfBytes t

/-- The `n` low bytes of a number, the least significant first. -/
def bytesOfNat : Nat → Nat → List Byte
  | 0, _ => []
  | n + 1, v => BitVec.ofNat 8 v :: bytesOfNat n (v / 256)

/-- The bits [lo + n - 1 : lo] of a number. -/
def natBits (v lo n : Nat) : Nat := v / 2 ^ lo % 2 ^ n

/-- Bit `i` of a number. -/
def natBit (v i : Nat) : Bool := v / 2 ^ i % 2 = 1

/-- The bits [lo + n - 1 : lo] of a word, as a number. -/
def wBits (w : Word) (lo n : Nat) : Nat := natBits w.toNat lo n

/-- A word with a field replaced. -/
def wSet (w : Word) (lo n v : Nat) : Word :=
  (w &&& ~~~(BitVec.ofNat 64 ((2 ^ n - 1) * 2 ^ lo))) ||| BitVec.ofNat 64 (v % 2 ^ n * 2 ^ lo)

/-- The signed value of the `n` low bits (R102 sext, as an integer). -/
def sextNat (n v : Nat) : Int :=
  let u := v % 2 ^ n
  if 2 ^ (n - 1) ≤ u then (u : Int) - ((2 ^ n : Nat) : Int) else (u : Int)

/-- A number modulo 2^64 as an address. -/
def addr64 (v : Int) : Nat := (v % ((2 ^ 64 : Nat) : Int)).toNat

/-- The largest multiple of `n` not above `v`. -/
def alignDown (v n : Nat) : Nat := v / n * n

/-- `v` divided by `n`, rounded up. -/
def ceilDiv (v n : Nat) : Nat := (v + n - 1) / n

/-! ## Physical memory -/

def readPa (s : State) (pa : Nat) : Byte := tabGet 0#8 s.mem pa

def writePa (s : State) (pa : Nat) (b : Byte) : State := { s with mem := tabSet 0#8 s.mem pa b }

/-- The bytes at `a`, `a` + 1, ... of a memory. -/
def cellsAt (m : List Host.Cell) (a : Nat) : Nat → List Byte
  | 0 => []
  | n + 1 => tabGet 0#8 m a :: cellsAt m (a + 1) n

/-- Storing bytes at `a`, `a` + 1, ... -/
def cellsPut (m : List Host.Cell) (a : Nat) : List Byte → List Host.Cell
  | [] => m
  | b :: t => cellsPut (tabSet 0#8 m a b) (a + 1) t

/-- An aligned number of `n` bytes in physical memory. -/
def readPaNat (s : State) (pa n : Nat) : Nat := natOfBytes (cellsAt s.mem pa n)

/-! ## Harts -/

/-- The first hart with a number, and the rest. -/
def takeHart (hid : Nat) : List Hart → Option (Hart × List Hart)
  | [] => none
  | h :: t =>
    if h.who.id = hid then some (h, t)
    else match takeHart hid t with
      | some (g, r) => some (g, h :: r)
      | none => none

/-- The state with hart `hid` as the one whose turn it is. -/
def focus (s : State) (hid : Nat) : Option State :=
  if s.hart.who.id = hid then some s
  else match takeHart hid s.others with
    | some (h, r) => some { s with hart := h, others := s.hart :: r }
    | none => none

/-- Every hart, the one whose turn it is first. -/
def allHarts (s : State) : List Hart := s.hart :: s.others

/-- A change of every hart. -/
def mapHarts (f : Hart → Hart) (s : State) : State := { s with hart := f s.hart, others := s.others.map f }

end Sys2Proof.Machine
end

