-- ==== Sys2Proof/Machine/Gangs.lean ====
section
/-!
DEFINITION. Gangs as a whole: their harts, their end (R11, R16, R18, R311), and what a launch's entry in the
pending-launch store records of it.
-/
namespace Sys2Proof.Machine

open Sys2Proof

def launchAt (s : State) (serial : Nat) : Option Launch := s.sched.launches.find? (·.serial == serial)

/-- A change of one launch's entry. -/
def updLaunch (s : State) (serial : Nat) (f : Launch → Launch) : State :=
  { s with sched := { s.sched with launches := s.sched.launches.map fun l => if l.serial = serial then f l else l } }

/-- A change of one started gang. -/
def updGang (s : State) (serial g : Nat) (f : Gang → Gang) : State :=
  updLaunch s serial fun l => { l with gangs := l.gangs.map fun x => if x.index = g then f x else x }

/-- The hart is one of the gang's. -/
def inGang (serial g : Nat) (h : Hart) : Bool :=
  !h.who.dispatch && h.who.serial == serial && h.who.gang == g && h.status != .absent

/-- The harts of a gang. -/
def gangHarts (s : State) (serial g : Nat) : List Hart := (allHarts s).filter (inGang serial g)

/-- The hart will execute nothing more. -/
def hartOver (h : Hart) : Bool := h.status == .ended || h.status == .halted || h.status == .absent

/-- The banks that a gang holds are freed (R311). -/
def freeBanks (s : State) (serial g : Nat) : State :=
  { s with banks := (s.banks.map fun p =>
      if p.2.holder = some (serial, g) then (p.1, { p.2 with holder := none }) else p).filter fun p => decide (p.2 ≠ Bank.init) }

def gangAt (s : State) (serial g : Nat) : Option Gang :=
  match launchAt s serial with
  | some l => l.gangs.find? (·.index == g)
  | none => none

/-- The launch of a hart has been aborted. -/
def launchAborted (s : State) (serial : Nat) : Bool :=
  match launchAt s serial with
  | some l => l.aborted
  | none => false

/-- A gang has ended; GDONE counts it if all of its harts ended by HALT (R16, R18). -/
def endGang (s : State) (serial g : Nat) : State :=
  let byHalt := (gangHarts s serial g).all fun h => h.status == .ended
  let s1 := updGang s serial g fun x => { x with status := .ended }
  freeBanks (updLaunch s1 serial fun l => { l with gdone := if byHalt then l.gdone + 1 else l.gdone }) serial g

/-- Every hart of a gang that is not over has been saved: the gang stands on the resume queue (R12, R25). -/
def queueGang (s : State) (serial g : Nat) : State :=
  mapHarts (fun h => if inGang serial g h then { h with stopReq := false } else h)
    (updGang s serial g fun x => { x with status := .preempted, preAt := s.time, aged := 0, stop := false })

/-- What a change of its harts makes of a gang: it ends when every one is over, and it counts as pre-empted when every
one that is not over has been saved. A gang of an aborted launch does not go on: its harts halt where they stand (R18). -/
def settleGang (s : State) (serial g : Nat) : State :=
  match gangAt s serial g with
  | none => s
  | some x =>
    let hs := gangHarts s serial g
    if x.status == .ended then s
    else if hs.all hartOver then endGang s serial g
    else if x.stop && !launchAborted s serial && hs.all (fun h => hartOver h || !h.who.resident) then queueGang s serial g
    else s

/-- The current hart leaves its core (R133, R339). -/
def leaveCore (s : State) : State := { s with hart := { s.hart with who := { s.hart.who with resident := false } } }

/-- The current hart is over: its gang may have ended. -/
def settleHart (s : State) : State :=
  if s.hart.who.dispatch then s else settleGang (leaveCore s) s.hart.who.serial s.hart.who.gang

/-- The hart is parked under R20. -/
def parked (h : Hart) : Bool :=
  match h.status with
  | .waiting .vwait => true
  | .waiting .cwait => true
  | .waiting .sbarw => true
  | .waiting .launchW => true
  | .waiting .barw => true
  | _ => false

/-- The hart is in a yielding wait (R20). -/
def yielding (h : Hart) : Bool := parked h && h.status != .waiting .barw

end Sys2Proof.Machine
end

