-- ==== Sys2Proof/Config.lean ====
section
/-!
DEFINITION. What the spec leaves open and the model leaves open too: constants without a body. No proof can see
what they are, so a statement that holds, holds whatever they are. Each is named in the assumption log.
-/
namespace Sys2Proof.Config

/-- A value the spec leaves undefined, one per use, numbered by `State.freeIdx` (log 13). -/
opaque freeWord : Nat → BitVec 64

/-- What a raw access moves while its storage is under conversion (R243): numbered by `State.freeIdx`, the time, the hart's
pc and X registers, and the address (log 22). -/
opaque rawWord (idx time : Nat) (pc : BitVec 64) (x : List (BitVec 64)) (va : Nat) : BitVec 64

/-- An FMA of infinity and zero with a quiet NaN addend raises NV (IEEE 754 leaves it to the implementation; log 28). -/
opaque fmaQuietNaNInvalid : Bool

/-- A SCRATCHZ bank with these line contents (line index, bytes) has more nonzero tiles than it holds (R204 gives only
the bound under which it never does; log 15). -/
opaque scratchzFull : List (Nat × BitVec 8) → Bool

/-- Byte `i` of the reconstruction that frame engine `e` writes for a block and an input frame (R249, R250 leave the coding
open; log 14). -/
opaque encfByte : (e : Nat) → (block input : List (BitVec 8)) → (i : Nat) → BitVec 8

/-- What follows the header of one unit (an OBU or a NAL unit, by its type) of the stream that frame engine `e` writes (log 14). -/
opaque encfPayload : (unit e : Nat) → (block input : List (BitVec 8)) → List (BitVec 8)

/-- A header bit that the coder of a frame chooses (log 14). -/
opaque encfBit : (j e : Nat) → (block input : List (BitVec 8)) → Bool

/-- A tool that R249 leaves to the frame engines' coder, the same in every frame (log 14). -/
opaque encfTool : Nat → Bool

/-- Double word `j` (0 to 3) of the SHA-256 of an image, the first holding its first eight bytes (log 10). -/
opaque sha256 : List (BitVec 8) → (j : Nat) → BitVec 64

/-- The die-agent and frame-engine images that hub firmware with this image verifies, in boot order (R379; log 10). -/
opaque agentImages : List (BitVec 8) → List (List (BitVec 8))

/-- The fused key accepts the signature of an image (R379; log 10). -/
opaque fwSignatureOk : List (BitVec 8) → Bool

/-- Byte `i` (0 to 383) of the signature of an attestation report under the module's key (R381; log 10). -/
opaque attSign : List (BitVec 8) → (i : Nat) → BitVec 8

/-- The device certificate, in DER form (R381; log 10). -/
opaque deviceCert : List (BitVec 8)

/-- The module's serial number (R381; log 10). -/
opaque moduleSerial : BitVec 128

end Sys2Proof.Config
end

