-- ==== Sys2Proof/Machine/Layout.lean ====
section
/-!
DEFINITION. The fields of a handle (R206), the layouts of a plane (R207, R208), its sheets (R241), and what R243 leaves
open: the values that raw accesses move while the storage they touch is under conversion.
-/
namespace Sys2Proof.Machine

open Sys2Proof

/-! ## Handle fields (R206) -/

def Handle.word (h : Handle) (n : Nat) : Nat := if p : n < 8 then h.dw[n].toNat else 0
def Handle.kind (h : Handle) : Nat := natBits (h.word 0) 60 4
def Handle.tag (h : Handle) : Nat := natBits (h.word 0) 56 4
def Handle.base (h : Handle) : Nat := natBits (h.word 0) 0 56
/-- The extent of a dimension. -/
def Handle.ext (h : Handle) (d : Nat) : Nat := natBits (h.word (1 + d / 2)) (32 * (d % 2)) 32
def Handle.blk (h : Handle) : Nat := match natBits (h.word 3) 35 2 with | 1 => 16 | 2 => 32 | _ => 0
def Handle.esz (h : Handle) : Nat := natBits (h.word 3) 32 3
/-- The element width in bits. -/
def Handle.ebits (h : Handle) : Nat := 4 * 2 ^ h.esz
def Handle.ld (h : Handle) : Nat := natBits (h.word 3) 0 32
def Handle.str2 (h : Handle) : Nat := h.word 4
def Handle.str3 (h : Handle) : Nat := h.word 5
def Handle.rlv (h : Handle) : Bool := natBit (h.word 6) 60
def Handle.otag (h : Handle) : Nat := natBits (h.word 6) 56 4
def Handle.smap (h : Handle) : Nat := natBits (h.word 6) 0 56
def Handle.pbase (h : Handle) : Nat := natBits (h.word 7) 0 56

/-- A handle with a double word replaced. -/
def Handle.put (h : Handle) (n : Nat) (v : Word) : Handle := if p : n < 8 then { h with dw := h.dw.set n v p } else h

def kindTensor : Nat := 1
def kindGrid : Nat := 2
def kindDelta : Nat := 3
def kindScale : Nat := 4

/-- A valid handle of a kind. -/
def Handle.isA (h : Handle) (k : Nat) : Bool := h.valid && h.kind == k

/-! ## Layouts (R207, R208) -/

/-- Where a plane lies: tag, storage and pitch. -/
structure Layout where
  tag  : Nat
  base : Nat
  ld   : Nat
deriving DecidableEq, Repr

def Handle.layout (h : Handle) : Layout := { tag := h.tag, base := h.base, ld := h.ld }

/-- The tile size of LT32 and LT128X. -/
def tileSize (tag : Nat) : Nat := if tag = 2 then 32 else 128

/-- The conditions of R208 on a layout. -/
def layoutOk (tag ld e e0 e1 : Nat) : Bool :=
  if tag = 0 then decide (e0 ≤ ld) && ld * e % 512 == 0
  else if tag = 1 then decide (e1 ≤ ld) && ld * e % 512 == 0
  else if tag ≤ 3 then
    e0 % tileSize tag == 0 && e1 % tileSize tag == 0 && decide (e0 / tileSize tag ≤ ld) && (tag == 2 || decide (8 ≤ e))
  else false

/-- The offset within a plane in bits (R207), for elements of `e` bits. -/
def planeBits (l : Layout) (e d0 d1 : Nat) : Nat :=
  match l.tag with
  | 0 => (d1 * l.ld + d0) * e
  | 1 => (d0 * l.ld + d1) * e
  | 2 => ((d1 / 32 * l.ld + d0 / 32) * 1024 + d1 % 32 * 32 + d0 % 32) * e
  | _ =>
    let bo := d0 % 128 * e / 8
    8 * ((d1 / 128 * l.ld + d0 / 128) * 16384 * e / 8 + d1 % 128 * 128 * e / 8 + (bo / 16 ^^^ d1 % 128 % 8) * 16 + bo % 16)

/-! ## Sheets (R241) -/

/-- The bytes of a plane under a layout: to the end of its last row, column or tile row. -/
def planeBytes (h : Handle) (l : Layout) : Nat :=
  let e := h.ebits
  match l.tag with
  | 0 => ceilDiv (h.ext 1 * l.ld * e) 8
  | 1 => ceilDiv (h.ext 0 * l.ld * e) 8
  | 2 => ceilDiv (h.ext 1 / 32 * l.ld * 1024 * e) 8
  | _ => ceilDiv (h.ext 1 / 128 * l.ld * 16384 * e) 8

/-- Sheets of a plane, and of the tensor. -/
def sheetsPerPlane (h : Handle) (l : Layout) : Nat := ceilDiv (planeBytes h l) 16384
def sheetCount (h : Handle) (l : Layout) : Nat := sheetsPerPlane h l * (h.ext 2 * h.ext 3)

/-- The new layout of a handle with RLV = 1. -/
def Handle.newLayout (h : Handle) : Layout := { tag := h.tag, base := h.pbase, ld := h.ld }

/-! ## Raw accesses during a conversion (R243) -/

/-- Bytes [va, va + n) meet the storage of a tensor under a layout. -/
def inPlanes (h : Handle) (l : Layout) (va n : Nat) : Bool :=
  (List.range (h.ext 3)).any fun d3 => (List.range (h.ext 2)).any fun d2 =>
    let at_ := l.base + d2 * h.str2 + d3 * h.str3
    decide (at_ < va + n) && decide (va < at_ + planeBytes h l)

/-- The old and the new layout of a conversion. -/
def Relay.oldLayout (r : Relay) : Layout := { tag := r.h.otag, base := r.h.base, ld := r.oldLd }

/-- The conversion goes on: the engine has not faulted, and some sheet is not NEW. -/
def converting (r : Relay) : Bool := !r.dead && r.sheets.any (· != 2)

/-- An access of address space `asid` meets storage under conversion. -/
def rawOpen (s : State) (asid va n : Nat) : Bool :=
  s.relays.any fun r => converting r && r.asid == asid && (inPlanes r.h r.oldLayout va n || inPlanes r.h r.h.newLayout va n)

/-- What a raw access of `n` bytes moves: `v`, or, during a conversion of its storage, a free value (R243, log 22). -/
def rawValue (s : State) (asid va n v : Nat) : Nat :=
  if rawOpen s asid va n then (Config.rawWord s.freeIdx s.time s.hart.pc s.hart.x.toList va).toNat % 2 ^ (8 * n) else v

end Sys2Proof.Machine
end

