-- ==== Sys2Proof/Machine/Num.lean ====
section
/-!
DEFINITION. Numbers (file 03): the formats (R65 to R68), decoding, the rounding helper rnd with its flags
(R70 to R73), the exact operations it rounds (R75), conversions (R74), comparison and class (R118).

An exact value is a `Num`. A finite value is plus or minus m times 2^e. A quotient or a root that is not such a number
is held by one that lies in the same open interval between any two numbers of at most 60 bits, so every rounding of it,
in every mode and to every format, is the same (its lowest bit is set for that).
-/
namespace Sys2Proof

/-- An exact real, an infinity or a NaN (`sig`: signalling). -/
inductive Num where
  | nan (sig : Bool)
  | inf (neg : Bool)
  | fin (neg : Bool) (m : Nat) (e : Int)
deriving DecidableEq, Repr

/-- The sticky flags at their places in VFLAGS (R76): NV 0, DZ 1, OF 2, UF 3, NX 4, IOV 8. -/
abbrev Flags := BitVec 9

def flagNV : Flags := 0x001#9
def flagDZ : Flags := 0x002#9
def flagOF : Flags := 0x004#9
def flagUF : Flags := 0x008#9
def flagNX : Flags := 0x010#9
def flagIOV : Flags := 0x100#9

/-- A flag word: the flag where the condition holds, else none. -/
def flagIf (c : Bool) (f : Flags) : Flags := if c then f else 0

/-- The arithmetic policy: RM, SAT, and the two bits of FLUSH (R70 to R72). -/
structure Policy where
  rm       : Nat
  sat      : Bool
  flushIn  : Bool
  flushOut : Bool
deriving DecidableEq, Repr

/-- RNE, OVF, no flush: the policy of round_f32 (R102). -/
def Policy.plain : Policy := { rm := 0, sat := false, flushIn := false, flushOut := false }

/-- A floating-point format: an IEEE layout of width `w` with `eb` exponent bits (R65), or a binary8 of precision `p`,
unsigned or not, finite or with infinities (R66, R67). -/
inductive Fmt where
  | ieee (w eb : Nat)
  | b8 (p : Nat) (uns fin : Bool)
deriving DecidableEq, Repr

def fmtF16  : Fmt := .ieee 16 5
def fmtBF16 : Fmt := .ieee 16 8
def fmtF32  : Fmt := .ieee 32 8
def fmtF64  : Fmt := .ieee 64 11

/-- An element type of R68. -/
inductive Ty where
  | int (signed : Bool) (w : Nat)
  | flt (f : Fmt)
deriving DecidableEq, Repr

/-- The width in bits. -/
def Fmt.width : Fmt → Nat
  | .ieee w _ => w
  | .b8 _ _ _ => 8

def Ty.width : Ty → Nat
  | .int _ w => w
  | .flt f => f.width

def Ty.isFloat : Ty → Bool
  | .int _ _ => false
  | .flt _ => true

/-- Significand bits, the leading one included. -/
def Fmt.prec : Fmt → Nat
  | .ieee w eb => w - eb
  | .b8 p _ _ => p

def Fmt.bias : Fmt → Nat
  | .ieee _ eb => 2 ^ (eb - 1) - 1
  | .b8 p uns _ => if uns then 2 ^ (8 - p) else 2 ^ (7 - p)

/-- The exponent of the smallest normal value. -/
def Fmt.emin (f : Fmt) : Int := 1 - (f.bias : Int)

/-- The exponent of the last place of the subnormal grid. -/
def Fmt.qmin (f : Fmt) : Int := f.emin - ((f.prec - 1 : Nat) : Int)

def Fmt.hasInf : Fmt → Bool
  | .ieee _ _ => true
  | .b8 _ _ fin => !fin

def Fmt.unsigned : Fmt → Bool
  | .ieee _ _ => false
  | .b8 _ uns _ => uns

/-- The code of the largest finite magnitude (R65 to R67). -/
def Fmt.maxCode : Fmt → Nat
  | .ieee w eb => (2 ^ eb - 1) * 2 ^ (w - eb - 1) - 1
  | .b8 _ uns fin => (if uns then 0xFD else 0x7E) + (if fin then 1 else 0)

/-- The code of infinity, for the formats that have one. -/
def Fmt.infCode : Fmt → Nat
  | .ieee w eb => (2 ^ eb - 1) * 2 ^ (w - eb - 1)
  | .b8 _ uns _ => if uns then 0xFE else 0x7F

/-- qnan(F) (R73): the canonical NaN. -/
def Fmt.qnan : Fmt → Nat
  | .ieee w eb => (2 ^ (eb + 1) - 1) * 2 ^ (w - eb - 2)
  | .b8 _ uns _ => if uns then 0xFF else 0x80

/-- A magnitude code with the sign put in. A binary8 zero has no sign (R66). -/
def Fmt.signed (f : Fmt) (neg : Bool) (c : Nat) : Nat :=
  match f with
  | .ieee w _ => if neg then 2 ^ (w - 1) + c else c
  | .b8 _ uns _ => if neg && !uns && c ≠ 0 then 0x80 + c else c

/-- The magnitude a code without sign stands for, as (m, e). -/
def Fmt.decodeMag (f : Fmt) (c : Nat) : Nat × Int :=
  let t := f.prec - 1
  let ex := c / 2 ^ t
  let tr := c % 2 ^ t
  if ex = 0 then (tr, f.qmin) else (2 ^ t + tr, f.qmin + ((ex - 1 : Nat) : Int))

/-- decode(F, v) without input flush (R65 to R67). -/
def Fmt.decode (f : Fmt) (v : Nat) : Num :=
  match f with
  | .ieee w eb =>
    let neg := decide (2 ^ (w - 1) ≤ v)
    let c := v % 2 ^ (w - 1)
    if c < f.infCode then .fin neg (f.decodeMag c).1 (f.decodeMag c).2
    else if c = f.infCode then .inf neg
    else .nan (c / 2 ^ (w - eb - 2) % 2 = 0)
  | .b8 _ uns fin =>
    if v = f.qnan then .nan false
    else
      let neg := !uns && decide (0x80 ≤ v)
      let c := if uns then v else v % 0x80
      if !fin && c = f.infCode then .inf neg
      else .fin neg (f.decodeMag c).1 (f.decodeMag c).2

/-- The code is a nonzero subnormal. -/
def Fmt.isSubnormal (f : Fmt) (v : Nat) : Bool :=
  let c := match f with
    | .ieee w _ => v % 2 ^ (w - 1)
    | .b8 _ uns _ => if uns then v else v % 0x80
  v ≠ f.qnan && c ≠ 0 && decide (c < 2 ^ (f.prec - 1))

/-- decode(F, v) after any input flush (R72): a subnormal reads as zero of its sign, and no flag is raised. -/
def Fmt.decodeIn (f : Fmt) (p : Policy) (v : Nat) : Num :=
  match f.decode v with
  | .fin neg m e => if p.flushIn && f.isSubnormal v then .fin (neg && f.signed true 0 ≠ 0) 0 0 else .fin neg m e
  | x => x

/-- floor(log2(m)) plus e: the exponent of the leading one of a nonzero m times 2^e. -/
def topExp (m : Nat) (e : Int) : Int := (m.log2 : Int) + e

/-- m times 2^e rounded to a whole multiple of 2^q in mode `rm` (R70); the multiple, and whether it differs. RNE takes the even one of two
multiples at a tie: with one significant bit, 2, so the next power of two (log 18). -/
def roundTo (rm : Nat) (neg : Bool) (m : Nat) (e q : Int) : Nat × Bool :=
  if q ≤ e then (m * 2 ^ (e - q).toNat, false)
  else
    let k := (q - e).toNat
    let n := m / 2 ^ k
    let r := m % 2 ^ k
    let up := match rm with
      | 0 => decide (2 ^ k < 2 * r) || (2 * r == 2 ^ k && n % 2 == 1)
      | 1 => false
      | 2 => neg && r ≠ 0
      | 3 => !neg && r ≠ 0
      | _ => decide (2 ^ k ≤ 2 * r)
    (if up then n + 1 else n, r ≠ 0)

/-- m1 times 2^e1 is above m2 times 2^e2. -/
def magLt (m2 : Nat) (e2 : Int) (m1 : Nat) (e1 : Int) : Bool :=
  decide (m2 * 2 ^ (e2 - e1).toNat < m1 * 2 ^ (e1 - e2).toNat)

/-- encode(F, y) for a magnitude n times 2^q on F's grid (R102). -/
def Fmt.encodeMag (f : Fmt) (n : Nat) (q : Int) : Nat :=
  if n = 0 then 0
  else
    let t := f.prec - 1
    let top := topExp n q
    if top < f.emin then n * 2 ^ (q - f.qmin).toNat
    else
      let s := if (t : Int) ≤ n.log2 then n / 2 ^ (n.log2 - t) else n * 2 ^ (t - n.log2)
      (top - f.emin).toNat * 2 ^ t + s

/-- The overflow result of R71. -/
def Fmt.overflow (f : Fmt) (p : Policy) (neg : Bool) : Nat :=
  if p.sat then f.signed neg f.maxCode
  else
    let toInf := match p.rm with
      | 0 => true
      | 1 => false
      | 2 => neg
      | 3 => !neg
      | _ => true
    if toInf then (if f.hasInf then f.signed neg f.infCode else f.qnan) else f.signed neg f.maxCode

/-- rnd(F, x) of R73: the code, and the flags set. -/
def rnd (f : Fmt) (p : Policy) (x : Num) : Nat × Flags :=
  match x with
  | .nan _ => (f.qnan, 0)
  | .inf neg =>
    if f.unsigned && neg then (if p.sat then 0 else f.qnan, flagNV)
    else if f.hasInf then (f.signed neg f.infCode, 0)
    else (if p.sat then f.signed neg f.maxCode else f.qnan, flagOF ||| flagNX)
  | .fin neg m e =>
    if m = 0 then (f.signed neg 0, 0)
    else if f.unsigned && neg then (if p.sat then 0 else f.qnan, flagNV)
    else
      let q := topExp m e - ((f.prec - 1 : Nat) : Int)
      let (n, inex) := roundTo p.rm neg m e q
      let (mm, me) := f.decodeMag f.maxCode
      if magLt mm me n q then (f.overflow p neg, flagOF ||| flagNX)
      else if topExp n q < f.emin then
        if p.flushOut then (f.signed neg 0, flagUF ||| flagNX)
        else
          let (k, inex2) := roundTo p.rm neg m e f.qmin
          (f.signed neg (f.encodeMag k f.qmin), if inex2 then flagUF ||| flagNX else 0)
      else (f.signed neg (f.encodeMag n q), if inex then flagNX else 0)

/-- round_f32(x) of R102. -/
def roundF32 (x : Num) : Nat × Flags := rnd fmtF32 .plain x

/-! The exact operations. Each answers the exact value and the flags its operands raise (R73: a signalling NaN sets NV;
R116, R158: the IEEE 754 results of special operands). `rm` decides only the sign of an exact zero sum. -/

def Num.isNaN : Num → Bool
  | .nan _ => true
  | _ => false

def Num.isZero : Num → Bool
  | .fin _ m _ => m = 0
  | _ => false

def Num.isInf : Num → Bool
  | .inf _ => true
  | _ => false

def Num.isNeg : Num → Bool
  | .nan _ => false
  | .inf n => n
  | .fin n _ _ => n

/-- NV where an operand is a signalling NaN. -/
def Num.sigFlag : Num → Flags
  | .nan true => flagNV
  | _ => 0

def Num.neg : Num → Num
  | .nan s => .nan s
  | .inf n => .inf (!n)
  | .fin n m e => .fin (!n) m e

def Num.abs : Num → Num
  | .nan s => .nan s
  | .inf _ => .inf false
  | .fin _ m e => .fin false m e

/-- The signed whole number a value is, in units of 2^q (q at most e). -/
def scaledInt (neg : Bool) (m : Nat) (e q : Int) : Int :=
  let v : Int := ((m * 2 ^ (e - q).toNat : Nat) : Int)
  if neg then -v else v

/-- a + b. -/
def Num.add (rm : Nat) (a b : Num) : Num × Flags :=
  match a, b with
  | .nan _, _ => (.nan false, a.sigFlag ||| b.sigFlag)
  | _, .nan _ => (.nan false, b.sigFlag)
  | .inf x, .inf y => if x == y then (.inf x, 0) else (.nan false, flagNV)
  | .inf x, _ => (.inf x, 0)
  | _, .inf y => (.inf y, 0)
  | .fin s m e, .fin t n g =>
    let q := if e ≤ g then e else g
    let v := scaledInt s m e q + scaledInt t n g q
    if v = 0 then (.fin (if s == t then s else rm == 2) 0 0, 0)
    else (.fin (decide (v < 0)) v.natAbs q, 0)

/-- a times b. -/
def Num.mul (a b : Num) : Num × Flags :=
  match a, b with
  | .nan _, _ => (.nan false, a.sigFlag ||| b.sigFlag)
  | _, .nan _ => (.nan false, b.sigFlag)
  | .inf x, .inf y => (.inf (x != y), 0)
  | .inf x, .fin t n _ => if n = 0 then (.nan false, flagNV) else (.inf (x != t), 0)
  | .fin s m _, .inf y => if m = 0 then (.nan false, flagNV) else (.inf (s != y), 0)
  | .fin s m e, .fin t n g => (.fin (s != t) (m * n) (e + g), 0)

/-- a times b plus c, exactly. -/
def Num.fma (rm : Nat) (a b c : Num) : Num × Flags :=
  let (p, fp) := a.mul b
  if a.isNaN || b.isNaN then (.nan false, fp ||| c.sigFlag)
  else if p.isNaN then
    (.nan false, c.sigFlag ||| (if c.isNaN then flagIf Config.fmaQuietNaNInvalid flagNV else flagNV))
  else
    let (r, fr) := p.add rm c
    (r, fp ||| fr)

/-- a / b; a nonzero finite value over zero sets DZ, and 0/0 and Inf/Inf set NV. -/
def Num.div (a b : Num) : Num × Flags :=
  match a, b with
  | .nan _, _ => (.nan false, a.sigFlag ||| b.sigFlag)
  | _, .nan _ => (.nan false, b.sigFlag)
  | .inf _, .inf _ => (.nan false, flagNV)
  | .inf x, .fin t _ _ => (.inf (x != t), 0)
  | .fin s _ _, .inf y => (.fin (s != y) 0 0, 0)
  | .fin s m e, .fin t n g =>
    if n = 0 then (if m = 0 then (.nan false, flagNV) else (.inf (s != t), flagDZ))
    else if m = 0 then (.fin (s != t) 0 0, 0)
    else
      let k := 128 + n.log2
      let d := m * 2 ^ k
      (.fin (s != t) (2 * (d / n) + (if d % n = 0 then 0 else 1)) (e - g - (k : Int) - 1), 0)

/-- floor of the square root of n, by its binary digits from 2^k down. -/
def isqrtFrom (n : Nat) : Nat → Nat → Nat
  | 0, r => if (r + 1) * (r + 1) ≤ n then r + 1 else r
  | k + 1, r => isqrtFrom n k (if (r + 2 ^ (k + 1)) * (r + 2 ^ (k + 1)) ≤ n then r + 2 ^ (k + 1) else r)

def isqrt (n : Nat) : Nat := isqrtFrom n (n.log2 / 2 + 1) 0

/-- The square root of a nonzero m times 2^e, as such a number. -/
def sqrtMag (m : Nat) (e : Int) : Nat × Int :=
  let odd := e % 2 != 0
  let m' := (if odd then 2 * m else m) * 2 ^ 256
  let e' := (if odd then e - 1 else e) - 256
  let r := isqrt m'
  (2 * r + (if r * r = m' then 0 else 1), e' / 2 - 1)

/-- The square root. -/
def Num.sqrt : Num → Num × Flags
  | .nan s => (.nan false, Num.sigFlag (.nan s))
  | .inf n => if n then (.nan false, flagNV) else (.inf false, 0)
  | .fin n m e =>
    if m = 0 then (.fin n 0 0, 0)
    else if n then (.nan false, flagNV)
    else (.fin false (sqrtMag m e).1 (sqrtMag m e).2, 0)

/-- Order of two numbers that are not NaN: -1, 0 or 1; -0 equals +0. -/
def Num.cmp (a b : Num) : Int :=
  match a, b with
  | .inf x, .inf y => if x == y then 0 else if x then -1 else 1
  | .inf x, _ => if x then -1 else 1
  | _, .inf y => if y then 1 else -1
  | .fin s m e, .fin t n g =>
    let q := if e ≤ g then e else g
    let u := scaledInt s m e q
    let v := scaledInt t n g q
    if u < v then -1 else if u = v then 0 else 1
  | _, _ => 0

/-- max or min (R75): NaN if either is NaN; -0 is below +0. -/
def Num.minmax (max : Bool) (a b : Num) : Num × Flags :=
  if a.isNaN || b.isNaN then (.nan false, a.sigFlag ||| b.sigFlag)
  else
    let c := a.cmp b
    let aLow := decide (c < 0) || (c == 0 && a.isNeg)
    (if aLow == max then b else a, 0)

/-- FCMP's four conditions (R118, R160): 0 EQ, 1 LT, 2 LE, 3 UN. -/
def Num.compare (cond : Nat) (a b : Num) : Bool × Flags :=
  let un := a.isNaN || b.isNaN
  let sig := a.sigFlag ||| b.sigFlag
  match cond with
  | 0 => (!un && a.cmp b == 0, sig)
  | 1 => (!un && decide (a.cmp b < 0), if un then flagNV else 0)
  | 2 => (!un && decide (a.cmp b ≤ 0), if un then flagNV else 0)
  | _ => (un, sig)

/-- FCLASS's one-hot mask (R118). -/
def Fmt.classMask (f : Fmt) (v : Nat) : Nat :=
  match f.decode v with
  | .nan sig => if sig then 0x100 else 0x200
  | .inf neg => if neg then 0x001 else 0x080
  | .fin neg m _ =>
    if m = 0 then (if neg then 0x008 else 0x010)
    else if f.isSubnormal v then (if neg then 0x004 else 0x020)
    else if neg then 0x002 else 0x040

/-! Integers and conversions. -/

/-- The value of the low `w` bits as a signed or unsigned integer. -/
def intOf (signed : Bool) (w v : Nat) : Int :=
  let u := v % 2 ^ w
  if signed && decide (2 ^ (w - 1) ≤ u) then (u : Int) - ((2 ^ w : Nat) : Int) else (u : Int)

/-- The `w` low bits of an integer in two's complement. -/
def bitsOfInt (w : Nat) (v : Int) : Nat := (v % ((2 ^ w : Nat) : Int)).toNat

/-- The bounds of an integer type. -/
def intLo (signed : Bool) (w : Nat) : Int := if signed then -((2 ^ (w - 1) : Nat) : Int) else 0
def intHi (signed : Bool) (w : Nat) : Int :=
  if signed then ((2 ^ (w - 1) : Nat) : Int) - 1 else ((2 ^ w : Nat) : Int) - 1

/-- An integer as an exact number. -/
def numOfInt (v : Int) : Num := .fin (decide (v < 0)) v.natAbs 0

/-- Float to integer (R74): rounded in RM, then judged against the range. -/
def floatToInt (signed : Bool) (w rm : Nat) (x : Num) : Nat × Flags :=
  match x with
  | .nan _ => (0, flagNV)
  | .inf neg => (bitsOfInt w (if neg then intLo signed w else intHi signed w), flagNV)
  | .fin neg m e =>
    let (n, inex) := roundTo rm neg m e 0
    let v : Int := if neg then -(n : Int) else (n : Int)
    if v < intLo signed w then (bitsOfInt w (intLo signed w), flagNV)
    else if intHi signed w < v then (bitsOfInt w (intHi signed w), flagNV)
    else (bitsOfInt w v, if inex then flagNX else 0)

/-- Integer to integer (R74). -/
def intToInt (sat : Bool) (sa : Bool) (wa : Nat) (sd : Bool) (wd : Nat) (v : Nat) : Nat :=
  let x := intOf sa wa v
  if intLo sd wd ≤ x && x ≤ intHi sd wd then bitsOfInt wd x
  else if sat then bitsOfInt wd (if x < intLo sd wd then intLo sd wd else intHi sd wd)
  else bitsOfInt wd x

/-- A conversion between two types of R68 (R74), the source after any input flush. From a format to itself it copies,
after input flush and NaN canonicalisation (R117, R162). -/
def convert (p : Policy) (dst src : Ty) (v : Nat) : Nat × Flags :=
  match src, dst with
  | .int sa wa, .int sd wd => (intToInt p.sat sa wa sd wd v, 0)
  | .int sa wa, .flt f => rnd f p (numOfInt (intOf sa wa v))
  | .flt g, .int sd wd =>
    let x := g.decodeIn p v
    floatToInt sd wd p.rm x
  | .flt g, .flt f =>
    let x := g.decodeIn p v
    let (r, fl) := rnd f (if g = f then { p with flushOut := false } else p) x
    (r, fl ||| x.sigFlag)

/-- The type of a TYPE code (R68). -/
def tyOfCode (t : BitVec 8) : Option Ty :=
  let v := t.toNat
  if v = 0x09 then some (.int true 4)
  else if 1 ≤ v && v ≤ 4 then some (.int true (4 * 2 ^ v))
  else if 5 ≤ v && v ≤ 8 then some (.int false (4 * 2 ^ (v - 4)))
  else if v = 0x11 then some (.flt fmtF16)
  else if v = 0x12 then some (.flt fmtBF16)
  else if v = 0x13 then some (.flt fmtF32)
  else if v = 0x14 then some (.flt fmtF64)
  else if 0x80 ≤ v && v ≤ 0x9F && v % 8 ≠ 0 then some (.flt (.b8 (v % 8) (16 ≤ v % 32) (8 ≤ v % 16)))
  else none

end Sys2Proof
end

