-- ==== Sys2Proof/Machine/Translate.lean ====
section
/-!
DEFINITION. Physical addresses, page tables and walks (R326 to R330), TLB entries (R334), the quad-local window (R202,
R203), and on them the accesses of every path: alignment, translation, permission, bank mode, remote wait, poison, in
the order of R113. A read changes nothing; a write changes memory or a bank, and breaks link tags on its line (R217).
-/
namespace Sys2Proof.Machine

open Sys2Proof

/-! ## Addresses -/

/-- An address space as a walk needs it (R332, R333), with the core whose TLBs and walker serve it (R334), and the
translations that an access under way has pinned (R281). -/
structure Space where
  valid : Bool
  root  : Nat
  asid  : Nat
  core  : Option Nat
  pins  : Option Pins
deriving DecidableEq, Repr

inductive AccKind where
  | load | store | fetch
deriving DecidableEq, Repr

/-- PA in local HBM. -/
def paHbm (pa : Nat) : Bool := natBits pa 44 8 == 0 && natBits pa 41 3 == 0
/-- PA in the CXL tier, below the capacity found at bring-up. -/
def paCxl (s : State) (pa : Nat) : Bool := natBits pa 44 8 == 1 && decide (natBits pa 0 44 < s.hub.cxlCap)
/-- PA in hub device space. -/
def paDevice (pa : Nat) : Bool := natBits pa 44 8 == 2
/-- PA in a remote module. -/
def paRemote (pa : Nat) : Bool := natBit pa 51 && natBits pa 41 2 == 0

/-- A PA that R326 allows. -/
def paAllowed (s : State) (pa : Nat) : Bool :=
  decide (pa < 2 ^ 52) && (paHbm pa || paCxl s pa || paDevice pa || paRemote pa)

/-! ## Leaves (R328) -/

def leafOwn (w : Word) : Nat := wBits w 54 10
def leafFrame (w : Word) : Nat := wBits w 18 36 * 65536
def leafFmt (w : Word) : BitVec 8 := fld w 10 8
def leafBg (w : Word) : Nat := wBits w 8 2
def leafCmp (w : Word) : Bool := w.getLsbD 7
def leafNp (w : Word) : Bool := w.getLsbD 6
def leafSb (w : Word) : Bool := w.getLsbD 5
def leafDev (w : Word) : Bool := w.getLsbD 4
def leafX (w : Word) : Bool := w.getLsbD 3
def leafW (w : Word) : Bool := w.getLsbD 2
def leafR (w : Word) : Bool := w.getLsbD 1

/-- The stored element type a leaf names, if any. -/
def leafTy (w : Word) : Option Ty := tyOfCode (leafFmt w)

/-- The block size of a leaf's embedded scales; 0 for none. -/
def leafBlock (w : Word) : Nat := match leafBg w with | 1 => 16 | 2 => 32 | _ => 0

/-- A leaf that maps a page of 2^`lg` bytes is one R329 does not treat as invalid. -/
def leafOk (s : State) (w : Word) (lg : Nat) : Bool :=
  let pa := leafFrame w
  let fw := match leafTy w with | some t => t.width | none => 0
  pa % 2 ^ lg == 0 && paAllowed s pa && paAllowed s (pa + 2 ^ lg - 1)
  && !(leafW w && !leafR w) && !(leafSb w && leafW w)
  && !(leafDev w && (leafFmt w != 0 || leafBg w != 0 || leafCmp w || leafSb w))
  && !(!leafDev w && paDevice pa)
  && (leafFmt w == 0 || typeCodeOk (leafFmt w))
  && leafBg w != 3 && (leafBg w == 0 || fw == 8 || fw == 4)

/-! ## Walks -/

inductive WalkRes where
  | invalid
  | migrating
  | dataError
  | leaf (w : Word) (lg : Nat)
deriving DecidableEq, Repr

/-- The levels of R327: the lowest index bit, which is the log of a leaf's page size, and the index width. -/
def walkLevels : List (Nat × Nat) := [(48, 8), (36, 12), (29, 7), (21, 8), (16, 5)]

/-- What a walk finds in the entry of a level (R328, R329): nothing, a page under migration, the next table, or a leaf. -/
inductive EntryKind where
  | invalid
  | migrating
  | table (next : Nat)
  | leaf
deriving DecidableEq, Repr

/-- The kind of an entry at the level whose lowest index bit is `lo`; `top` says T0, and `rest` are the levels below. -/
def entryKind (s : State) (top : Bool) (lo : Nat) (rest : List (Nat × Nat)) (e : Word) : EntryKind :=
  if !e.getLsbD 0 then (if e.getLsbD 1 then .migrating else .invalid)
  else if fld e 1 3 == 0 then
    match rest with
    | [] => .invalid
    | (_, n2) :: _ =>
      let next := wBits e 6 46 * 64
      if wBits e 52 12 != 0 || wBits e 4 2 != 0 || next % (8 * 2 ^ n2) != 0 || paDevice next || !paAllowed s next then .invalid
      else .table next
  else if !top && leafOk s e lo then .leaf
  else .invalid

/-- The entry that the walker of a space's die caches for an address at a level (R334). -/
def walkCached (s : State) (sp : Space) (va lo : Nat) : Option Word :=
  match sp.core with
  | none => none
  | some c => (s.wcache.find? fun w => w.die == c / 64 && w.asid == sp.asid && w.lo == lo && w.tag == va / 2 ^ lo).map (·.e)

/-- A physical address in the CXL tier while its interleave set is out of service (R305). -/
def cxlLost (s : State) (pa : Nat) : Bool := natBits pa 44 8 == 1 && s.hub.cxlUp == 0

/-- The entry at `at_` as a walk reads it: the cached one, else memory; none for a data error (R305, R344). -/
def tableEntry (s : State) (sp : Space) (va lo at_ : Nat) : Option Word :=
  match walkCached s sp va lo with
  | some e => some e
  | none => if s.poison.contains (at_ / 64) || cxlLost s at_ then none else some (BitVec.ofNat 64 (readPaNat s at_ 8))

/-- A walk through the remaining levels, from the table at `tbl` (R328, R329). -/
def walkFrom (s : State) (sp : Space) (va : Nat) : Bool → List (Nat × Nat) → Nat → WalkRes
  | _, [], _ => .invalid
  | top, (lo, n) :: rest, tbl =>
    match tableEntry s sp va lo (tbl + 8 * natBits va lo n) with
    | none => .dataError
    | some e =>
      match entryKind s top lo rest e with
      | .invalid => .invalid
      | .migrating => .migrating
      | .table next => walkFrom s sp va false rest next
      | .leaf => .leaf e lo

/-- A walk of an address space. -/
def walk (s : State) (sp : Space) (va : Nat) : WalkRes :=
  if sp.valid then walkFrom s sp va true walkLevels sp.root else .invalid

/-- The address names ordinary memory, whose translation the page tables give (R202, R327). -/
def translated (va : Nat) : Bool := decide (va / 2 ^ 48 < 0xFE)

/-- The physical address of the entry that maps a virtual address, through tables only, with its page's log; none where an
entry on the way is out of service with the CXL tier (R305). -/
def entryFrom (s : State) (va : Nat) : List (Nat × Nat) → Nat → Option (Nat × Nat)
  | [], _ => none
  | (lo, n) :: rest, tbl =>
    let at_ := tbl + 8 * natBits va lo n
    let e : Word := BitVec.ofNat 64 (readPaNat s at_ 8)
    if !translated va || cxlLost s at_ then none
    else if e.getLsbD 0 && fld e 1 3 == 0 then entryFrom s va rest (wBits e 6 46 * 64) else some (at_, lo)

/-- The leaf that a page under migration had, and the log of the page's size (R337). -/
def migLeaf (s : State) (sp : Space) (va : Nat) : Option (Word × Nat) :=
  (entryFrom s va walkLevels sp.root).bind fun x =>
    (s.migs.find? fun m => m.1 == sp.asid && m.2.1 == alignDown va (2 ^ x.2)).map fun m => (m.2.2, x.2)

/-- The entry of one TLB that serves an address. -/
def tlbIn (s : State) (place : TlbPlace) (asid va : Nat) : Option TlbEntry :=
  s.tlb.find? fun e => e.place == place && e.asid == asid && va / 2 ^ e.size == e.vpn

/-- The TLB entry that serves an address: of the core, else of its quad (R334); where there is no core, of the ATS cache (log
137). -/
def tlbFind (s : State) (sp : Space) (va : Nat) : Option TlbEntry :=
  match sp.core with
  | none => tlbIn s .ats sp.asid va
  | some c => (tlbIn s (.core c) sp.asid va).or (tlbIn s (.quad (c / 4)) sp.asid va)

/-- The translation of an address now: a TLB entry where there is one, else a walk. Table entries for the spaces 0xFE and 0xFF
are never read (R327). -/
def lookupNow (s : State) (sp : Space) (va : Nat) : WalkRes :=
  if !sp.valid || !translated va then .invalid
  else match tlbFind s sp va with
    | some e => .leaf e.leaf e.size
    | none => walk s sp va

/-- A run holds the page of an address. -/
def PinRun.has (r : PinRun) (va : Nat) : Bool := decide (r.first ≤ va / 2 ^ r.size) && decide (va / 2 ^ r.size < r.first + r.n)

/-- The pins hold the page of an address. -/
def Pins.has (p : Pins) (va : Nat) : Bool := p.whole || p.runs.any (·.has va)

/-- The pins hold a page of the addresses from `lo` up to `hi`. -/
def Pins.meets (p : Pins) (lo hi : Nat) : Bool :=
  p.whole || p.runs.any fun r => decide (r.first * 2 ^ r.size < hi) && decide (lo < (r.first + r.n) * 2 ^ r.size)

/-- The page tables and TLBs as an access to an address sees them: as they stood where it has pinned the page (R281). -/
def pinned (s : State) (sp : Space) (va : Nat) : State :=
  match sp.pins with
  | none => s
  | some p => if p.has va then { s with mem := p.mem, tlb := p.tlb, wcache := p.wcache } else s

/-- The translation an access uses. -/
def lookup (s : State) (sp : Space) (va : Nat) : WalkRes := lookupNow (pinned s sp va) sp va

/-- The translations as they stand now, or as they are pinned, of every page. -/
def pinsNow (s : State) (sp : Space) : Pins :=
  match sp.pins with
  | none => { runs := [], whole := true, store := false, mem := s.mem, tlb := s.tlb, wcache := s.wcache }
  | some p => { p with whole := true }

/-! ## The outcome of an access -/

/-- What an access comes to: a value, a trap with its address, or a wait. -/
inductive MRes (α : Type) where
  | ok (a : α)
  | trap (cause : BitVec 8) (addr : Nat)
  | wait (w : Wait)
deriving DecidableEq, Repr

def MRes.bind {α β : Type} (r : MRes α) (f : α → MRes β) : MRes β :=
  match r with
  | .ok a => f a
  | .trap c a => .trap c a
  | .wait w => .wait w

/-- Where an access goes: a physical address with its leaf, a byte of a scratch bank, or a FIFO port. -/
inductive Loc where
  | pa (a : Nat) (leaf : Word) (lg : Nat)
  | bank (key off : Nat)
  | fifo (key : Nat)
deriving DecidableEq, Repr

/-- The path an access takes: the address space; for the scalar and vector streams of a launch's hart, who it is (its
quad-local window); what became of its pod-remote access (the engines' accesses do not wait here, log 6); whether it waits
while no port to a peer is up (R376); the stream whose stores are held back, the vector stream for true (R267); and whether it
is only tried (`Strike.probe`). -/
structure Path where
  sp       : Space
  quadOf   : Option Ident
  remote   : Option Bool
  port     : Bool
  post     : Option Bool
  probe    : Bool
  /-- Memory is read as a view has it: a page that its tables do not map as now is not read there (R265). -/
  view     : Bool := false
deriving DecidableEq, Repr

def pageFault : AccKind → BitVec 8
  | .load => causeLoadPage
  | .store => causeStorePage
  | .fetch => causeFetchPage

/-- The number of a bank in `State.banks`. -/
def bankKey (die quad bank : Nat) : Nat := (die * 16 + quad) * 64 + bank

def bankAt (s : State) (key : Nat) : Bank := tabGet Bank.init s.banks key

def setBank (s : State) (key : Nat) (b : Bank) : State := { s with banks := tabSet Bank.init s.banks key b }

/-- The hart's launch or session holds the bank (R203, R28). -/
def bankHeld (w : Ident) (b : Bank) : Bool :=
  b.holder == some (w.serial, w.gang) || (w.sessv && b.session == some w.session)

/-- A bank access of the quad-local window: reach, mode, and a mode change in progress (R203 to R205). An access that was dispatched
before the change (one that has waited at the bank's port, or has its translations and has not performed) completes under the old
mode. -/
def bankLoc (s : State) (w : Ident) (va bank : Nat) (ok : BankMode → Bool) (loc : Nat → Loc) : MRes Loc :=
  let key := bankKey w.die w.quad bank
  let b := bankAt s key
  if b.changing.isSome && s.hart.pins.isNone && s.hart.status != .waiting (.fifo key) then .wait .stall
  else if b.retired || !bankHeld w b || !ok b.mode then .trap causeBankMode va
  else .ok (loc key)

/-- An address in the region of the FIFO ports names a port (R203). -/
def fifoPort (va : Nat) : Bool := natBits va 12 28 == 0 && natBits va 0 6 == 0

/-- The quad-local window (R203). -/
def quadLocal (s : State) (w : Ident) (va : Nat) (k : AccKind) : MRes Loc :=
  match natBits va 40 8 with
  | 0 =>
    if natBits va 24 16 != 0 then .trap (pageFault k) va
    else bankLoc s w va (natBits va 6 6 ^^^ natBits va 12 6) (· == .scratch)
      (fun key => .bank key (natBits va 12 12 * 64 + natBits va 0 6))
  | 1 =>
    if natBits va 25 15 != 0 then .trap (pageFault k) va
    else bankLoc s w va (natBits va 19 6) (· == .scratchz) (fun key => .bank key (natBits va 0 19))
  | 2 =>
    if !fifoPort va then .trap (pageFault k) va
    else bankLoc s w va (natBits va 6 6) (· == .fifo) (fun key => .fifo key)
  | _ => .trap (pageFault k) va

/-- Permission of a leaf (R113, R338). -/
def leafAllows (k : AccKind) (w : Word) : Option (BitVec 8) :=
  match k with
  | .load => if leafR w then none else some causeLoadPage
  | .store => if leafW w then none else some causePermWrite
  | .fetch => if leafX w && !leafDev w then none else some causePermExec

/-- The page tables in the memory of `s` map an address by this leaf. -/
def mappedSo (s : State) (sp : Space) (va : Nat) (w : Word) (lg : Nat) : Bool :=
  walk s { sp with core := none, pins := none } va == .leaf w lg

/-- The place that an address translates to, or what stops the access there: tests 2 and 3 of R113. -/
def translate (s : State) (p : Path) (va : Nat) (k : AccKind) : MRes Loc :=
  if 2 ^ 56 ≤ va || va / 2 ^ 48 = 0xFF then .trap (pageFault k) va
  else if va / 2 ^ 48 = 0xFE then
    match p.quadOf with
    | some w => if k = .fetch || w.dispatch then .trap (pageFault k) va else quadLocal s w va k
    | none => .trap (pageFault k) va
  else match lookup s p.sp va with
    | .invalid => .trap (pageFault k) va
    | .migrating => .wait .migration
    | .dataError => .trap causeDataUe va
    | .leaf w lg =>
      match leafAllows k w with
      | some c => .trap c va
      | none => if p.view && !mappedSo s p.sp va w lg then .wait .stall else .ok (.pa (leafFrame w + va % 2 ^ lg) w lg)

/-- A Kwator port carries traffic (R374, R376). -/
def portUp (p : Port) : Bool := p.state == 2 || p.state == 3

/-- Some port carries traffic to the pod's peers. -/
def linkUp (s : State) : Bool := s.hub.ports.any fun p => portUp p.2

/-- What an access meets at its place: the wait for a remote module and its REMOTE_TIMEOUT, test 4 of R113, or the CXL tier
out of service (R305). No new access to a remote module starts from a FREEZE on (R377). -/
def reach (s : State) (p : Path) (va : Nat) (l : Loc) : MRes Loc :=
  match l with
  | .pa pa _ _ =>
    if paRemote pa && p.remote == none then (if s.hub.snap = 0 then .wait .remote else .wait .stall)
    else if paRemote pa && p.remote == some false then .trap causeRemoteTimeout va
    else if paRemote pa && p.port && !linkUp s then .wait .remote
    else if cxlLost s pa then .trap causeDataUe va
    else .ok l
  | _ => .ok l

/-- The place of an address, or what stops the access, in the order of R113 after alignment. -/
def locate (s : State) (p : Path) (va : Nat) (k : AccKind) : MRes Loc := (translate s p va k).bind (reach s p va)

/-! ## Reading and writing places -/

/-- The 64-byte line of a place, as link tags and poison name it; a bank's lines lie above all physical ones. -/
def locLine : Loc → Nat
  | .pa a _ _ => a / 64
  | .bank key off => 2 ^ 48 + key * 8192 + off / 64
  | .fifo key => 2 ^ 48 + key * 8192

/-- The place some bytes further on. -/
def Loc.plus (n : Nat) : Loc → Loc
  | .pa a w lg => .pa (a + n) w lg
  | .bank key off => .bank key (off + n)
  | .fifo key => .fifo key

def locBytes (s : State) (l : Loc) (n : Nat) : List Byte :=
  match l with
  | .pa a _ _ => cellsAt s.mem a n
  | .bank key off => cellsAt (bankAt s key).data off n
  | .fifo _ => []

/-- The line of a place carries a poison mark (R344). -/
def locPoisoned (s : State) (l : Loc) : Bool := s.poison.contains (locLine l)

/-- A place as bank adds and stores held back name it: a physical address, or a bank's byte above all of them. -/
def locKey : Loc → Nat
  | .pa a _ _ => a
  | .bank key off => 2 ^ 56 + key * 2 ^ 24 + off
  | .fifo key => 2 ^ 56 + key * 2 ^ 24

/-- The place such a number names. -/
def keyLoc (k : Nat) : Loc := if 2 ^ 56 ≤ k then .bank ((k - 2 ^ 56) / 2 ^ 24) ((k - 2 ^ 56) % 2 ^ 24) else .pa k 0 0

/-- Link tags on a line break, but those of hart `exc` (R217). -/
def breakLine (line : Nat) (exc : Option Nat) (s : State) : State :=
  mapHarts (fun h =>
    if exc = some h.who.id then h
    else match h.eng.link with
      | none => h
      | some ls => { h with eng := { h.eng with link := some (ls.map fun p => if p.1 = line then (p.1, false) else p) } }) s

/-- The distinct tiles of 4 KiB with a nonzero byte, from a list in rising order (R204). -/
def tilesUsed : Option Nat → List Host.Cell → Nat
  | _, [] => 0
  | last, (a, _) :: t => if last = some (a / 4096) then tilesUsed last t else 1 + tilesUsed (some (a / 4096)) t

/-- Writing bytes at a place. A SCRATCHZ bank refuses a store that its compressed tiles have no room for (R204): it
never does with at most 64 nonzero tiles, and what it does beyond depends on its contents alone (log 15). -/
def putBytes (s : State) (l : Loc) (exc : Option Nat) (va : Nat) (bs : List Byte) : MRes State :=
  match l with
  | .pa a _ _ => .ok (breakLine (locLine l) exc { s with mem := cellsPut s.mem a bs })
  | .bank key off =>
    let b := bankAt s key
    let data := cellsPut b.data off bs
    if b.mode = .scratchz && decide (64 < tilesUsed none data) && Config.scratchzFull data then .trap causeBankMode va
    else .ok (breakLine (locLine l) exc (setBank s key { b with data := data }))
  | .fifo _ => .trap causeBankMode va

/-- What kinds of place an access refuses: a device page (with LOAD_PAGE), a FIFO port (with BANK_MODE). -/
structure Refuse where
  dev  : Bool
  fifo : Bool
deriving DecidableEq, Repr

def Refuse.fifoOnly : Refuse := { dev := false, fifo := true }
def Refuse.devFifo : Refuse := { dev := true, fifo := true }

/-- The place of an aligned access of `n` bytes, checked in the order of R113. -/
def placeOf (s : State) (p : Path) (va n : Nat) (k : AccKind) (rf : Refuse) : MRes Loc :=
  if va % n ≠ 0 then .trap causeMisalign va
  else (translate s p va k).bind fun l =>
    match l with
    | .pa a w _ =>
      if rf.dev && leafDev w then .trap causeLoadPage va
      else (reach s p va l).bind fun l => if p.probe && (leafDev w || paRemote a) then .wait .stall else .ok l
    | .bank _ _ => .ok l
    | .fifo _ => if rf.fifo then .trap causeBankMode va else if p.probe then .wait .stall else .ok l

/-- The place whose tag an element of SCOND tests (R217): what an aligned store passes before it is made. -/
def tagPlace (s : State) (p : Path) (va n : Nat) : MRes Loc :=
  if va % n ≠ 0 then .trap causeMisalign va
  else (translate s p va .store).bind fun l =>
    match l with
    | .fifo _ => .trap causeBankMode va
    | _ => .ok l

/-! ## Stores that are held back (R265 to R268) -/

/-- The bytes that a store leaves: of one that writes a nibble, with the other as it is (R264). -/
def Posted.merged (s : State) (x : Posted) : List Byte :=
  if x.mask = 0xFF#8 then x.bytes
  else (x.bytes.zip (locBytes s (keyLoc x.key) x.bytes.length)).map fun p => (p.1 &&& x.mask) ||| (p.2 &&& ~~~x.mask)

/-- A store performs: it takes its place in the global order. -/
def performOne (s : State) (x : Posted) : State :=
  match putBytes s (keyLoc x.key) none x.va (x.merged s) with
  | .ok t => t
  | _ => s

/-- The stores of a stream of the hart that have not performed, the oldest first. -/
def Weak.posted (w : Weak) (vec : Bool) : List Posted := if vec then w.postV else w.postS

def Weak.setPosted (w : Weak) (vec : Bool) (xs : List Posted) : Weak := if vec then { w with postV := xs } else { w with postS := xs }

def setPosted (s : State) (vec : Bool) (xs : List Posted) : State :=
  { s with hart := { s.hart with weak := s.hart.weak.setPosted vec xs } }

/-- Every store of a stream of the hart performs, in program order. -/
def drain (s : State) (vec : Bool) : State :=
  if s.hart.weak.posted vec = [] then s else setPosted ((s.hart.weak.posted vec).foldl performOne s) vec []

/-- Every store of the hart performs. -/
def drainAll (s : State) : State := drain (drain s false) true

/-- Every store of every hart performs. -/
def drainHarts (s : State) : State :=
  let t := ((allHarts s).map (·.who.id)).foldl (fun u id => match focus u id with | some v => drainAll v | none => u) s
  (focus t s.hart.who.id).getD t

/-- A store to this place may be held back: ordinary memory of the module, or a SCRATCH bank (R263), without a mark. -/
def postable (s : State) (l : Loc) : Bool :=
  !locPoisoned s l && (match l with
    | .pa a w _ => !leafDev w && !paRemote a
    | .bank key _ => (bankAt s key).mode == .scratch
    | .fifo _ => false)

/-- A store of the hart's own: held back where its stream holds stores back, else it performs, after the earlier ones of
its stream. -/
def storeAt (s : State) (p : Path) (l : Loc) (va : Nat) (bs : List Byte) : MRes State :=
  match p.post with
  | none => putBytes s l none va bs
  | some vec =>
    if postable s l then
      .ok (setPosted s vec (s.hart.weak.posted vec ++ [{ key := locKey l, va := va, bytes := bs, mask := 0xFF, since := s.time }]))
    else putBytes (drain s vec) l none va bs

/-- A store of one nibble of a byte, the other as it was last left (R264). -/
def storeNibble (s : State) (p : Path) (l : Loc) (va nib v : Nat) : MRes State :=
  let x : Posted :=
    { key := locKey l, va := va, bytes := [BitVec.ofNat 8 (v % 16 * 16 + v % 16)], mask := if nib = 0 then 0x0F else 0xF0, since := s.time }
  match p.post with
  | none => putBytes s l none va (x.merged s)
  | some vec =>
    if postable s l then .ok (setPosted s vec (s.hart.weak.posted vec ++ [x]))
    else let t := drain s vec; putBytes t l none va (x.merged t)

/-- A raw load of `n` bytes, as a number. -/
def loadNat (s : State) (p : Path) (va n : Nat) (rf : Refuse) : MRes Nat :=
  (placeOf s p va n .load rf).bind fun l =>
    if locPoisoned s l then .trap causeDataUe va else .ok (rawValue s p.sp.asid va n (natOfBytes (locBytes s l n)))

/-- A raw store of the `n` low bytes of a number. -/
def storeNat (s : State) (p : Path) (va n v : Nat) (rf : Refuse) : MRes State :=
  (placeOf s p va n .store rf).bind fun l => storeAt s p l va (bytesOfNat n (rawValue s p.sp.asid va n v))

/-- Bytes from `va` on, one by one (the engines' and the hub's reads of raw bytes). -/
def loadBytes (s : State) (p : Path) (va : Nat) : Nat → MRes (List Byte)
  | 0 => .ok []
  | n + 1 => (loadNat s p va 1 .fifoOnly).bind fun b => (loadBytes s p (va + 1) n).bind fun t => .ok (BitVec.ofNat 8 b :: t)

/-- Bytes stored from `va` on, one by one. -/
def storeBytes (s : State) (p : Path) (va : Nat) : List Byte → MRes State
  | [] => .ok s
  | b :: t => (storeNat s p va 1 b.toNat .fifoOnly).bind fun s' => storeBytes s' p (va + 1) t

/-- The poison marks of the lines that a write from `pa` over `n` bytes covers whole are cleared (R344). -/
def clearPoison (s : State) (pa n : Nat) : State :=
  { s with poison := s.poison.filter fun l => !(decide (pa ≤ 64 * l) && decide (64 * l + 64 ≤ pa + n)) }

/-- The poison marks of the lines that the spans of virtual addresses, each within one page of `s`, cover whole are cleared in
`t`. -/
def clearLines (s t : State) (p : Path) (spans : Unit → List (Nat × Nat)) : State :=
  if t.poison.isEmpty then t
  else
    let at_ := (spans ()).filterMap fun x => match locate s p x.1 .store with | .ok (.pa a _ _) => some (a, x.2) | _ => none
    { t with poison := t.poison.filter fun l =>
      !(List.range 64).all fun j => at_.any fun x => decide (x.1 ≤ 64 * l + j) && decide (64 * l + j < x.1 + x.2) }

/-- As `clearPoison` in `t`, for a write of `n` bytes from a virtual address within one page of `s`. -/
def clearPoisonAt (s t : State) (p : Path) (va n : Nat) : State :=
  match locate s p va .store with
  | .ok (.pa a _ _) => clearPoison t a n
  | _ => t

/-- Stored bytes within one page, with the marks of whole lines cleared. -/
def storeBlock (s : State) (p : Path) (va : Nat) (bs : List Byte) : MRes State :=
  (storeBytes s p va bs).bind fun s' => .ok (clearPoisonAt s s' p va bs.length)

/-! ## The paths of a hart -/

/-- The function's registers. -/
def fnAt (s : State) (f : Nat) : FnRegs := tabGet FnRegs.init s.hub.fns f

/-- The number of the core a hart is on. -/
def coreOf (w : Ident) : Nat := w.die * 64 + w.quad * 4 + w.core

/-- The address space of a context: its TROOT, while its function has an address space (R332, R333). -/
def identSpace (s : State) (w : Ident) : Space :=
  { valid := (fnAt s w.fn).root.getLsbD 0, root := wBits w.troot 11 41 * 2048, asid := wBits w.troot 52 12
    core := if w.dispatch then none else some (coreOf w), pins := none }

/-- The same, with the translations that the hart's access under way has pinned. -/
def Hart.space (s : State) (h : Hart) : Space := { identSpace s h.who with pins := h.pins }

/-- The address space of a function. -/
def fnSpace (s : State) (f : Nat) : Space :=
  let r := (fnAt s f).root
  { valid := r.getLsbD 0, root := wBits r 11 41 * 2048, asid := wBits r 52 12, core := none, pins := none }

/-- The path of the scalar stream. -/
def Hart.path (s : State) (h : Hart) : Path :=
  { sp := h.space s, quadOf := some h.who, remote := h.remote, port := false, post := if h.weak.holdS then some false else none
    probe := h.strike == some .probe }

/-- The path of the vector stream. -/
def Hart.vpath (s : State) (h : Hart) : Path := { h.path s with post := if h.weak.holdV then some true else none }

/-- The path of the engines, the fetcher, the streamer and the grid gather: their traffic needs a port that is up (R376). -/
def Hart.enginePath (s : State) (h : Hart) : Path :=
  { sp := identSpace s h.who, quadOf := none, remote := some true, port := true, post := none, probe := false }

/-- The hub's path through a function's translation (R17, R304, R341). -/
def fnPath (s : State) (f : Nat) : Path :=
  { sp := fnSpace s f, quadOf := none, remote := some true, port := true, post := none, probe := false }

/-! ## Views (R267, R269, R271) -/

/-- What a view has seen of memory and of the banks. -/
def View.state (v : View) (s : State) : State :=
  { s with
    mem := v.mem, poison := v.poison
    banks := s.banks.map fun b => (b.1, { b.2 with data := tabGet [] v.banks b.1 }) }

/-- The state and the path through which a view is read: memory as the view has it, translations as they stand now. An access to
a page that was not mapped as it is now when the view was taken is not made there: what its frame held then is older than what the
mapping gave it (R265, R330). -/
def viewed (s : State) (p : Path) (v : View) : State × Path :=
  (v.state s, { p with sp := { p.sp with pins := some (pinsNow s p.sp) }, probe := true, view := true })

/-- The aligned 8 bytes in which accesses of virtual spans lie. -/
def spanKeys (s : State) (p : Path) (xs : List (Nat × Nat)) : List Nat :=
  xs.filterMap fun x => match locate s p x.1 .load with | .ok l => some (locKey l / 8) | _ => none

/-- The view after reads of these. -/
def View.reads (v : View) (ks : List Nat) : View :=
  { v with seen := ks.foldl (fun t k => tabSet 0 t k (tabGet 0 t k + 1)) v.seen }

/-- A view still serves: none of them has been read from it more than 255 times (R268), and no conversion is under way (R277). -/
def viewFresh (s : State) (v : View) : Bool := s.relays.isEmpty && v.seen.all fun x => decide (x.2 ≤ 255)

/-- What an engine class of the hart reads through on a path: its view, while it has one and no conversion is under way
(R277). -/
def classView (s : State) (p : Path) (cls : Nat) : State × Path :=
  match s.hart.weak.viewE.find? (·.1 == cls) with
  | some v => if s.relays.isEmpty then (v.2.state s, { p with sp := { p.sp with pins := some (pinsNow s p.sp) }, view := true }) else (s, p)
  | none => (s, p)

/-- The same on the engines' path. -/
def engineView (s : State) (cls : Nat) : State × Path := classView s (s.hart.enginePath s) cls

/-- What an engine reads for a class: through its view, or, where that does not serve (R265), in memory as it is. -/
def viaView {α : Type} (s : State) (cls : Nat) (f : State → Path → MRes α) : MRes α :=
  match f (engineView s cls).1 (engineView s cls).2 with
  | .wait .stall => f s (s.hart.enginePath s)
  | r => r

/-- The vector stream reads memory as it is from now on. -/
def dropView (s : State) : State := { s with hart := { s.hart with weak := { s.hart.weak with viewV := none } } }

/-- The scalar stream does. -/
def dropScalar (s : State) : State := { s with hart := { s.hart with weak := { s.hart.weak with viewS := none } } }

/-- An access of the scalar stream other than a load is to be made: its earlier stores have performed (R266), and the stream
reads memory as it is from now on. -/
def syncScalar (s : State) : State := dropScalar (drain s false)

/-- Both streams read memory as it is from now on. -/
def dropStreams (s : State) : State := dropScalar (dropView s)

end Sys2Proof.Machine
end

