-- ==== Sys2Proof/Machine/Ops.lean ====
section
/-!
DEFINITION. The named operations every meaning is built from: reading and writing registers, event counters (R359 to
R364), the logs (R341 to R343), completing an instruction, waiting, taking an exception and returning from one (R53,
R54, R137, R138, R339), and fetching.
-/
namespace Sys2Proof.Machine

open Sys2Proof

/-- The outcome type of every meaning. -/
abbrev Out := Host.Outcome State Fault Refusal

/-! ## Registers -/

/-- X[r]; X0 reads as zero (R91). -/
def rx (s : State) (r : BitVec 5) : Word := if r = 0#5 then 0#64 else s.hart.x.get r.toFin

/-- Writing X[r]; a write to X0 is discarded (R91). -/
def wx (s : State) (r : BitVec 5) (v : Word) : State :=
  if r = 0#5 then s else { s with hart := { s.hart with x := s.hart.x.set r.toNat v r.isLt } }

/-- The descriptor of a window (R35). -/
def rw (s : State) (r : BitVec 6) : Word := s.hart.vec.w.get r.toFin

/-- Writing a window's descriptor. -/
def ww (s : State) (r : BitVec 6) (v : Word) : State :=
  { s with hart := { s.hart with vec := { s.hart.vec with w := s.hart.vec.w.set r.toNat v r.isLt } } }

/-- Mask k (k at most 11, R91). -/
def rm (s : State) (k : Nat) : BitVec 1024 := if h : k < 12 then s.hart.vec.m[k] else 0

def wm (s : State) (k : Nat) (v : BitVec 1024) : State :=
  if h : k < 12 then { s with hart := { s.hart with vec := { s.hart.vec with m := s.hart.vec.m.set k v h } } } else s

/-- A handle register. -/
def rh (s : State) (k : Nat) : Handle := if h : k < 16 then s.hart.h[k] else Handle.zero

def wh (s : State) (k : Nat) (v : Handle) : State :=
  if h : k < 16 then { s with hart := { s.hart with h := s.hart.h.set k v h } } else s

/-- A completion counter. -/
def rc (s : State) (k : Nat) : Counter := if h : k < 16 then s.hart.c[k] else Counter.zero

def wc (s : State) (k : Nat) (v : Counter) : State :=
  if h : k < 16 then { s with hart := { s.hart with c := s.hart.c.set k v h } } else s

def withVec (s : State) (f : VecState → VecState) : State := { s with hart := { s.hart with vec := f s.hart.vec } }
def withMat (s : State) (f : MatState → MatState) : State := { s with hart := { s.hart with mat := f s.hart.mat } }
def withEng (s : State) (f : EngState → EngState) : State := { s with hart := { s.hart with eng := f s.hart.eng } }

/-- Flags ORed into VFLAGS (R76) and into FCSR (R116). -/
def orVflags (s : State) (f : Flags) : State := withVec s fun v => { v with vflags := v.vflags ||| f }
def orFcsr (s : State) (f : Flags) : State :=
  { s with hart := { s.hart with fcsr := s.hart.fcsr ||| (f.setWidth 5).setWidth 64 } }

/-- GRB: the bytes of a hart's stripe row (R5, R13); `shape` is log2 h. -/
def grbOf (shape : Nat) : Nat := 512 / 2 ^ shape

/-- HARTID (R14), with 0 for a dispatch hart (R308). -/
def hartIdWord (w : Ident) : Word :=
  if w.dispatch then 0
  else BitVec.ofNat 64 ((if w.degr then 2 ^ 31 else 0) + w.shape % 4 * 2 ^ 29 + w.die % 16 * 2 ^ 25 + w.quad % 16 * 2 ^ 21
    + w.core % 4 * 2 ^ 19 + w.slot % 8 * 2 ^ 16 + w.rank % 65536)

/-! ## The hub's registers of a function -/

def setFn (s : State) (f : Nat) (r : FnRegs) : State :=
  { s with hub := { s.hub with fns := tabSet FnRegs.init s.hub.fns f r } }

/-- An MSI-X message to a function (R302). -/
def sendMsix (s : State) (f vec : Nat) : State := { s with msix := s.msix ++ [(f, vec)] }

def queueAt (s : State) (q : Nat) : QueueRegs := tabGet QueueRegs.init s.hub.queues q

def setQueue (s : State) (q : Nat) (r : QueueRegs) : State :=
  { s with hub := { s.hub with queues := tabSet QueueRegs.init s.hub.queues q r } }

/-- The fields of QCFG (R307). -/
def qEn (r : QueueRegs) : Bool := r.cfg.getLsbD 15
def qFunc (r : QueueRegs) : Nat := wBits r.cfg 8 7
def qMaxClass (r : QueueRegs) : Nat := wBits r.cfg 16 3
def qWeight (r : QueueRegs) : Nat := wBits r.cfg 0 8

/-- A Kwator port (R374). -/
def portAt (s : State) (p : Nat) : Port := tabGet Port.init s.hub.ports p

/-! ## Event counters -/

/-- EVn of the hart counts events of this code (R359, R362): enabled, the code selected, the hart resident and not stopped
by a world switch (log 112), and no link event in a virtual function's context. -/
def evCounts (h : Hart) (code : Nat) (i : Fin 8) : Bool :=
  (h.evsel.get i).getLsbD 30 && wBits (h.evsel.get i) 0 16 == code && code != 0 && (h.who.resident || h.who.dispatch)
  && !(h.world && h.stopped)
  && !(decide (0x30 ≤ code) && decide (code ≤ 0x32) && h.who.fn != 0)

/-- Overflow of EVn (R364). -/
def evOverflow (s : State) (i : Fin 8) : State :=
  let sel := s.hart.evsel.get i
  let f := s.hart.who.fn
  let r := fnAt s f
  let st := wSet (wSet (wSet r.ovfStat 32 32 s.hart.who.serial) 16 16 (wBits r.ovfStat 16 16 + 1)) i.val 1 1
  let s1 := setFn s f { r with ovfStat := st }
  let s2 := { s1 with hart := { s1.hart with evsel := s1.hart.evsel.set i.val (sel ||| 0x10000000#64) i.isLt } }
  if sel.getLsbD 29 && r.ovfVec.getLsbD 8 then sendMsix s2 f (wBits r.ovfVec 0 6) else s2

/-- `n` events of a code at counter i. -/
def evAdd (code n : Nat) (s : State) (i : Fin 8) : State :=
  if evCounts s.hart code i then
    let sum := (s.hart.ev.get i).toNat + n
    let s1 := { s with hart := { s.hart with ev := s.hart.ev.set i.val (BitVec.ofNat 48 sum) i.isLt } }
    if 2 ^ 48 ≤ sum then evOverflow s1 i else s1
  else s

/-- `n` events of a code for the hart. -/
def evCount (code n : Nat) (s : State) : State :=
  if n = 0 then s else [0, 1, 2, 3, 4, 5, 6, 7].foldl (evAdd code n) s

/-! ## Completing and waiting -/

/-- The instruction ends and the hart goes on at `pc`, without the RETIRED event (R365). -/
def completeQuiet (s : State) (pc : Word) : State :=
  { s with hart := { s.hart with pc := pc, status := .running, remote := none, pins := none } }

/-- The instruction completes: RETIRED counts it (R360), and the hart goes on at `pc`. -/
def complete (s : State) (pc : Word) : State := completeQuiet (evCount 0x0002 1 s) pc

/-- Completion with the next instruction following. -/
def advance (s : State) : State := complete s (s.hart.pc + 4)

/-- The hart waits; the instruction at its pc is performed again when the wait ends. An access to a remote module and a VWAIT
keep the translations that they have made (R281, R335). -/
def waitOn (s : State) (w : Wait) : State :=
  { s with hart := { s.hart with status := .waiting w,
                                 waitFrom := if s.hart.status = .waiting w then s.hart.waitFrom else s.time,
                                 pins := if w = .remote ∨ w = .vwait then some (pinsNow s (s.hart.space s)) else s.hart.pins } }

/-- The hart's register file with X[r] written and the pc after the instruction: the shape of most scalar results. -/
def setX (s : State) (r : BitVec 5) (v : Word) : Out := .next (advance (wx s r v))

/-! ## Logs -/

/-- A path on which an address is translated by a given leaf. -/
def throughLeaf (p : Path) (va : Nat) (w : Word) (lg : Nat) : Path :=
  let e : TlbEntry := { place := .core 0, asid := p.sp.asid, vpn := va / 2 ^ lg, size := lg, leaf := w }
  { p with sp := { p.sp with core := some 0, pins := some { runs := [], whole := true, store := false, mem := [], tlb := [e], wcache := [] } } }

/-- A write of a log, dropped on a fault (R341). One that meets a page under migration waits for the new leaf (R337); since
the frame is copied before anything reads it again, the model writes through the leaf that the page had (log 97). -/
def logStore (s : State) (f va : Nat) (bs : List Byte) : State :=
  match storeBlock s (fnPath s f) va bs with
  | .ok t => t
  | .wait _ =>
    (match migLeaf s (fnSpace s f) va with
    | some (w, lg) =>
      (match storeBlock s (throughLeaf (fnPath s f) va w lg) va bs with
      | .ok t => t
      | _ => s)
    | none => s)
  | _ => s

/-- One event record (R341, R343): written through the function's translation, dropped on a fault or while the log is
disabled, counted in any case, and followed by vector 0. -/
def writeEvent (s : State) (f : Nat) (bytes : List Byte) : State :=
  let r := fnAt s f
  let n := r.evHead.toNat
  let s1 := if 6 ≤ r.evLg && r.evLg ≤ 16 then logStore s f (r.evBase.toNat + n % 2 ^ r.evLg * 64) bytes else s
  sendMsix (setFn s1 f { fnAt s1 f with evHead := r.evHead + 1 }) f 0

/-- The bytes of an event record. -/
def eventBytes (kind : Nat) (cause : BitVec 8) (lane serial : Nat) (tval tepc hartid tpos : Word) (time own : Nat) : List Byte :=
  bytesOfNat 1 kind ++ [cause] ++ bytesOfNat 2 lane ++ bytesOfNat 4 serial ++ bytesOfNat 8 tval.toNat
  ++ bytesOfNat 8 tepc.toNat ++ bytesOfNat 8 hartid.toNat ++ bytesOfNat 8 tpos.toNat ++ bytesOfNat 8 time
  ++ bytesOfNat 2 own ++ List.replicate 14 0

/-- One errata-log entry (R341, R342), and the address that COUNTER_POISON reports for it (0 while the log is disabled). -/
def writeErrata (s : State) (f : Nat) (bytes : List Byte) : State × Word :=
  let r := fnAt s f
  let n := r.errHead.toNat
  let on := 6 ≤ r.errLg && r.errLg ≤ 16
  let at_ := r.errBase.toNat + n % 2 ^ r.errLg * 32
  let s1 := if on then logStore s f at_ bytes else s
  (setFn s1 f { fnAt s1 f with errHead := r.errHead + 1 }, if on then BitVec.ofNat 64 at_ else 0)

/-- The word of an instruction (TVAL of many causes, R140); 0 for a step without an encoding. -/
def wordOf (i : Instr) : BitVec 32 := (encode i).getD 0

/-- The errata entry of a fault of the hart's access (R342). `path` is the class's bit number, `ctr` 0xFF for none. -/
def errataBytes (w : Ident) (addr operand : Nat) (word : BitVec 32) (cause : BitVec 8) (path ctr : Nat) : List Byte :=
  bytesOfNat 8 addr ++ bytesOfNat 8 operand ++ bytesOfNat 4 word.toNat ++ [cause] ++ bytesOfNat 1 path ++ bytesOfNat 1 ctr
  ++ [0] ++ bytesOfNat 4 (hartIdWord w).toNat ++ bytesOfNat 4 w.serial

/-- A counter is poisoned (R228, R229): an errata entry is written first, and the first one's address is kept. `operand` is
the contribution dropped, or 0. -/
def poisonCounterOp (s : State) (ctr : Nat) (addr operand : Nat) (word : BitVec 32) (cause : BitVec 8) (path : Nat) : State :=
  let n := (fnAt s s.hart.who.fn).errHead.toNat
  let (s1, e) := writeErrata s s.hart.who.fn (errataBytes s.hart.who addr operand word cause path ctr)
  let c := rc s1 ctr
  wc s1 ctr (if c.poison then c else { c with poison := true, first := e, entry := n })

/-- The same with no operand. -/
def poisonCounter (s : State) (ctr : Nat) (addr : Nat) (word : BitVec 32) (cause : BitVec 8) (path : Nat) : State :=
  poisonCounterOp s ctr addr 0 word cause path

/-- A fault that has no counter to poison sets the errata pending state (R216, R233). -/
def errataPending (s : State) (addr operand : Nat) (word : BitVec 32) (cause : BitVec 8) (path : Nat) : State :=
  let (s1, e) := writeErrata s s.hart.who.fn (errataBytes s.hart.who addr operand word cause path 0xFF)
  withEng s1 fun g => { g with errPend := g.errPend.or (some e) }

/-! ## Aborting a launch -/

/-- A launch is aborted (R18): no further gang starts, its running harts are asked to stop, and the first cause is kept. -/
def abortLaunch (s : State) (serial : Nat) (cause : BitVec 8) : State :=
  let s1 := { s with sched := { s.sched with launches := s.sched.launches.map fun l =>
    if l.serial = serial && !l.aborted then { l with aborted := true, cause := cause } else l } }
  mapHarts (fun h => if !h.who.dispatch && h.who.serial = serial && h.status ≠ .absent && h.status ≠ .ended && h.status ≠ .halted
    then { h with stopReq := true } else h) s1

/-! ## Exceptions -/

/-- What a trap names (R138): nothing; a window, by number, role and captured descriptor; the destination of a
whole-vector instruction; one element; or a metadata byte. -/
inductive TrapPos where
  | plain
  | window (win role : Nat) (desc : Word)
  | whole (win : Nat) (ovl : Bool) (desc : Word)
  | element (win role : Nat) (ovl : Bool) (row outer inner : Nat) (desc : Word) (vstart : Nat)
  | metadata (win row outer inner : Nat) (desc : Word)
deriving DecidableEq, Repr

structure Trap where
  cause : BitVec 8
  tval  : Word
  pos   : TrapPos
  /-- LANE of the event record (R343): 0xFFFF for none. -/
  lane  : Nat := 0xFFFF
deriving DecidableEq, Repr

/-- TPOS as R138 sets it. Fields that the rule does not name keep their value (log 9). -/
def trapTpos (old : Word) : TrapPos → Word
  | .plain => wSet (wSet old 28 1 0) 56 2 3
  | .window win role _ => wSet (wSet (wSet old 28 1 0) 56 2 role) 58 6 win
  | .whole win ovl _ => wSet (wSet (wSet (wSet old 28 1 0) 56 2 0) 58 6 win) 55 1 (if ovl then 1 else 0)
  | .element win role ovl row outer inner _ _ =>
    wSet (wSet (wSet (wSet (wSet (wSet (wSet old 28 1 1) 56 2 role) 58 6 win) 55 1 (if ovl then 1 else 0)) 19 9 row) 10 9 outer) 0 10 inner
  | .metadata win row outer inner _ =>
    wSet (wSet (wSet (wSet (wSet (wSet old 28 1 1) 56 2 1) 58 6 win) 19 9 row) 10 9 outer) 0 10 inner

def trapTwin (old : Word) : TrapPos → Word
  | .plain => old
  | .window _ _ d => d
  | .whole _ _ d => d
  | .element _ _ _ _ _ _ d _ => d
  | .metadata _ _ _ _ d => d

def trapVstart (old : Nat) : TrapPos → Nat
  | .element _ _ _ _ _ _ _ v => v
  | .metadata _ _ _ _ _ => 0
  | _ => old

/-- A pc as TEPC holds it (R136). -/
def tepcOf (pc : Word) : Word := pc &&& 0x00FFFFFFFFFFFFFC#64

/-- The trap registers after delivery (R138). -/
def trapRegs (h : Hart) (t : Trap) : TrapState :=
  { h.trap with
    tepc := tepcOf (if t.cause = causeUserTrap then h.pc + 4 else h.pc)
    tcause := (0x8000000000000000#64 ||| t.cause.setWidth 64)
    tval := t.tval
    tpos := trapTpos h.trap.tpos t.pos
    twin := trapTwin h.trap.twin t.pos }

/-- The hart with the trap registers and VSTART of a delivery. -/
def withTrap (h : Hart) (t : Trap) : Hart :=
  { h with trap := trapRegs h t, vec := { h.vec with vstart := trapVstart h.vec.vstart t.pos }, remote := none, pins := none }

/-- The program of a dispatch hart ends by a trap (R310): MBSTAT and MBERR, and the queue's vector. -/
def endProgram (s : State) (cause : BitVec 8) (tval : Word) : State :=
  let q := s.hart.who.queue
  let r := queueAt s q
  sendMsix (setQueue s q { r with cause := cause, mberr := tval, err := true }) (qFunc r) (q % 64)

/-- A supervisor-class cause halts its hart (R339): the event record carries the trap record, and the launch aborts; in a
dispatch hart the program ends. What is under way behind the instruction is squashed, and its pins go (R335). `lane`, `tepc` and
`tpos` are the record's. -/
def haltHart (s : State) (cause : BitVec 8) (lane : Nat) (tval tepc tpos : Word) : State :=
  let s1 := { s with hart := { s.hart with
    status := .halted, stopReq := false, remote := none, pins := none, weak := { s.hart.weak with late := [] } } }
  if s.hart.who.dispatch then endProgram s1 cause tval
  else
    let w := s.hart.who
    let s2 := writeEvent s1 w.fn (eventBytes 1 cause lane w.serial tval tepc (hartIdWord w) tpos s.time (wBits w.ctxown 0 10))
    settleHart (abortLaunch s2 w.serial cause)

/-- TAKING AN EXCEPTION (R137, R138): to the handler at UTVEC, or to the supervisor. -/
def takeTrap (s : State) (t : Trap) : State :=
  let h := s.hart
  let en := h.trap.utvec.getLsbD 0
  let inh := h.trap.tcause.getLsbD 63
  if handlerClass t.cause && en && !inh then
    { s with hart := { withTrap h t with pc := h.trap.utvec &&& 0x00FFFFFFFFFFFFFC#64, status := .running } }
  else if handlerClass t.cause && en then
    let tval := t.cause.setWidth 64
    haltHart { s with hart := { h with trap := { h.trap with tval := tval } } } causeDoubleTrap 0xFFFF tval (tepcOf h.pc)
      (trapTpos h.trap.tpos t.pos)
  else
    let g := withTrap h t
    haltHart { s with hart := g } t.cause t.lane t.tval g.trap.tepc g.trap.tpos

/-- A trap that names no window. -/
def plainTrap (cause : BitVec 8) (tval : Word) : Trap := { cause := cause, tval := tval, pos := .plain }

/-- An instruction that traps with its own word in TVAL. -/
def trapWord (s : State) (i : Instr) (cause : BitVec 8) : Out :=
  .next (takeTrap s (plainTrap cause ((wordOf i).setWidth 64)))

/-- RETURN FROM AN EXCEPTION (R128): PC := TEPC and TCAUSE.INH := 0. -/
def returnFromTrap (s : State) : State :=
  complete { s with hart := { s.hart with trap := { s.hart.trap with tcause := s.hart.trap.tcause &&& 0x7FFFFFFFFFFFFFFF#64 } } }
    s.hart.trap.tepc

/-- What becomes of a scalar access: the state it gives, a trap at its address, a wait, or a stop. -/
def scalarOut (s : State) (r : MRes State) : Out :=
  match r with
  | .ok t => .next t
  | .trap c a => .next (takeTrap s (plainTrap c (BitVec.ofNat 64 a)))
  | .wait w => .next (waitOn s w)

/-! ## Fetch -/

/-- The word at the hart's pc: one fetched ahead where the model holds one (R276), else memory (R338). -/
def fetchWord (s : State) : MRes (BitVec 32) :=
  match s.hart.icache.find? (fun e => e.1 == s.hart.pc.toNat) with
  | some e => .ok e.2
  | none =>
    (locate s (s.hart.path s) s.hart.pc.toNat .fetch).bind fun l =>
      if locPoisoned s l then .trap causeDataUe s.hart.pc.toNat else .ok (BitVec.ofNat 32 (natOfBytes (locBytes s l 4)))

/-! ## Free values -/

/-- The next free value (log 13), and the state that has used it. -/
def freeWord (s : State) : State × Word := ({ s with freeIdx := s.freeIdx + 1 }, Config.freeWord s.freeIdx)

end Sys2Proof.Machine
end

