-- ==== Sys2Proof/Machine/ScalarMem.lean ====
section
/-!
DEFINITION. Scalar loads and stores (R112 to R114), the constant path (R115), and what holds an access back: a FENCEX
whose earlier accesses are outstanding (R255).
-/
namespace Sys2Proof.Machine

open Sys2Proof

/-- The numbers of the hart's commands, fetches and bank adds that are under way, and of the accesses of its streams that have not
performed. -/
def outstanding (h : Hart) : List Nat :=
  h.eng.cmds.map (·.id) ++ h.eng.adds.map (·.id) ++ h.mat.fetches.map (·.id) ++ h.weak.late.map (·.id)

/-- A FENCEX holds back accesses of class `cls` (R255). -/
def fenced (s : State) (cls : Nat) : Bool :=
  s.hart.eng.fences.any fun f => f.after.getLsbD cls && f.before.any (outstanding s.hart).contains

/-- Path class numbers (R99). -/
def clsS : Nat := 0
def clsV : Nat := 1
def clsCPY : Nat := 2
def clsMAT : Nat := 3
def clsRED : Nat := 4
def clsCOL : Nat := 5
def clsGRD : Nat := 6
def clsENC : Nat := 7

/-- A scalar-stream access: it waits while a fence holds it back; else it comes to what `r` says. -/
def scalarAccess (s : State) (r : MRes State) : Out :=
  if fenced s clsS then .next (waitOn s .stall) else scalarOut s r

/-- The access address of R113. -/
def scalarAddr (s : State) (a : BitVec 5) (im : BitVec 11) (size : Nat) : Nat :=
  (rx s a + im.signExtend 64 * BitVec.ofNat 64 size).toNat

/-- A load of the scalar stream of `n` bytes at an address: the state after it, and its value. Its stream's earlier stores have
performed. While the stream has a view that serves, an access of ordinary memory is made there (R267); any other is made now, and
ends the view. -/
def loadScalar (s : State) (va n : Nat) : MRes (State × Nat) :=
  let t := drain s false
  let u := dropScalar t
  let now : MRes (State × Nat) := (loadNat u (u.hart.path u) va n .fifoOnly).bind fun v => .ok (u, v)
  match t.hart.weak.viewS with
  | none => now
  | some v =>
    let w := v.reads (spanKeys t (t.hart.path t) [(va, n)])
    let r := viewed t (t.hart.path t) v
    match viewFresh t w, loadNat r.1 r.2 va n .fifoOnly with
    | true, .ok x => .ok ({ t with hart := { t.hart with weak := { t.hart.weak with viewS := some w } } }, x)
    | _, _ => now

/-- A scalar load of `n` bytes, extended by `ext`. -/
def scalarLoad (s : State) (d a : BitVec 5) (im : BitVec 11) (n : Nat) (ext : Nat → Word) : Out :=
  scalarAccess s ((loadScalar s (scalarAddr s a im n) n).bind fun r => .ok (advance (wx r.1 d (ext r.2))))

/-- A scalar store of the `n` low bytes of X[d]. -/
def scalarStore (s0 : State) (d a : BitVec 5) (im : BitVec 11) (n : Nat) : Out :=
  let s := dropScalar s0
  scalarAccess s ((storeNat s (s.hart.path s) (scalarAddr s a im n) n (rx s d).toNat .fifoOnly).bind fun t => .ok (advance t))

/-- Sign extension of an `n`-bit value to 64 bits (R102). -/
def sextWord (n v : Nat) : Word := BitVec.ofInt 64 (sextNat n v)

/-- LDB (R112). -/
def execLdb (d a : BitVec 5) (im : BitVec 11) (s : State) : Out := scalarLoad s d a im 1 (sextWord 8)

/-- LDH (R112). -/
def execLdh (d a : BitVec 5) (im : BitVec 11) (s : State) : Out := scalarLoad s d a im 2 (sextWord 16)

/-- LDW (R112). -/
def execLdw (d a : BitVec 5) (im : BitVec 11) (s : State) : Out := scalarLoad s d a im 4 (sextWord 32)

/-- LDBN (R112). -/
def execLdbn (d a : BitVec 5) (im : BitVec 11) (s : State) : Out := scalarLoad s d a im 1 (BitVec.ofNat 64)

/-- LDHN (R112). -/
def execLdhn (d a : BitVec 5) (im : BitVec 11) (s : State) : Out := scalarLoad s d a im 2 (BitVec.ofNat 64)

/-- LDWN (R112). -/
def execLdwn (d a : BitVec 5) (im : BitVec 11) (s : State) : Out := scalarLoad s d a im 4 (BitVec.ofNat 64)

/-- STB (R112). -/
def execStb (d a : BitVec 5) (im : BitVec 11) (s : State) : Out := scalarStore s d a im 1

/-- STH (R112). -/
def execSth (d a : BitVec 5) (im : BitVec 11) (s : State) : Out := scalarStore s d a im 2

/-- STW (R112). -/
def execStw (d a : BitVec 5) (im : BitVec 11) (s : State) : Out := scalarStore s d a im 4

/-- The entries a FIFO bank holds at most (R204). -/
def fifoCapacity : Nat := 32768

/-- Popping `n` entries of a FIFO bank, all or none: the hart waits while the queue lacks them (R204). -/
def fifoPop (s : State) (key n : Nat) : MRes (State × List Word) :=
  let b := bankAt s key
  if b.fifo.length < n then .wait (.fifo key)
  else .ok (setBank s key { b with fifo := b.fifo.drop n }, b.fifo.take n)

/-- Pushing entries to a FIFO bank, all or none (R204). -/
def fifoPush (s : State) (key : Nat) (ws : List Word) : MRes State :=
  let b := bankAt s key
  if fifoCapacity < b.fifo.length + ws.length then .wait (.fifo key)
  else .ok (setBank s key { b with fifo := b.fifo ++ ws })

/-- LDD (R112); at a FIFO port it pops one entry (R204). -/
def execLdd (d a : BitVec 5) (im : BitVec 11) (s : State) : Out :=
  let t := syncScalar s
  match placeOf t (t.hart.path t) (scalarAddr s a im 8) 8 .load { dev := false, fifo := false } with
  | .ok (.fifo key) =>
    scalarAccess t ((fifoPop t key 1).bind fun p => .ok (advance (wx p.1 d (p.2.headD 0))))
  | _ => scalarLoad s d a im 8 (BitVec.ofNat 64)

/-- STD (R112); at a FIFO port it pushes one entry (R204). -/
def execStd (d a : BitVec 5) (im : BitVec 11) (s0 : State) : Out :=
  let s := dropScalar s0
  let va := scalarAddr s a im 8
  scalarAccess s ((placeOf s (s.hart.path s) va 8 .store { dev := false, fifo := false }).bind fun l =>
    match l with
    | .fifo key => (fifoPush (drain s false) key [rx s d]).bind fun t => .ok (advance t)
    | _ => (storeAt s (s.hart.path s) l va (bytesOfNat 8 (rawValue s (identSpace s s.hart.who).asid va 8 (rx s d).toNat))).bind fun t => .ok (advance t))

/-- LDC (R115): the value of the constant path's entry where it holds one (filled at some moment since t0), else of
memory now. A device page faults with LOAD_PAGE before anything of its frame is asked. In the quad-local window it reads the
bank: its path is taken to be the scalar stream's of R202, although R263 does not list it there (log 130). -/
def execLdc (d a : BitVec 5) (im : BitVec 11) (s : State) : Out :=
  let va := scalarAddr s a im 8
  scalarAccess s ((loadNat s (s.hart.path s) va 8 .devFifo).bind fun v =>
    match s.hart.ccache.find? (fun e => e.1 == va) with
    | some e => .ok (advance (wx s d e.2))
    | none => .ok (advance (wx s d (BitVec.ofNat 64 v))))

end Sys2Proof.Machine
end

