-- ==== Sys2Proof/Machine/Tensor.lean ====
section
/-!
DEFINITION. Tensors: the checks of a handle (R208, R258), the address of a point (R207), sheets and
redirection (R241, R242), pages with embedded scales (R81) and compressed pages (R331), reading and writing one point,
block scales (R80) and the conversion of R188.
-/
namespace Sys2Proof.Machine

open Sys2Proof

/-- What R208 asks of a tag, whatever the pitch: a defined one, whole tiles for LT32 and LT128X, and bytes for LT128X. The
pitch of the old layout is not in the descriptor (R206), so OTAG is held to no more. -/
def tagOk (tag e e0 e1 : Nat) : Bool :=
  decide (tag ≤ 1) || (decide (tag ≤ 3) && e0 % tileSize tag == 0 && e1 % tileSize tag == 0 && (tag == 2 || decide (8 ≤ e)))

/-- The check of R208 for TENSOR, DELTA and SCALE. -/
def tensorOk (h : Handle) : Bool :=
  (h.kind == kindTensor || h.kind == kindDelta || h.kind == kindScale) && decide (h.tag ≤ 3) && decide (h.esz ≤ 4)
  && natBits (h.word 3) 37 27 == 0 && natBits (h.word 6) 61 3 == 0 && natBits (h.word 7) 56 8 == 0
  && [0, 1, 2, 3].all (fun d => h.ext d != 0)
  && h.base % 64 == 0 && h.str2 % 64 == 0 && h.str3 % 64 == 0
  && layoutOk h.tag h.ld h.ebits (h.ext 0) (h.ext 1)
  && !(h.kind == kindScale && (h.blk == 0 || h.esz != 1))
  && !(h.rlv && (h.smap % 64 != 0 || h.pbase % 64 != 0 || !tagOk h.otag h.ebits (h.ext 0) (h.ext 1)))

/-- The fields of a GRID handle (R258). -/
def Handle.gbase (h : Handle) : Nat := natBits (h.word 1) 0 56
def Handle.lvt (h : Handle) : Nat := natBits (h.word 2) 0 56
def Handle.gridPt (h : Handle) : Nat := natBits (h.word 3) 10 2
def Handle.gridF (h : Handle) : Nat := 2 ^ natBits (h.word 3) 8 2
def Handle.gridL (h : Handle) : Nat := natBits (h.word 3) 4 4 + 1
def Handle.gridD (h : Handle) : Nat := natBits (h.word 3) 0 4 + 1

/-- The check of R258 on the descriptor of a GRID. -/
def gridOk (h : Handle) : Bool :=
  h.tag == 0 && h.base % 64 == 0 && natBits (h.word 1) 56 8 == 0 && h.gbase % 64 == 0 && natBits (h.word 2) 56 8 == 0
  && h.lvt % 64 == 0 && natBits (h.word 3) 12 52 == 0 && h.gridPt != 3 && decide (h.gridD ≤ 8)
  && [4, 5, 6, 7].all fun n => h.word n == 0

/-- A level entry of R258. -/
def levelOk (e : Word) : Bool := wBits e 37 27 == 0 && wBits e 0 32 != 0 && decide (10 ≤ wBits e 32 5) && decide (wBits e 32 5 ≤ 24)

/-- A point of a tensor. -/
structure Point where
  d0 : Int
  d1 : Int
  d2 : Int
  d3 : Int
deriving DecidableEq, Repr

/-- The point lies inside the extents. -/
def Handle.inside (h : Handle) (p : Point) : Bool :=
  decide (0 ≤ p.d0) && decide (p.d0 < h.ext 0) && decide (0 ≤ p.d1) && decide (p.d1 < h.ext 1)
  && decide (0 ≤ p.d2) && decide (p.d2 < h.ext 2) && decide (0 ≤ p.d3) && decide (p.d3 < h.ext 3)

/-- addr(h, p) of R207 in bits, under a layout. -/
def pointBits (h : Handle) (l : Layout) (p : Point) : Nat :=
  8 * (l.base + p.d2.toNat * h.str2 + p.d3.toNat * h.str3) + planeBits l h.ebits p.d0.toNat p.d1.toNat

/-! ## Sheets and redirection (R241, R242) -/

/-- The sheet that holds a point under the new layout. -/
def sheetOf (h : Handle) (p : Point) : Nat :=
  sheetsPerPlane h h.newLayout * (p.d2.toNat + h.ext 2 * p.d3.toNat)
    + planeBits h.newLayout h.ebits p.d0.toNat p.d1.toNat / 8 / 16384

/-- The conversion that a handle names: the one of this address space with its sheet map. -/
def relayFor (s : State) (asid : Nat) (h : Handle) : Option Relay :=
  s.relays.find? fun r => r.asid == asid && r.h.smap == h.smap && r.h.pbase == h.pbase

/-- The layout through which an access to a point goes when it performs (R242). Where the engine holds no conversion of
the handle, the map in memory says the state (log 32). -/
def redirect (s : State) (p : Path) (h : Handle) (pt : Point) : MRes Layout :=
  if !h.rlv then .ok h.layout
  else
    let old (ld : Nat) : Layout := { tag := h.otag, base := h.base, ld := ld }
    let pick (state ld : Nat) : MRes Layout :=
      match state with
      | 0 => .ok (old ld)
      | 1 => .wait .stall
      | _ => .ok h.newLayout
    match relayFor s p.sp.asid h with
    | some r => pick (r.sheets.getD (sheetOf h pt) 2) r.oldLd
    | none =>
      (loadNat s p h.smap 8 .fifoOnly).bind fun ld =>
        (loadNat s p (h.smap + 64 + sheetOf h pt / 4) 1 .fifoOnly).bind fun b =>
          pick (natBits b (2 * (sheetOf h pt % 4)) 2) ld

/-! ## Pages (R81, R331) -/

/-- Scale bytes of a run, its stride, and the data bytes of a page, for stored elements of `fw` bits in blocks of `b`. -/
def runScales (fw b : Nat) : Nat := 8192 / fw / b
def runStride (fw b : Nat) : Nat := 1024 + runScales fw b
def pageData (fw b lg : Nat) : Nat := 2 ^ lg / runStride fw b * 1024

/-- The lines a CMP page's bitmap marks below line `j`. -/
def linesBelow (s : State) (frame : Nat) : Nat → Nat
  | 0 => 0
  | j + 1 => linesBelow s frame j + (if (readPa s (frame + j / 8)).getLsbD (j % 8) then 1 else 0)

/-- Where the stored lines of a CMP page begin. -/
def cmpBody (lg : Nat) : Nat := ceilDiv (2 ^ lg / 512) 64 * 64

/-- A line of the page's bitmap bears a poison mark: every decoding read of the page reads all of the bitmap (R344). -/
def bitmapPoisoned (s : State) (lg frame : Nat) : Bool :=
  s.poison.any fun l => decide (frame / 64 ≤ l) && decide (l < (frame + cmpBody lg) / 64)

/-- Bytes of a page's logical image (R331). `va` is the address that faults name. -/
def imageBytes (s : State) (leaf : Word) (lg frame off n va : Nat) : MRes (List Byte) :=
  if !leafCmp leaf then
    if s.poison.contains ((frame + off) / 64) then .trap causeDataUe va else .ok (cellsAt s.mem (frame + off) n)
  else
    let j := off / 64
    if bitmapPoisoned s lg frame then .trap causeDataUe va
    else if 2 ^ lg < cmpBody lg + 64 * linesBelow s frame (2 ^ lg / 64) then .trap causeFormatMismatch va
    else if !(readPa s (frame + j / 8)).getLsbD (j % 8) then .ok (List.replicate n 0)
    else
      let a := frame + cmpBody lg + 64 * linesBelow s frame j + off % 64
      if s.poison.contains (a / 64) then .trap causeDataUe va else .ok (cellsAt s.mem a n)

/-! ## One point -/

/-- Where an element lies: its byte address, the nibble in the byte, its place, its page's format and block size, and the
page offset of its embedded scale byte, where there is one. -/
structure ElemAt where
  va     : Nat
  nib    : Nat
  loc    : Loc
  stored : Option Ty
  scale  : Option Nat
deriving DecidableEq, Repr

/-- The leaf of an address, if it has one with embedded scales. -/
def scaledLeaf (s : State) (p : Path) (va : Nat) : Option (Word × Nat) :=
  if 2 ^ 56 ≤ va || 0xFE ≤ va / 2 ^ 48 then none
  else match lookup s p.sp va with
    | .leaf w lg => if leafBg w = 0 then none else some (w, lg)
    | _ => none

/-- Bytes of an element of `e` bits. -/
def elemBytes (e : Nat) : Nat := if e = 4 then 1 else e / 8

/-- The byte address of a point under a layout: with embedded scales, in the runs of R81. -/
def pointVa (s : State) (p : Path) (h : Handle) (l : Layout) (pt : Point) : Nat :=
  let a := pointBits h l pt / 8
  match (scaledLeaf s p l.base).or (scaledLeaf s p a) with
  | none => a
  | some (w, lg) =>
    let fw := match leafTy w with | some t => t.width | none => 8
    let d := a - l.base
    let c := pageData fw (leafBlock w) lg
    l.base + d / c * 2 ^ lg + d % c / 1024 * runStride fw (leafBlock w) + d % 1024

/-- The place of a point under a layout: with embedded scales, in the runs of R81 (the page at the storage's base says
whether there are any, log 33). -/
def findPoint (s : State) (p : Path) (h : Handle) (l : Layout) (pt : Point) (k : AccKind) : MRes ElemAt :=
  let bit := pointBits h l pt
  let a := bit / 8
  let nib := bit % 8 / 4
  match (scaledLeaf s p l.base).or (scaledLeaf s p a) with
  | none =>
    (placeOf s p a (elemBytes h.ebits) k .fifoOnly).bind fun loc =>
      .ok { va := a, nib := nib, loc := loc
            stored := match loc with | .pa _ w _ => leafTy w | _ => none
            scale := none }
  | some (w, lg) =>
    if l.base % 2 ^ lg ≠ 0 then .trap causeFormatMismatch a
    else
      let fw := match leafTy w with | some t => t.width | none => 8
      let b := leafBlock w
      let d := a - l.base
      let c := pageData fw b lg
      let run := d % c / 1024 * runStride fw b
      let va := pointVa s p h l pt
      (placeOf s p va (elemBytes h.ebits) k .fifoOnly).bind fun loc =>
        .ok { va := va, nib := nib, loc := loc, stored := leafTy w
              scale := some (run + 1024 + (d % 1024 * 8 / fw + nib) / b) }

/-- The bits of an element at its place, from the page's logical image. -/
def elemValue (s : State) (e : Nat) (x : ElemAt) : MRes Nat :=
  let take (bs : List Byte) : MRes Nat :=
    let v := natOfBytes bs
    .ok (if e = 4 then (if x.nib = 0 then v % 16 else v / 16) else v)
  match x.loc with
  | .pa a w lg => (imageBytes s w lg (a - a % 2 ^ lg) (a % 2 ^ lg) (elemBytes e) x.va).bind take
  | l => take (locBytes s l (elemBytes e))

/-- The embedded scale byte of an element (R81). -/
def elemScale (s : State) (x : ElemAt) : MRes (Option Nat) :=
  match x.scale, x.loc with
  | some off, .pa a w lg =>
    (imageBytes s w lg (a - a % 2 ^ lg) off 1 x.va).bind fun bs => .ok (some (natOfBytes bs))
  | _, _ => .ok none

/-- What a point holds: its stored format, its bits, its embedded scale, and its address. -/
structure PointVal where
  stored : Ty
  bits   : Nat
  scale  : Option Nat
  va     : Nat
deriving DecidableEq, Repr

/-- The bits of an element that a handle reaches: a handle without redirection reaches storage under conversion as raw
addresses (R243). -/
def handleValue (s : State) (p : Path) (h : Handle) (x : ElemAt) : MRes Nat :=
  (elemValue s h.ebits x).bind fun v =>
    .ok (if h.rlv then v else rawValue s p.sp.asid x.va (elemBytes h.ebits) v % 2 ^ h.ebits)

/-- Reading a point inside the extents (R81, R188, R208, R242). A page with no format holds elements of `dflt`. -/
def readPoint (s : State) (p : Path) (h : Handle) (pt : Point) (dflt : Ty) : MRes PointVal :=
  (redirect s p h pt).bind fun l =>
    (findPoint s p h l pt .load).bind fun x =>
      let ty := x.stored.getD dflt
      if ty.width ≠ h.ebits then .trap causeFormatMismatch x.va
      else (handleValue s p h x).bind fun v =>
        (elemScale s x).bind fun sc => .ok { stored := ty, bits := v, scale := sc, va := x.va }

/-- Storing `e` bits at a byte address; for 4 bits into one nibble of its byte (R264). The place is found in `s`, whose
pages the instruction has pinned (R212); the store is made in `u`. -/
def storeBits (s u : State) (p : Path) (va nib e v : Nat) : MRes State :=
  (placeOf s p va (elemBytes e) .store .fifoOnly).bind fun l =>
    if e = 4 then storeNibble u p l va nib v
    else storeAt u p l va (bytesOfNat (e / 8) v)

/-- A raw store of an element (R243). -/
def storeElem (s u : State) (p : Path) (va nib e v : Nat) : MRes State :=
  storeBits s u p va nib e (rawValue u p.sp.asid va (elemBytes e) v)

/-- A raw load of `e` bits at a byte address. -/
def loadElem (s u : State) (p : Path) (va nib e : Nat) : MRes Nat :=
  (placeOf s p va (elemBytes e) .load .fifoOnly).bind fun l =>
    if locPoisoned u l then .trap causeDataUe va
    else
      let b := rawValue u p.sp.asid va (elemBytes e) (natOfBytes (locBytes u l (elemBytes e)))
      .ok (if e = 4 then (if nib = 0 then b % 16 else b / 16) else b)

/-- The address and the bytes that STT stores to for a point; none outside the extents. -/
def tileSpan (s : State) (p : Path) (h : Handle) (pt : Point) : Nat × Nat :=
  if !h.inside pt then (0, 0)
  else match redirect s p h pt with
    | .ok l => (pointVa s p h l pt, elemBytes h.ebits)
    | _ => (0, 0)

/-- Storing a point inside the extents, for STT (R213, R208, R242). A page with embedded scales has its points in the runs of
R81, and refuses the store. -/
def writePoint (s u : State) (p : Path) (h : Handle) (pt : Point) (ty : Ty) (v : Nat) : MRes State :=
  (redirect s p h pt).bind fun l =>
    let bit := pointBits h l pt
    let a := pointVa s p h l pt
    (placeOf s p a (elemBytes h.ebits) .store .fifoOnly).bind fun loc =>
      let bad := match loc with
        | .pa _ w _ => leafBg w != 0 || leafCmp w || (leafFmt w != 0 && leafTy w != some ty)
        | _ => false
      if bad || h.ebits ≠ ty.width then .trap causeFormatMismatch a
      else if h.rlv then storeBits s u p a (bit % 8 / 4) h.ebits v
      else storeElem s u p a (bit % 8 / 4) h.ebits v

/-! ## Scales and conversion (R80, R188) -/

/-- A number times the scale an E8 byte stands for (R80). -/
def scaleNum (x : Num) (e8 : Nat) : Num :=
  if e8 = 255 then .nan false
  else match x with
    | .fin n m e => .fin n m (e + (e8 : Int) - 127)
    | y => y

/-- The exact value of stored bits, after any input flush. -/
def storedNum (p : Policy) (ty : Ty) (v : Nat) : Num :=
  match ty with
  | .int sg w => numOfInt (intOf sg w v)
  | .flt f => f.decodeIn p v

/-- A signalling NaN among stored bits raises NV (R73). -/
def storedFlag (ty : Ty) (v : Nat) : Flags :=
  match ty with
  | .int _ _ => 0
  | .flt f => (f.decode v).sigFlag

/-- conv(T, x) of R188 for an exact value. -/
def convNum (p : Policy) (ty : Ty) (x : Num) : Nat × Flags :=
  match ty with
  | .int sg w => floatToInt sg w p.rm x
  | .flt f => rnd f p x

/-- The element that LDT and the streamer make of a point (R213): the bits where the stored format is the type, else the
conversion, with the page's scale. An integer with a scale becomes an integer by the rule for a float (log 131). -/
def convPoint (p : Policy) (ty : Ty) (x : PointVal) : Nat × Flags :=
  if x.stored = ty then (x.bits, 0)
  else match x.scale with
    | none => convert p ty x.stored x.bits
    | some e8 =>
      let r := convNum p ty (scaleNum (storedNum p x.stored x.bits) e8)
      (r.1, r.2 ||| storedFlag x.stored x.bits)

/-- The coordinates in two registers: c1:c0 and c3:c2 (R188). -/
def coords (a b : Word) : List Nat := [wBits a 0 32, wBits a 32 32, wBits b 0 32, wBits b 32 32]

/-- The point at an offset from start coordinates. -/
def pointAt (c : List Nat) (i j : Int) : Point :=
  { d0 := (c.getD 0 0 : Int) + i, d1 := (c.getD 1 0 : Int) + j, d2 := (c.getD 2 0 : Int), d3 := (c.getD 3 0 : Int) }

end Sys2Proof.Machine
end

