-- ==== Sys2Proof/Machine/Flags.lean ====
section
/-!
DEFINITION. Mode and flag fields: the arithmetic policy a mode register holds (R70 to R72, R93, R119), VILL (R94), the
trap enables and the cause an enabled flag raises (R77).
-/
namespace Sys2Proof

/-- RM, SAT and FLUSH of VMODE or FCSR, which hold them in the same bits (R93, R119). -/
def policyOf (w : Word) : Policy :=
  { rm := (fld w 8 3).toNat, sat := w.getLsbD 11, flushIn := w.getLsbD 12, flushOut := w.getLsbD 13 }

/-- The element type of VMODE (R68). -/
def modeTy (w : Word) : Option Ty := tyOfCode (fld w 0 8)

/-- VMODE with its low 25 bits written: VILL is computed, everything else reads 0 (R94). -/
def makeVmode (block : BitVec 25) : Word :=
  let rm := (fld block 8 3).toNat
  let gk := (fld block 19 2).toNat
  let gi := (fld block 21 4).toNat
  let ill := !typeCodeOk (fld block 0 8) || decide (5 ≤ rm) || ((gk == 1 || gk == 2) && decide (12 ≤ gi))
  (if ill then 0x8000000000000000#64 else 0#64) ||| block.setWidth 64

/-- VILL. -/
def modeIll (w : Word) : Bool := w.getLsbD 63

/-- The trap enables at the places of VFLAGS (R93, R77). -/
def modeTe (w : Word) : Flags := (fld w 14 5).setWidth 9

/-- The cause of the first enabled flag in the order NV, DZ, OF, UF, NX (R77); `idiv` for integer division. -/
def trapCause (fl te : Flags) (idiv : Bool) : Option (BitVec 8) :=
  let e := fl &&& te
  if e.getLsbD 0 then some causeFpInvalid
  else if e.getLsbD 1 then some (if idiv then causeIntDivzero else causeFpDivzero)
  else if e.getLsbD 2 then some causeFpOverflow
  else if e.getLsbD 3 then some causeFpUnderflow
  else if e.getLsbD 4 then some causeFpInexact
  else none

end Sys2Proof
end

