-- ==== Sys2Proof/Machine/Operands.lean ====
section
/-!
DEFINITION. Window operands: the descriptor's fields (R35), the cells a window covers and their order (R37 to R39, R45),
the galley's cells (R33), the guard (R41, R97), the checks at dispatch in their order (R42, R43, R59, R69), the overlap
test (R52), slots (R178), what makes an instruction wait for the matrix path (R60, R183), and bound windows (R222).
-/
namespace Sys2Proof.Machine

open Sys2Proof

/-! ## Descriptors (R35) -/

def wKind (d : Word) : Nat := wBits d 0 3
def wEw (d : Word) : Nat := 4 * 2 ^ wBits d 3 3
def wRow0 (d : Word) : Nat := wBits d 6 9
def wCol0 (d : Word) : Nat := wBits d 15 10
def wRm1 (d : Word) : Nat := wBits d 25 9
def wNm1 (d : Word) : Nat := wBits d 34 10
def wRot (d : Word) : Bool := d.getLsbD 44
def wClen (d : Word) : Nat := wBits d 45 11
def wVer (d : Word) : Nat := wBits d 56 8

/-- The kinds of R35. -/
def kindRect : Nat := 1
def kindRow : Nat := 2
def kindCol : Nat := 3
def kindDiag : Nat := 4
def kindAdiag : Nat := 5
def kindSpair : Nat := 6

/-- RCUR, RLO and RHI as an instruction captures them (R44, R47). -/
structure Ring where
  cur : Nat
  lo  : Nat
  hi  : Nat
deriving DecidableEq, Repr

def ringOf (s : State) : Ring := { cur := s.hart.vec.rcur, lo := s.hart.vec.rlo, hi := s.hart.vec.rhi }

/-- A window operand as captured (R47): number, role (0 wd, 1 wa, 2 wb), descriptor, VL and the rotation registers. -/
structure WinOp where
  num  : Nat
  role : Nat
  desc : Word
  vl   : Nat
  ring : Ring
deriving DecidableEq, Repr

/-- The operand that a window field names. -/
def winOp (s : State) (r : BitVec 6) (role : Nat) : WinOp :=
  { num := r.toNat, role := role, desc := rw s r, vl := s.hart.vec.vl, ring := ringOf s }

/-- The same window with its whole extent, whatever VL is (R190). -/
def WinOp.whole (w : WinOp) : WinOp := { w with vl := 65536 }

/-! ## Cells -/

/-- Rows of a RECT; 1 for every other kind (R37). -/
def outerOf (d : Word) : Nat := if wKind d = kindRect then wRm1 d + 1 else 1

/-- The inner extent n of R37. -/
def innerOf (d : Word) : Nat :=
  let k := wKind d
  if k = kindRect || k = kindRow then wNm1 d + 1
  else if k = kindCol || k = kindDiag || k = kindAdiag then wRm1 d + 1
  else if k = kindSpair then wClen d
  else 0

/-- neff(w) and count(w) of R102 (R38). -/
def neff (w : WinOp) : Nat := min (innerOf w.desc) w.vl
def count (w : WinOp) : Nat := outerOf w.desc * neff w

/-- The cell of element (o, i) before rotation, as row and column (R37). For an SPAIR, o is 0 for the coordinate and 1
for the value. -/
def baseCell (d : Word) (o i : Nat) : Nat × Nat :=
  let k := wKind d
  if k = kindRect || k = kindSpair then (wRow0 d + o, wCol0 d + i)
  else if k = kindRow then (wRow0 d, wCol0 d + i)
  else if k = kindCol then (wRow0 d + i, wCol0 d)
  else if k = kindDiag then (wRow0 d + i, wCol0 d + i)
  else (wRow0 d + i, wCol0 d - i)

/-- A row after rotation (R45). -/
def rotRow (g : Ring) (d : Word) (q : Nat) : Nat :=
  if wRot d then g.lo + (q - g.lo + g.cur) % (g.hi - g.lo) else q

/-- cell(w, o, i) of R37. -/
def cell (w : WinOp) (o i : Nat) : Nat × Nat :=
  let (q, c) := baseCell w.desc o i
  (rotRow w.ring w.desc q, c)

/-- elem(w, k) of R102: the cell of linear element k. -/
def elemCell (w : WinOp) (k : Nat) : Nat × Nat := cell w (k / neff w) (k % neff w)

/-- A value in the galley: `ew` bits at a row and column (R33). -/
def galGet (g : List Host.Cell) (ew : Nat) (p : Nat × Nat) : Nat :=
  if ew = 4 then
    let b := (tabGet 0#8 g (p.1 * 512 + p.2 / 2)).toNat
    if p.2 % 2 = 0 then b % 16 else b / 16
  else natOfBytes (cellsAt g (p.1 * 512 + p.2 * (ew / 8)) (ew / 8))

/-- Writing it. -/
def galPut (g : List Host.Cell) (ew : Nat) (p : Nat × Nat) (v : Nat) : List Host.Cell :=
  if ew = 4 then
    let a := p.1 * 512 + p.2 / 2
    let b := (tabGet 0#8 g a).toNat
    tabSet 0#8 g a (BitVec.ofNat 8 (if p.2 % 2 = 0 then b / 16 * 16 + v % 16 else v % 16 * 16 + b % 16))
  else cellsPut g (p.1 * 512 + p.2 * (ew / 8)) (bytesOfNat (ew / 8) v)

def readCell (s : State) (d : Word) (p : Nat × Nat) : Nat := galGet s.hart.vec.galley (wEw d) p

def writeCell (s : State) (d : Word) (p : Nat × Nat) (v : Nat) : State :=
  withVec s fun x => { x with galley := galPut x.galley (wEw d) p v }

/-- Element k of a window, and writing it. -/
def readElem (s : State) (w : WinOp) (k : Nat) : Nat := readCell s w.desc (elemCell w k)
def writeElem (s : State) (w : WinOp) (k v : Nat) : State := writeCell s w.desc (elemCell w k) v

/-! ## Spans and overlap (R52) -/

/-- The nibbles [lo, hi) of a row that a cell covers. -/
structure Span where
  row : Nat
  lo  : Nat
  hi  : Nat
deriving DecidableEq, Repr

def cellSpan (d : Word) (p : Nat × Nat) : Span :=
  { row := p.1, lo := p.2 * (wEw d / 4), hi := (p.2 + 1) * (wEw d / 4) }

/-- The spans of the first `n` elements; of an SPAIR, of the first `n` coordinates and values. -/
def spansOf (w : WinOp) (n : Nat) : List Span :=
  if wKind w.desc = kindSpair then
    (List.range n).map (fun k => cellSpan w.desc (cell w 0 k)) ++ (List.range n).map (fun k => cellSpan w.desc (cell w 1 k))
  else (List.range n).map fun k => cellSpan w.desc (elemCell w k)

def Span.meets (a b : Span) : Bool := a.row == b.row && decide (a.lo < b.hi) && decide (b.lo < a.hi)

/-- Two lists of spans share a cell. -/
def spansMeet (a b : List Span) : Bool := a.any fun x => b.any fun y => x.meets y

/-! ## Slots (R174 to R178) -/

def mvlLen (v : Word) : Nat := wBits v 0 8
def mvlSew (v : Word) : Nat := wBits v 8 2
def mvlTiles (v : Word) : Nat := wBits v 16 5
def mvlSpb (v : Word) : Nat := wBits v 24 8
def mvlSlots (v : Word) : Nat := wBits v 32 11

/-- In matrix mode (R173, R175). -/
def matrixOn (s : State) : Bool := mvlLen s.hart.mat.mvl != 0

/-- The bits of a slot element. -/
def sewBits (sew : Nat) : Nat := 16 / 2 ^ sew

/-- The slot byte width SB. -/
def slotBytes (v : Word) : Nat := mvlLen v * sewBits (mvlSew v) / 8

/-- The span lies wholly in the slot. -/
def inSlot (v : Word) (slot : Nat) (x : Span) : Bool :=
  let r0 := slot / mvlSpb v * mvlLen v
  let b0 := slot % mvlSpb v * slotBytes v * 2
  decide (r0 ≤ x.row) && decide (x.row < r0 + mvlLen v) && decide (b0 ≤ x.lo) && decide (x.hi ≤ b0 + slotBytes v * 2)

/-- The span lies in a claimed slot. No cell lies in two slots or only partly in one, since SB is a multiple of 8. -/
def inClaimed (s : State) (x : Span) : Bool := s.hart.mat.claimed.any fun k => inSlot s.hart.mat.mvl k x

/-! ## The guard -/

/-- A stage guard is on (R97). -/
def stageOn (s : State) : Bool :=
  let v := s.hart.vec
  let st := wBits v.vmode 21 4
  !(v.lc.getLsbD (36 + st)) && decide (st ≤ v.pass) && decide (v.pass - st < wBits v.lc 0 32)

/-- guard_on(i) of R97. -/
def guardOn (s : State) (i : Nat) : Bool :=
  match wBits s.hart.vec.vmode 19 2 with
  | 0 => true
  | 1 => (rm s (wBits s.hart.vec.vmode 21 4)).getLsbD i
  | 2 => !(rm s (wBits s.hart.vec.vmode 21 4)).getLsbD i
  | _ => stageOn s

/-- The guard is a stage guard that is off (R46). -/
def stageOff (s : State) : Bool := wBits s.hart.vec.vmode 19 2 == 3 && !stageOn s

/-- VMODE holds a guard (R204). -/
def hasGuard (s : State) : Bool := wBits s.hart.vec.vmode 19 2 != 0

/-! ## The checks at dispatch -/

/-- The fit check of R42. -/
def fits (grows grb : Nat) (g : Ring) (d : Word) : Bool :=
  let k := wKind d
  let lastRow := wRow0 d + (if k = kindRect || k = kindSpair || k = kindCol || k = kindDiag || k = kindAdiag then wRm1 d else 0)
  let lastCol := wCol0 d + (if k = kindRect || k = kindRow || k = kindSpair then wNm1 d else if k = kindDiag then wRm1 d else 0)
  k != 0 && k != 7 && decide (wBits d 3 3 ≤ 4)
  && !(k == kindRow && wRm1 d != 0)
  && !((k == kindCol || k == kindDiag || k == kindAdiag) && wNm1 d != 0)
  && !(k == kindAdiag && decide (wCol0 d < wRm1 d))
  && (if k = kindSpair then wRm1 d == 1 && decide (wClen d ≤ wNm1 d + 1) && decide (2 ≤ wBits d 3 3) else wClen d == 0)
  && decide (lastRow < grows) && decide ((lastCol + 1) * wEw d ≤ grb * 8)
  && (!wRot d || (decide (g.lo < g.hi) && decide (g.hi ≤ grows) && decide (g.lo ≤ wRow0 d) && decide (lastRow < g.hi)))

/-- The fit check of an operand of this hart. -/
def winFits (s : State) (w : WinOp) : Bool := fits s.hart.who.grows (grbOf s.hart.who.shape) w.ring w.desc

/-- A window operand with what is asked of it: the width (R40), whether its shape is as the instruction wants, the
elements that are read, and the elements that may be written (the instruction's footprints, R49). -/
structure Opd where
  win    : WinOp
  width  : Option Nat
  shape  : Bool
  reads  : Nat
  writes : Nat
  /-- The elements that are read, from one to below another, where they are not the first `reads` (VSLIDE). -/
  range  : Option (Nat × Nat) := none
deriving DecidableEq, Repr

/-- The operand is read at element k. -/
def Opd.readsAt (o : Opd) (k : Nat) : Bool :=
  match o.range with
  | none => decide (k < o.reads)
  | some x => decide (x.1 ≤ k) && decide (k < x.2)

/-- The cells of an operand that are read. -/
def Opd.cells (o : Opd) : List Span :=
  match o.range with
  | none => spansOf o.win o.reads
  | some x => (spansOf o.win x.2).drop x.1

/-- The trap of a check that names a window (R43, R138). -/
def winTrap (i : Instr) (cause : BitVec 8) (w : WinOp) : Trap :=
  { cause := cause, tval := (wordOf i).setWidth 64, pos := .window w.num w.role w.desc }

/-- The first operand, in order, that fails a test. -/
def firstBad (i : Instr) (cause : BitVec 8) (bad : Opd → Bool) : List Opd → Option Trap
  | [] => none
  | o :: t => if bad o then some (winTrap i cause o.win) else firstBad i cause bad t

def badWidth (o : Opd) : Bool :=
  match o.width with
  | some w => wEw o.win.desc != w
  | none => false

/-- The operand's write footprint meets a claimed slot (R59). -/
def badSlot (s : State) (o : Opd) : Bool :=
  !s.hart.mat.claimed.isEmpty && (spansOf o.win o.writes).any (inClaimed s)

/-- The checks of R43 over operands in the order wd, wa, wb. -/
def windowChecks (s : State) (i : Instr) (ops : List Opd) : Option Trap :=
  (firstBad i causeWindowRange (fun o => !winFits s o.win) ops).or <|
  (firstBad i causeWidth badWidth ops).or <|
  (firstBad i causeShape (fun o => !o.shape) ops).or <|
  firstBad i causeSlotOwned (badSlot s) ops

/-- The trap of an instruction that dispatches under a mode it does not accept (R69, R94). -/
def modeTrap (i : Instr) : Trap := plainTrap causeVmodeIll ((wordOf i).setWidth 64)

/-! ## What the matrix path holds back (R60, R183) -/

/-- The operands of a queued matrix instruction that carry read footprints or lie in slots it will read. -/
def entryWin (e : MEntry) (d : Word) : WinOp :=
  { num := 0, role := 1, desc := d, vl := 65536, ring := { cur := e.rcur, lo := e.rlo, hi := e.rhi } }

def allSpans (w : WinOp) : List Span := spansOf w (count w)

/-- The cells that a queued matrix instruction will write. -/
def entryWrites (e : MEntry) : List Span :=
  match e.op with
  | .atow _ _ _ _ => allSpans (entryWin e e.wa)
  | .ared _ _ _ => allSpans (entryWin e e.wa)
  | _ => []

/-- The cells that a queued matrix instruction will read. -/
def entryReads (e : MEntry) : List Span :=
  match e.op with
  | .mrankAdd _ _ _ _ => allSpans (entryWin e e.wa) ++ allSpans (entryWin e e.wb)
  | .mrankSub _ _ _ _ => allSpans (entryWin e e.wa) ++ allSpans (entryWin e e.wb)
  | .mma _ _ _ => allSpans (entryWin e e.wa) ++ allSpans (entryWin e e.wb)
  | .mmasp _ _ _ => allSpans (entryWin e e.wa) ++ allSpans (entryWin e e.wb)
  | .wtoa _ _ _ _ => allSpans (entryWin e e.wa)
  | .amulr _ _ => allSpans (entryWin e e.wa)
  | .aaddr _ _ => allSpans (entryWin e e.wa)
  | _ => []

/-- The destination of an MFETCH that has not delivered all of its rows. -/
def fetchWin (f : Fetch) : WinOp :=
  { num := 0, role := 0, desc := f.win, vl := 65536, ring := { cur := f.rcur, lo := f.rlo, hi := f.rhi } }

/-! ## Accesses under way (R269) -/

/-- An access of the vector stream that may perform after later instructions. -/
def vectorOp (i : Instr) : Bool :=
  match i with
  | .ldt _ _ _ _ => true
  | .ldv _ _ => true
  | .lds _ _ _ => true
  | .gath _ _ _ => true
  | .glink _ _ _ => true
  | .scond _ _ _ => true
  | .vamo _ _ _ _ _ _ => true
  | .vamoOrd _ _ _ _ _ _ => true
  | .wfill _ _ => true
  | _ => false

/-- A window operand as an access under way captured it. -/
def Late.winOp (l : Late) (r : BitVec 6) (role : Nat) : WinOp :=
  { num := r.toNat, role := role, desc := l.vec.w.get r.toFin, vl := l.vec.vl
    ring := { cur := l.vec.rcur, lo := l.vec.rlo, hi := l.vec.rhi } }

/-- The cells of its data window, and of its index window. -/
def Late.data (l : Late) (d : BitVec 6) : List Span := spansOf (l.winOp d 0) (count (l.winOp d 0))
def Late.index (l : Late) (d a : BitVec 6) : List Span := spansOf (l.winOp a 1) (count (l.winOp d 0))

/-- The cells that an access under way writes, but those of WFILL, which memory names. -/
def Late.writes (l : Late) : List Span :=
  match l.op with
  | .ldt _ _ _ w => l.data w
  | .ldv _ w => l.data w
  | .lds _ _ w => l.data w
  | .gath d _ _ => l.data d
  | .glink d _ _ => l.data d
  | .vamo d _ _ _ _ _ => l.data d
  | .vamoOrd d _ _ _ _ _ => l.data d
  | _ => []

/-- The cells that it reads. -/
def Late.reads (l : Late) : List Span :=
  match l.op with
  | .gath d a _ => l.index d a
  | .glink d a _ => l.index d a
  | .scond d a _ => l.data d ++ l.index d a
  | .vamo d a _ _ _ _ => l.data d ++ l.index d a
  | .vamoOrd d a _ _ _ _ => l.data d ++ l.index d a
  | _ => []

/-- The cells that it writes are not known yet. -/
def Late.anywhere (l : Late) : Bool :=
  match l.op with
  | .wfill _ _ => true
  | _ => false

/-- Cells that are read, and cells that are written, must wait for an access under way. -/
def Late.holds (l : Late) (rd wr : List Span) : Bool :=
  (l.anywhere && !(rd ++ wr).isEmpty) || spansMeet (rd ++ wr) l.writes || spansMeet wr l.reads

/-- The operand must wait for the matrix path, and for accesses under way: its reads for their writes, its writes for everything
that touches the cells. -/
def heldBack (s : State) (o : Opd) : Bool :=
  let m := s.hart.mat
  let late := s.hart.weak.late
  if m.mq.isEmpty && m.fetches.isEmpty && late.isEmpty then false
  else
    let rd := spansOf o.win o.reads
    let wr := spansOf o.win o.writes
    m.mq.any (fun e => spansMeet (rd ++ wr) (entryWrites e) || spansMeet wr (entryReads e))
      || m.fetches.any (fun f => spansMeet wr (allSpans (fetchWin f)))
      || late.any fun l => l.holds rd wr

/-! ## Bound windows (R222) -/

/-- The stream a window is bound to. -/
def boundTo (s : State) (win : Nat) : Option Stream := s.hart.eng.streams.find? (·.win == win)

/-- The points of a stream's walk. -/
def Stream.points (t : Stream) : Nat :=
  t.counts.foldl (· * ·) 1

/-- The value a pop reads where the refill has faulted: 0, or the type's NaN. -/
def faultValue (vmode : Word) : Nat :=
  match modeTy vmode with
  | some (.flt f) => f.qnan
  | _ => 0

/-- Point j of what a pop reads: buffered bits, the fault value, or 0 after the end of the walk. -/
def popValue (t : Stream) (j : Nat) : Nat := if t.faulted then faultValue t.vmode else t.buf.getD j 0

/-- The buffer lacks points that the walk still has. -/
def popWaits (t : Stream) (n : Nat) : Bool := !t.faulted && decide (t.buf.length < n) && decide (t.pos < t.points)

/-- The operand is a bound window whose buffer lacks points. -/
def streamWaits (s : State) (o : Opd) : Bool :=
  o.reads != 0 && (match boundTo s o.win.num with
    | some t => popWaits t (count o.win)
    | none => false)

/-- Element k of a source: a popped point of a bound window, else the cell (R222). -/
def srcElem (s : State) (w : WinOp) (k : Nat) : Nat :=
  match boundTo s w.num with
  | some t => popValue t k
  | none => readElem s w k

/-- The pop of a stream by count(w) points. -/
def popStream (s : State) (w : WinOp) : State :=
  withEng s fun g => { g with streams := g.streams.map fun t =>
    if t.win = w.num then { t with buf := t.buf.drop (count w) } else t }

/-- The windows of the operands that are read, each once. -/
def readWins : List Nat → List Opd → List WinOp
  | _, [] => []
  | seen, o :: t =>
    if o.reads = 0 || seen.contains o.win.num then readWins seen t else o.win :: readWins (o.win.num :: seen) t

/-- Every bound window that the instruction reads is popped, once (R222). -/
def popAll (s : State) (ops : List Opd) : State := (readWins [] ops).foldl popStream s

/-! ## Running a vector instruction -/

/-- What the body of a vector instruction comes to: the state it leaves; a trap, with the state that stands at it; a
wait; or a stop inside it, with its progress saved (R21). -/
inductive VRes where
  | ok (s : State)
  | trap (s : State) (t : Trap)
  | wait (w : Wait)
  | stop (s : State)
deriving DecidableEq, Repr

/-- A change of the state that an instruction leaves when it completes. -/
def VRes.map (f : State → State) : VRes → VRes
  | .ok t => .ok (f t)
  | r => r

/-- The element groups of a row of a window (R366). -/
def rowGroups (s : State) (w : WinOp) : Nat :=
  let g := if s.hart.who.degr then grbOf s.hart.who.shape / 2 else grbOf s.hart.who.shape
  ceilDiv (neff w * wEw w.desc) (8 * g)

/-- EGROUPS of an instruction (R366): `w` its destination or data window, `start` its starting VSTART. -/
def egroups (s : State) (w : WinOp) (start : Nat) : Nat :=
  if count w = 0 then 0 else (outerOf w.desc - start / neff w) * rowGroups s w

/-- The end of a vector instruction (R55): VSTART is cleared and its element groups are counted. -/
def vecEnd (s : State) (groups : Nat) : State :=
  advance (evCount 0x0003 groups (withVec s fun v => { v with vstart := 0 }))

/-- An instruction has stopped inside, its progress saved (R21): what it holds of its accesses goes. -/
def stopInside (s : State) : State := { s with hart := { s.hart with remote := none, pins := none } }

/-- The outcome of a vector instruction that started in `s`. -/
def vecOut (s : State) (groups : Nat) : VRes → Out
  | .ok t => .next (vecEnd t groups)
  | .trap t tr => .next (takeTrap t tr)
  | .wait w => .next (waitOn s w)
  | .stop t => .next (stopInside t)

/-- The dispatch checks of a vector instruction: the mode and type, the windows (R43), and `extra`, what the entry checks
after them. -/
def vecChecks (s : State) (i : Instr) (tyOk : Ty → Bool) (ops : Ty → List Opd) (extra : Ty → Option Trap) : Except Trap Ty :=
  if modeIll s.hart.vec.vmode then .error (modeTrap i)
  else match modeTy s.hart.vec.vmode with
    | none => .error (modeTrap i)
    | some ty =>
      if !tyOk ty then .error (modeTrap i)
      else match (windowChecks s i (ops ty)).or (extra ty) with
        | some t => .error t
        | none => .ok ty

/-- What keeps the body of a vector instruction from running: a stage guard that is off, or a wait. -/
def vecHold (s : State) (ops : List Opd) : Option Out :=
  if stageOff s then some (.next (vecEnd s 0))
  else if ops.any (heldBack s) || ops.any (streamWaits s) then some (.next (waitOn s .stall))
  else none

/-- An operand with empty footprints. -/
def Opd.idle (o : Opd) : Opd := { o with reads := 0, writes := 0, range := none }

/-- The operands as the checks at dispatch see them: an instruction whose stage guard is off has empty footprints (R46). -/
def footprints (s : State) (ops : Ty → List Opd) (ty : Ty) : List Opd := if stageOff s then (ops ty).map Opd.idle else ops ty

/-- What a vector instruction does before its body (R157). Answers the element type where the body runs. -/
def vecGateX (s : State) (i : Instr) (tyOk : Ty → Bool) (ops : Ty → List Opd) (extra : Ty → Option Trap) : Except Out Ty :=
  match vecChecks s i tyOk (footprints s ops) extra with
  | .error t => .error (.next (takeTrap s t))
  | .ok ty =>
    match vecHold s (ops ty) with
    | some o => .error o
    | none => .ok ty

/-- The same without further checks. -/
def vecGate (s : State) (i : Instr) (tyOk : Ty → Bool) (ops : Ty → List Opd) : Except Out Ty :=
  vecGateX s i tyOk ops fun _ => none

/-- Outer and inner index of linear element k. Element k of an SPAIR is pair k, also where its new length is not in the
descriptor yet (R37). -/
def elemIndex (w : WinOp) (k : Nat) : Nat × Nat := if wKind w.desc = kindSpair then (0, k) else (k / neff w, k % neff w)

/-- The trap at an element (R53, R54). -/
def elemTrap (cause : BitVec 8) (w : WinOp) (tval : Word) (ovl : Bool) (k : Nat) : Trap :=
  let x := elemIndex w k
  { cause := cause, tval := tval, pos := .element w.num w.role ovl (cell w x.1 x.2).1 x.1 x.2 w.desc k }

/-- The destination covers a cell of a source (R52): destination elements 0 to n - 1 against the sources' read cells. The
cells of a source that is bound to a stream count too, although its elements are popped (log 101). -/
def overlaps (wd : WinOp) (n : Nat) (srcs : List Opd) : Bool :=
  srcs.any fun o => spansMeet (spansOf wd n) o.cells

/-- LANE of an event record (R343): the first physical lane of a lane's group. -/
def groupLane (lane : Nat) : Nat := lane / 4 * 4

/-- The elements of an instruction's operands that it reads, or of whose results it makes some use: by the operand's role and
the element's index. -/
abbrev Uses := (role k : Nat) → Bool

/-- The elements that an element-wise instruction uses: its operands are met at one index, which its data window counts, and
the guard is of that window's inner index (R41). The data window is the first operand. -/
def elemUses (s : State) (ops : List Opd) : Uses := fun _ k =>
  decide (s.hart.vec.vstart ≤ k) && (match ops with
    | [] => false
    | o :: _ => guardOn s (k % neff o.win))

/-- The uncorrectable error of the hart's turn at a cell that the instruction reads, or at the lane of a result, where no loop
of elements has met it (R344): the trap names the element. -/
def lateStrike (s : State) (ops : List Opd) (uses : Uses) : Option Trap :=
  match s.hart.strike with
  | some (.fault k role lane) =>
    (ops.find? fun o => o.win.role == role && (if role = 0 then decide (k < o.writes) else o.readsAt k) && uses role k).map fun o =>
      let ovl := ops.any fun d => d.win.role == 0 && overlaps d.win d.writes ops
      { elemTrap causeDataUe o.win 0 ovl k with lane := groupLane lane }
  | _ => none

/-- What a body comes to, with such an error. -/
def VRes.struck (s : State) (ops : List Opd) (uses : Uses) (r : VRes) : VRes :=
  match r with
  | .ok t =>
    (match lateStrike s ops uses with
    | some tr => .trap s tr
    | none => .ok t)
  | r => r

/-- A vector instruction: what comes before, and its body, which uses the elements that `uses` says. -/
def vecRunX (s : State) (i : Instr) (tyOk : Ty → Bool) (ops : Ty → List Opd) (groups : Nat) (uses : Ty → Uses)
    (body : Ty → State → VRes) : Out :=
  match vecGate s i tyOk ops with
  | .error o => o
  | .ok ty => vecOut s groups ((body ty s).struck s (ops ty) (uses ty))

/-- The same of an instruction whose operands are met at one index. -/
def vecRun (s : State) (i : Instr) (tyOk : Ty → Bool) (ops : Ty → List Opd) (groups : Nat) (body : Ty → State → VRes) : Out :=
  vecRunX s i tyOk ops groups (fun ty => elemUses s (ops ty)) body

/-! ## The moulds of R157 -/

/-- An operand of the instruction is a bound window, whose points it pops (R222). -/
def pops (s : State) (ops : List Opd) : Bool := ops.any fun o => o.reads != 0 && (boundTo s o.win.num).isSome

/-- The operands whose cells are read: those that no stream feeds. -/
def cellOpds (s : State) (ops : List Opd) : List Opd := ops.filter fun o => (boundTo s o.win.num).isNone

/-- An instruction that stops before element k of its destination has changed no cell that it reads for the elements from k
on (R21, R52). `wide` says that an element may read any element of a source. -/
def stopKeeps (s : State) (wd : WinOp) (srcs : List Opd) (wide : Bool) (k : Nat) : Bool :=
  (cellOpds s srcs).all fun o => !spansMeet ((spansOf wd k).drop s.hart.vec.vstart) (if wide then o.cells else o.cells.drop k)

/-- An instruction over destination `wd` that pops a bound window may stop before element k (R21). -/
def popStop (s : State) (wd : WinOp) (srcs : List Opd) (wide : Bool) (k : Nat) : Bool := pops s srcs && stopKeeps s wd srcs wide k

/-- An uncorrectable error at element k of a window (R344), and the lane. -/
def dataTrap (w : WinOp) (ovl : Bool) (k lane : Nat) : Trap := { elemTrap causeDataUe w 0 ovl k with lane := groupLane lane }

/-- Elements in ascending order: `loop m` performs the first m of those from VSTART on. The instruction stops inside where
it `may` and is asked to (R21), or meets an uncorrectable error (R344) at an element of `w` or of a window in `srcs`, which
are read at the same index. -/
def struckLoop (s : State) (w : WinOp) (srcs : List WinOp) (ovl : Bool) (may : Nat → Bool) (loop : Nat → VRes) : VRes :=
  let v0 := s.hart.vec.vstart
  match s.hart.strike with
  | some (.stop k _) =>
    if may k && decide (v0 < k) && decide (k < count w) then
      match loop (k - v0) with
      | .ok t => .stop (withVec t fun v => { v with vstart := k })
      | r => r
    else loop (count w - v0)
  | some (.fault k role lane) =>
    (match (w :: srcs).find? (·.role == role), decide (v0 ≤ k) && decide (k < count w) && guardOn s (k % neff w) with
    | some x, true =>
      (match loop (k - v0) with
      | .ok t => .trap t (dataTrap x ovl k lane)
      | r => r)
    | _, _ => loop (count w - v0))
  | _ => loop (count w - v0)

/-- Integer division raises INT_DIVZERO where a float raises FP_DIVZERO (R77). -/
def divIsInt (ty : Ty) : Bool := !ty.isFloat

/-- Elements k, k + 1, ... of the element-wise mould. `g` says which inner indices are active, `f` gives an element's
value and flags (none: it is not written), `put` writes it, and `mk` makes the trap. -/
def elemLoop (te : Flags) (idiv : Bool) (inner : Nat → Nat) (g : Nat → Bool) (f : Nat → Option (Nat × Flags))
    (put : State → Nat → Nat → State) (mk : BitVec 8 → Nat → Trap) : Nat → Nat → State → VRes
  | 0, _, s => .ok s
  | m + 1, k, s =>
    if !g (inner k) then elemLoop te idiv inner g f put mk m (k + 1) s
    else match f k with
      | none => elemLoop te idiv inner g f put mk m (k + 1) s
      | some (v, fl) =>
        match trapCause fl te idiv with
        | some c => .trap s (mk c k)
        | none => elemLoop te idiv inner g f put mk m (k + 1) (orVflags (put s k v) fl)

/-- Bound windows are popped when the instruction completes; one that traps has popped nothing. -/
def VRes.popping (ops : List Opd) (r : VRes) : VRes := r.map fun t => popAll t ops

/-- The element-wise mould (R157) into window `wd`; `wide` says that an element may read any element of a source. -/
def elementwise (s : State) (i : Instr) (ty : Ty) (wd : WinOp) (srcs : List Opd) (f : Nat → Option (Nat × Flags))
    (wide : Bool := false) : VRes :=
  let ovl := overlaps wd (count wd) srcs
  VRes.popping srcs <| struckLoop s wd (if wide then [] else srcs.map (·.win)) ovl (popStop s wd srcs wide) fun m =>
    elemLoop (modeTe s.hart.vec.vmode) (divIsInt ty) (· % neff wd) (guardOn s) f
      (fun t k v => writeElem t wd k v) (fun c k => elemTrap c wd ((wordOf i).setWidth 64) ovl k) m s.hart.vec.vstart s

/-- A whole-vector instruction's trap (R157). -/
def wholeTrap (i : Instr) (cause : BitVec 8) (w : WinOp) (ovl : Bool) : Trap :=
  { cause := cause, tval := (wordOf i).setWidth 64, pos := .whole w.num ovl w.desc }

/-- The elements that a whole-vector instruction uses: `src` says which of its sources', and `out` holds the destination
positions, of which those from VSTART on are written. -/
def wholeUses (s : State) (out : List (Nat × Nat)) (src : Uses) : Uses := fun role k =>
  if role = 0 then decide (s.hart.vec.vstart ≤ k) && out.any (·.1 == k) else src role k

/-- The element before which a whole-vector instruction of `n` elements over destination `wd` stops, asked to (R21): one that
pops a bound window, and whose positions below the element are no cell that it reads. -/
def wholeStop (s : State) (wd : WinOp) (srcs : List Opd) (n dn : Nat) : Option Nat :=
  match s.hart.strike with
  | some (.stop k _) =>
    if decide (s.hart.vec.vstart < k) && decide (k < n) && popStop s wd srcs true (min k dn) then some k else none
  | _ => none

/-- The whole-vector mould (R157) over `n` elements: destination positions and their values, with the flags of the whole.
Where it stops before element k, the positions below k are written, and the rest is done from VSTART = k on. -/
def wholeVector (s : State) (i : Instr) (ty : Ty) (wd : WinOp) (n dn : Nat) (srcs : List Opd) (fl : Flags)
    (out : List (Nat × Nat)) : VRes :=
  match trapCause fl (modeTe s.hart.vec.vmode) (divIsInt ty) with
  | some c => .trap s (wholeTrap i c wd (overlaps wd dn srcs))
  | none =>
    let v0 := s.hart.vec.vstart
    let put (hi : Option Nat) : State := out.foldl (fun t p =>
      if decide (v0 ≤ p.1) && (match hi with | none => true | some k => decide (p.1 < k)) then writeElem t wd p.1 p.2 else t) s
    match wholeStop s wd srcs n dn with
    | some k => .stop (withVec (put (some k)) fun v => { v with vstart := k })
    | none => .ok (popAll (orVflags (put none) fl) srcs)

/-! ## Operand forms -/

/-- A destination of `n` elements at most: not bound, of the given width, with any further shape condition. -/
def dstOpd (s : State) (w : WinOp) (width n : Nat) (shape : Bool) : Opd :=
  { win := w, width := some width, shape := shape && (boundTo s w.num).isNone, reads := 0, writes := n }

/-- A source read for `need` elements (R39). -/
def srcOpd (w : WinOp) (width need : Nat) : Opd :=
  { win := w, width := some width, shape := decide (need ≤ count w), reads := need, writes := 0 }

/-- The destination of an element-wise instruction, read as well where `rd` says so. -/
def elemDst (s : State) (w : WinOp) (ty : Ty) (rd : Bool) : Opd :=
  { dstOpd s w ty.width (count w) true with reads := if rd then count w else 0 }

/-- Types of R158: I, F, B, and every type but i4. -/
def isI (ty : Ty) : Bool := match ty with | .int _ w => w != 4 | .flt _ => false
def isIFB (ty : Ty) : Bool := ty != .int true 4
def isFB (ty : Ty) : Bool := ty.isFloat

end Sys2Proof.Machine
end

