-- ==== Sys2Proof/Machine/Special.lean ====
section
/-!
DEFINITION. The seven special functions (R79). Each answers an exact value, or one that rounds alike in every mode
(log 19): the transcendental ones are computed with far more bits than any 32-bit rounding can depend on, and the last
bit is set to say that the value lies strictly between its neighbours.
-/
namespace Sys2Proof

/-- The working precision, in bits after the point. -/
def sfBits : Nat := 1024

/-- The sum of t^k / k! from the term `term`, in units of 2^-sfBits. -/
def expSum (t : Nat) : Nat → Nat → Nat → Nat → Nat
  | 0, _, _, acc => acc
  | fuel + 1, k, term, acc =>
    let term' := term * t / 2 ^ sfBits / (k + 1)
    if term' = 0 then acc else expSum t fuel (k + 1) term' (acc + term')

/-- e^(t / 2^sfBits) for t below 2^sfBits, in units of 2^-sfBits. -/
def expFix (t : Nat) : Nat := expSum t 260 0 (2 ^ sfBits) (2 ^ sfBits)

/-- The sum of y^(2k+1) / (2k+1), in units of 2^-sfBits; `y2` is y squared. -/
def atanhSum (y2 : Nat) : Nat → Nat → Nat → Nat → Nat
  | 0, _, _, acc => acc
  | fuel + 1, k, pow, acc =>
    if pow = 0 then acc else atanhSum y2 fuel (k + 1) (pow * y2 / 2 ^ sfBits) (acc + pow / (2 * k + 1))

/-- Twice the inverse hyperbolic tangent of y / 2^sfBits, y at most a third: the logarithm of (1 + y)/(1 - y). -/
def lnRatio (y : Nat) : Nat := 2 * atanhSum (y * y / 2 ^ sfBits) 400 0 y 0

/-- The natural logarithm of 2. -/
def ln2Fix : Nat := lnRatio (2 ^ sfBits / 3)

/-- A positive value in units of 2^-sfBits, as a number strictly between its neighbours. -/
def numBetween (neg : Bool) (v : Nat) : Num := .fin neg (2 * v + 1) (-(sfBits : Int) - 1)

/-- A positive value below every grid, and 1 less such a value. -/
def numTiny (neg : Bool) : Num := .fin neg 1 (-400)
def numBelowOne (neg : Bool) : Num := .fin neg (2 ^ 400 - 1) (-400)

/-- m times 2^e in units of 2^-sfBits, rounded down. -/
def toFix (m : Nat) (e : Int) : Nat :=
  if 0 ≤ e + sfBits then m * 2 ^ (e + sfBits).toNat else m / 2 ^ (-(e + sfBits)).toNat

/-- 2 to the power of a nonzero finite value. -/
def exp2Num (neg : Bool) (m : Nat) (e : Int) : Num :=
  if 9 ≤ topExp m e then (if neg then numTiny false else .fin false 1 1000)
  else
    let v := toFix m e
    let whole := v / 2 ^ sfBits
    let frac := v % 2 ^ sfBits
    if frac = 0 then .fin false 1 (if neg then -(whole : Int) else (whole : Int))
    else
      let f := if neg then 2 ^ sfBits - frac else frac
      let k : Int := if neg then -(whole : Int) - 1 else (whole : Int)
      .fin false (2 * expFix (f * ln2Fix / 2 ^ sfBits) + 1) (k - sfBits - 1)

/-- The logarithm to base 2 of a positive finite value. -/
def log2Num (m : Nat) (e : Int) : Num :=
  let k : Int := topExp m e
  let one := 2 ^ m.log2
  if m = one then numOfInt k
  else
    let l := lnRatio ((m - one) * 2 ^ sfBits / (m + one)) * 2 ^ sfBits / ln2Fix
    let v : Int := k * ((2 ^ sfBits : Nat) : Int) + (l : Int)
    if v < 0 then .fin true (2 * v.natAbs - 1) (-(sfBits : Int) - 1) else numBetween false v.toNat

/-- e^x in units of 2^-sfBits and a power of two to multiply it by, for a positive x in units of 2^-sfBits. -/
def expParts (x : Nat) : Nat × Nat := (expFix (x % ln2Fix), x / ln2Fix)

/-- The hyperbolic tangent of a nonzero finite value. -/
def tanhNum (neg : Bool) (m : Nat) (e : Int) : Num :=
  if 8 ≤ topExp m e then numBelowOne neg
  else
    let (x, k) := expParts (toFix m (e + 1))
    let big := x * 2 ^ k
    let one := 2 ^ sfBits
    numBetween neg ((big - one) * one / (big + one))

/-- The logistic function of a nonzero finite value. -/
def sigmNum (neg : Bool) (m : Nat) (e : Int) : Num :=
  if 8 ≤ topExp m e then (if neg then numTiny false else numBelowOne false)
  else
    let (x, k) := expParts (toFix m e)
    let big := x * 2 ^ k
    let one := 2 ^ sfBits
    numBetween false ((if neg then one else big) * one / (big + one))

/-- The special functions, in the order of major 0x26. -/
inductive SpecialFn where
  | exp2 | log2 | rcp | rsqrt | sqrt | tanh | sigm
deriving DecidableEq, Repr

/-- The function's exact value and the flags of its special operands (R79). -/
def specialNum (fn : SpecialFn) (x : Num) : Num × Flags :=
  match x with
  | .nan sig => (.nan false, flagIf sig flagNV)
  | .inf neg =>
    match fn with
    | .exp2 => (if neg then .fin false 0 0 else .inf false, 0)
    | .log2 => if neg then (.nan false, flagNV) else (.inf false, 0)
    | .rcp => (.fin neg 0 0, 0)
    | .rsqrt => if neg then (.nan false, flagNV) else (.fin false 0 0, 0)
    | .sqrt => if neg then (.nan false, flagNV) else (.inf false, 0)
    | .tanh => (.fin neg 1 0, 0)
    | .sigm => (if neg then .fin false 0 0 else .fin false 1 0, 0)
  | .fin neg m e =>
    if m = 0 then
      match fn with
      | .exp2 => (.fin false 1 0, 0)
      | .log2 => (.inf true, flagDZ)
      | .rcp => (.inf neg, flagDZ)
      | .rsqrt => (.inf neg, flagDZ)
      | .sqrt => (.fin neg 0 0, 0)
      | .tanh => (.fin neg 0 0, 0)
      | .sigm => (.fin false 1 (-1), 0)
    else
      match fn with
      | .exp2 => (exp2Num neg m e, 0)
      | .log2 => if neg then (.nan false, flagNV) else (log2Num m e, 0)
      | .rcp => (Num.fin false 1 0).div (.fin neg m e)
      | .rsqrt =>
        if neg then (.nan false, flagNV)
        else ((Num.fin false 1 0).div (.fin false (sqrtMag m e).1 (sqrtMag m e).2)).1 |> fun r => (r, 0)
      | .sqrt => Num.sqrt (.fin neg m e)
      | .tanh => (tanhNum neg m e, 0)
      | .sigm => (sigmNum neg m e, 0)

/-- A special function into format `f` (R79): one rounding for FP32; for a narrower type a rounding to FP32 in RM, then
`rnd`, with the flags of both. The first rounding saturates under SAT and is not flushed (log 134). -/
def specialTo (fn : SpecialFn) (f : Fmt) (p : Policy) (v : Nat) : Nat × Flags :=
  let (x, fl) := specialNum fn (f.decodeIn p v)
  if f = fmtF32 then
    let (r, fr) := rnd f p x
    (r, fl ||| fr)
  else
    let (r1, f1) := rnd fmtF32 { Policy.plain with rm := p.rm, sat := p.sat } x
    let (r2, f2) := rnd f p (fmtF32.decode r1)
    (r2, fl ||| f1 ||| f2)

end Sys2Proof
end

