-- ==== Sys2Proof/Machine/Vector.lean ====
section
/-!
DEFINITION. The vector instructions of majors 0x20 to 0x27 (R157 to R171).
-/
namespace Sys2Proof.Machine

open Sys2Proof

/-! ## Element-wise arithmetic (R158) -/

/-- An integer operation on raw elements a, b and old d of width w: the element and its flags. -/
abbrev IntOp := (signed : Bool) → (w a b d : Nat) → Nat × Flags

/-- A floating-point operation: the exact value and the flags of its operands. -/
abbrev FltOp := (rm : Nat) → (a b d : Num) → Num × Flags

/-- An integer result wrapped to the width (R64). -/
def wrapped (f : Int → Int → Int → Int) : IntOp := fun sg w a b d => (bitsOfInt w (f (intOf sg w a) (intOf sg w b) (intOf sg w d)), 0)

/-- A bitwise or shifting operation on unsigned values. -/
def bitwise (f : Nat → Nat → Nat → Nat) : IntOp := fun _ w a b _ => (f w a b % 2 ^ w, 0)

def noFlt : FltOp := fun _ _ _ _ => (.nan false, 0)

/-- A lane of an element-wise operation. -/
def laneOp (ty : Ty) (p : Policy) (io : IntOp) (fo : FltOp) (a b d : Nat) : Nat × Flags :=
  match ty with
  | .int sg w => io sg w a b d
  | .flt f =>
    let x := fo p.rm (f.decodeIn p a) (f.decodeIn p b) (f.decodeIn p d)
    let r := rnd f p x.1
    (r.1, r.2 ||| x.2)

/-- The policy of VMODE. -/
def vmodePolicy (s : State) : Policy := policyOf s.hart.vec.vmode

/-- The element groups of an instruction with destination or data window `w`. -/
def groupsOf (s : State) (w : WinOp) : Nat := egroups s w s.hart.vec.vstart

/-- An element-wise instruction of two sources; `rd` says that the old destination is a source too. -/
def arith2 (s : State) (i : Instr) (wd wa wb : BitVec 6) (rd : Bool) (tyOk : Ty → Bool) (io : IntOp) (fo : FltOp) : Out :=
  let d := winOp s wd 0
  let a := winOp s wa 1
  let b := winOp s wb 2
  let ops (ty : Ty) : List Opd := [elemDst s d ty rd, srcOpd a ty.width (count d), srcOpd b ty.width (count d)]
  vecRun s i tyOk ops (groupsOf s d) fun ty s =>
    elementwise s i ty d (ops ty) fun k =>
      some (laneOp ty (vmodePolicy s) io fo (srcElem s a k) (srcElem s b k) (if rd then readElem s d k else 0))

/-- An element-wise instruction of one source. -/
def arith1 (s : State) (i : Instr) (wd wa : BitVec 6) (tyOk : Ty → Bool) (f : Ty → Nat → Nat × Flags) : Out :=
  let d := winOp s wd 0
  let a := winOp s wa 1
  let ops (ty : Ty) : List Opd := [elemDst s d ty false, srcOpd a ty.width (count d)]
  vecRun s i tyOk ops (groupsOf s d) fun ty s => elementwise s i ty d (ops ty) fun k => some (f ty (srcElem s a k))

/-- Integer division (R64). The quotient is truncated toward zero, as R107 has it for DIV (log 102). -/
def intDiv : IntOp := fun sg w a b _ =>
  let x := intOf sg w a
  let y := intOf sg w b
  if y = 0 then (bitsOfInt w (-1), flagDZ) else (bitsOfInt w (x.tdiv y), 0)

/-- Half of an exact value. -/
def numHalf : Num → Num
  | .fin n m e => .fin n m (e - 1)
  | x => x

/-- VADD (R158). -/
def execVadd (d a b : BitVec 6) (s : State) : Out :=
  arith2 s (.vadd d a b) d a b false isIFB
    (wrapped fun x y _ => x + y)
    (fun rm x y _ => x.add rm y)

/-- VSUB (R158). -/
def execVsub (d a b : BitVec 6) (s : State) : Out :=
  arith2 s (.vsub d a b) d a b false isIFB
    (wrapped fun x y _ => x - y)
    (fun rm x y _ => x.add rm y.neg)

/-- VMUL (R158). -/
def execVmul (d a b : BitVec 6) (s : State) : Out :=
  arith2 s (.vmul d a b) d a b false isIFB
    (wrapped fun x y _ => x * y)
    (fun _ x y _ => x.mul y)

/-- VFMA (R158). -/
def execVfma (d a b : BitVec 6) (s : State) : Out :=
  arith2 s (.vfma d a b) d a b true isIFB
    (wrapped fun x y z => x * y + z)
    (fun rm x y z => Num.fma rm x y z)

/-- VFMS (R158). -/
def execVfms (d a b : BitVec 6) (s : State) : Out :=
  arith2 s (.vfms d a b) d a b true isIFB
    (wrapped fun x y z => x * y - z)
    (fun rm x y z => Num.fma rm x y z.neg)

/-- VDIV (R158, R64). -/
def execVdiv (d a b : BitVec 6) (s : State) : Out :=
  arith2 s (.vdiv d a b) d a b false isIFB
    (intDiv)
    (fun _ x y _ => x.div y)

/-- VMIN (R158, R75). -/
def execVmin (d a b : BitVec 6) (s : State) : Out :=
  arith2 s (.vmin d a b) d a b false isIFB
    (wrapped fun x y _ => if x ≤ y then x else y)
    (fun _ x y _ => x.minmax false y)

/-- VMAX (R158, R75). -/
def execVmax (d a b : BitVec 6) (s : State) : Out :=
  arith2 s (.vmax d a b) d a b false isIFB
    (wrapped fun x y _ => if x ≤ y then y else x)
    (fun _ x y _ => x.minmax true y)

/-- VABS (R158). -/
def execVabs (d a : BitVec 6) (s : State) : Out :=
  arith1 s (.vabs d a) d a isIFB fun ty x => laneOp ty (vmodePolicy s) (wrapped fun x _ _ => (x.natAbs : Int)) (fun _ x _ _ => (x.abs, x.sigFlag)) x 0 0

/-- VNEG (R158). -/
def execVneg (d a : BitVec 6) (s : State) : Out :=
  arith1 s (.vneg d a) d a isIFB fun ty x => laneOp ty (vmodePolicy s) (wrapped fun x _ _ => -x) (fun _ x _ _ => (x.neg, x.sigFlag)) x 0 0

/-- VAND (R158). -/
def execVand (d a b : BitVec 6) (s : State) : Out :=
  arith2 s (.vand d a b) d a b false isI
    (bitwise fun _ x y => x &&& y)
    noFlt

/-- VOR (R158). -/
def execVor (d a b : BitVec 6) (s : State) : Out :=
  arith2 s (.vor d a b) d a b false isI
    (bitwise fun _ x y => x ||| y)
    noFlt

/-- VXOR (R158). -/
def execVxor (d a b : BitVec 6) (s : State) : Out :=
  arith2 s (.vxor d a b) d a b false isI
    (bitwise fun _ x y => x ^^^ y)
    noFlt

/-- VSLL (R158): the amount is b modulo the width. -/
def execVsll (d a b : BitVec 6) (s : State) : Out :=
  arith2 s (.vsll d a b) d a b false isI
    (bitwise fun w x y => x * 2 ^ (y % w))
    noFlt

/-- VSRL (R158). -/
def execVsrl (d a b : BitVec 6) (s : State) : Out :=
  arith2 s (.vsrl d a b) d a b false isI
    (bitwise fun w x y => x / 2 ^ (y % w))
    noFlt

/-- VSRA (R158): bit w - 1 is copied, for unsigned types too. -/
def execVsra (d a b : BitVec 6) (s : State) : Out :=
  arith2 s (.vsra d a b) d a b false isI
    (fun _ w x y _ => (bitsOfInt w (intOf true w x / ((2 ^ (y % w) : Nat) : Int)), 0))
    noFlt

/-- VMULH (R158). -/
def execVmulh (d a b : BitVec 6) (s : State) : Out :=
  arith2 s (.vmulh d a b) d a b false isI
    (fun sg w x y _ => (bitsOfInt w (intOf sg w x * intOf sg w y / ((2 ^ w : Nat) : Int)), 0))
    noFlt

/-- VAVG (R158): the half of the exact sum, rounded once. -/
def execVavg (d a b : BitVec 6) (s : State) : Out :=
  arith2 s (.vavg d a b) d a b false isIFB
    (wrapped fun x y _ => (x + y + 1) / 2)
    (fun rm x y _ => (numHalf (x.add rm y).1, (x.add rm y).2))

/-! ## Compare, select and move (R159 to R161) -/

/-- A compare of two raw elements: the bit and its flags (R160). -/
def cmpOp (ty : Ty) (p : Policy) (fi : Int → Int → Bool) (ff : Int → Bool) (onNaN quiet : Bool) (a b : Nat) : Bool × Flags :=
  match ty with
  | .int sg w => (fi (intOf sg w a) (intOf sg w b), 0)
  | .flt f =>
    let x := f.decodeIn p a
    let y := f.decodeIn p b
    if x.isNaN || y.isNaN then (onNaN, if quiet then x.sigFlag ||| y.sigFlag else flagNV)
    else (ff (x.cmp y), 0)

/-- A mask with a bit set to a value. -/
def putBit (m : BitVec 1024) (k : Nat) (b : Bool) : BitVec 1024 :=
  if b then m ||| BitVec.ofNat 1024 (2 ^ k) else m &&& ~~~BitVec.ofNat 1024 (2 ^ k)

/-- A mask with the bits from `n` up cleared. -/
def lowBits (m : BitVec 1024) (n : Nat) : BitVec 1024 := m &&& BitVec.ofNat 1024 (2 ^ n - 1)

/-- A compare into mask `md` (R161). The trap record names the mask as the destination, and has the row and descriptor
of wa, whose elements are counted (log 29). The bits from the count up are cleared from any VSTART (log 103). -/
def compareInto (s : State) (i : Instr) (md wa wb : BitVec 6) (f : Ty → Nat → Nat → Bool × Flags) : Out :=
  let a := winOp s wa 1
  let b := winOp s wb 2
  let ops (ty : Ty) : List Opd :=
    [{ srcOpd a ty.width (count a) with shape := outerOf a.desc == 1 }, srcOpd b ty.width (count a)]
  vecRun s i isIFB ops (groupsOf s a) fun ty s =>
    let v0 := s.hart.vec.vstart
    let r := struckLoop s a [b] false (fun _ => pops s (ops ty)) fun m => elemLoop (modeTe s.hart.vec.vmode) false id (guardOn s)
      (fun k => let c := f ty (srcElem s a k) (srcElem s b k); some (if c.1 then 1 else 0, c.2))
      (fun t k v => wm t md.toNat (putBit (rm t md.toNat) k (v == 1)))
      (fun c k => elemTrap c { a with num := md.toNat, role := 0 } ((wordOf i).setWidth 64) false k) m v0 s
    match r with
    | .ok t => .ok (popAll (wm t md.toNat (lowBits (rm t md.toNat) (count a))) (ops ty))
    | x => x

/-- VCMPEQ (R159, R160). -/
def execVcmpeq (d a b : BitVec 6) (s : State) : Out :=
  compareInto s (.vcmpeq d a b) d a b fun ty => cmpOp ty (vmodePolicy s) (fun x y => x == y) (fun c => c == 0) false true

/-- VCMPNE (R159, R160). -/
def execVcmpne (d a b : BitVec 6) (s : State) : Out :=
  compareInto s (.vcmpne d a b) d a b fun ty => cmpOp ty (vmodePolicy s) (fun x y => x != y) (fun c => c != 0) true true

/-- VCMPLT (R159, R160). -/
def execVcmplt (d a b : BitVec 6) (s : State) : Out :=
  compareInto s (.vcmplt d a b) d a b fun ty =>
    cmpOp ty (vmodePolicy s) (fun x y => decide (x < y)) (fun c => decide (c < 0)) false false

/-- VCMPLE (R159, R160). -/
def execVcmple (d a b : BitVec 6) (s : State) : Out :=
  compareInto s (.vcmple d a b) d a b fun ty =>
    cmpOp ty (vmodePolicy s) (fun x y => decide (x ≤ y)) (fun c => decide (c ≤ 0)) false false

/-- VMOV (R159): the bits are copied. -/
def execVmov (d a : BitVec 6) (s : State) : Out := arith1 s (.vmov d a) d a isIFB fun _ x => (x, 0)

/-- VSEL (R159, R161): element k is a where bit i of Mk is 1, else b. -/
def execVsel (d a b : BitVec 6) (k : BitVec 4) (s : State) : Out :=
  let wd := winOp s d 0
  let wa := winOp s a 1
  let wb := winOp s b 2
  let m := rm s k.toNat
  let ops (ty : Ty) : List Opd := [elemDst s wd ty false, srcOpd wa ty.width (count wd), srcOpd wb ty.width (count wd)]
  vecRun s (.vsel d a b k) isIFB ops (groupsOf s wd) fun ty s =>
    elementwise s (.vsel d a b k) ty wd (ops ty) fun j =>
      some (if m.getLsbD (j % neff wd) then srcElem s wa j else srcElem s wb j, 0)

/-! ## Broadcast, slide and convert (R162) -/

/-- VBCAST (R162). -/
def execVbcast (d : BitVec 6) (b : BitVec 5) (s : State) : Out :=
  let wd := winOp s d 0
  let ops (ty : Ty) : List Opd := [elemDst s wd ty false]
  vecRun s (.vbcast d b) isIFB ops (groupsOf s wd) fun ty t =>
    elementwise t (.vbcast d b) ty wd (ops ty) fun _ => some ((rx s b).toNat % 2 ^ ty.width, 0)

/-- The elements that an instruction uses whose destination element k reads element `pick k` of wa, or none of it: of wa those
that an active element from VSTART on reads; its other operands are met at one index. -/
def pickUses (s : State) (ops : List Opd) (wd : WinOp) (pick : Nat → Option Nat) : Uses := fun role j =>
  if role = 1 then (List.range (count wd)).any fun k => elemUses s ops 0 k && pick k == some j else elemUses s ops role j

/-- VSLIDE: `pick` gives the source index of element k, or none where it is not written (R162); `reads` gives the elements of
wa that are read for n of wd, from one to below another, as far as wa has them (R52). -/
def slide (s : State) (i : Instr) (d a : BitVec 6) (pick : Nat → Option Nat) (reads : Nat → Nat × Nat) : Out :=
  let wd := winOp s d 0
  let wa := winOp s a 1
  let x := reads (count wd)
  let ops (ty : Ty) : List Opd :=
    [elemDst s wd ty false, { srcOpd wa ty.width 0 with reads := count wa, range := some (x.1, min x.2 (count wa)) }]
  vecRunX s i isIFB ops (groupsOf s wd) (fun ty => pickUses s (ops ty) wd pick) fun ty s =>
    elementwise s i ty wd (ops ty) (fun k =>
      match pick k with
      | none => none
      | some j => some (if j < count wa then srcElem s wa j else 0, 0)) true

/-- VSLIDE.UP (R162). -/
def execVslideUp (d a : BitVec 6) (b : BitVec 5) (s : State) : Out :=
  slide s (.vslideUp d a b) d a (fun k => if (rx s b).toNat ≤ k then some (k - (rx s b).toNat) else none)
    fun n => (0, n - (rx s b).toNat)

/-- VSLIDE.DN (R162). -/
def execVslideDn (d a : BitVec 6) (b : BitVec 5) (s : State) : Out :=
  slide s (.vslideDn d a b) d a (fun k => some (k + (rx s b).toNat)) fun n => ((rx s b).toNat, n + (rx s b).toNat)

/-- VCVT (R162, R74): wa is checked against the source type. -/
def execVcvt (d a : BitVec 6) (t : BitVec 8) (s : State) : Out :=
  let wd := winOp s d 0
  let wa := winOp s a 1
  let src := (tyOfCode t).getD (.flt fmtF32)
  let ops (ty : Ty) : List Opd := [elemDst s wd ty false, srcOpd wa src.width (count wd)]
  vecRun s (.vcvt d a t) (fun _ => true) ops (groupsOf s wd) fun ty s =>
    elementwise s (.vcvt d a t) ty wd (ops ty) fun k => some (convert (vmodePolicy s) ty src (srcElem s wa k))

/-! ## Reductions and scan (R163, R164) -/

/-- The active elements of a source, ascending, with their indices. -/
def activeElems (s : State) (w : WinOp) : List (Nat × Nat) :=
  (List.range (count w)).filterMap fun k => if guardOn s (k % neff w) then some (k, srcElem s w k) else none

/-- An addition in a format, rounded once: the result as a number, and the flags. -/
def addRound (f : Fmt) (p : Policy) (x y : Num) : Nat × Flags :=
  let z := x.add p.rm y
  let r := rnd f p z.1
  (r.1, r.2 ||| z.2)

/-- One level of tree_sum (R82). -/
def treeLevel (f : Fmt) (p : Policy) : List Num → List Num × Flags
  | x :: y :: t =>
    let r := addRound f p x y
    let rest := treeLevel f p t
    (f.decode r.1 :: rest.1, r.2 ||| rest.2)
  | l => (l, 0)

/-- tree_sum of R82; `fuel` levels are more than any list of 2^fuel elements needs. -/
def treeSum (f : Fmt) (p : Policy) : Nat → List Num → Option Num × Flags
  | 0, l => (l.head?, 0)
  | fuel + 1, l =>
    match l with
    | [] => (none, 0)
    | [x] => (some x, 0)
    | _ =>
      let r := treeLevel f p l
      let q := treeSum f p fuel r.1
      (q.1, r.2 ||| q.2)

/-- VREDSUM's result (R164). -/
def redSum (ty : Ty) (p : Policy) (init : Nat) (xs : List Nat) : Nat × Flags :=
  match ty with
  | .int sg w => (bitsOfInt w (xs.foldl (fun t x => t + intOf sg w x) (intOf sg w init)), 0)
  | .flt f =>
    let r := treeSum f p 20 (xs.map (f.decodeIn p))
    match r.1 with
    | none => (init, r.2)
    | some t =>
      let q := addRound f p (f.decodeIn p init) t
      (q.1, r.2 ||| q.2)

/-- VREDMAX's and VREDMIN's result: exact, then written through rnd (R164, R75). -/
def redExt (max : Bool) (ty : Ty) (p : Policy) (init : Nat) (xs : List Nat) : Nat × Flags :=
  match ty with
  | .int sg w =>
    (bitsOfInt w (xs.foldl (fun t x => let y := intOf sg w x; if decide (t ≤ y) == max then y else t) (intOf sg w init)), 0)
  | .flt f =>
    if xs.isEmpty then (init, 0)
    else
      let r := xs.foldl (fun t x => let y := t.1.minmax max (f.decodeIn p x); (y.1, t.2 ||| y.2)) (f.decodeIn p init, (0 : Flags))
      let q := rnd f p r.1
      (q.1, r.2 ||| q.2)

/-- VSCAN's results (R164): positions and running sums, and the flags. -/
def scanOut (ty : Ty) (p : Policy) (init : Nat) (xs : List (Nat × Nat)) : List (Nat × Nat) × Flags :=
  match ty with
  | .int sg w =>
    ((xs.foldl (fun t x => let y := t.1 + intOf sg w x.2; (y, (x.1, bitsOfInt w y) :: t.2))
      (intOf sg w init, ([] : List (Nat × Nat)))).2.reverse, 0)
  | .flt f =>
    let r := xs.foldl (fun t x =>
        let q := addRound f p t.1 (f.decodeIn p x.2)
        (f.decode q.1, (x.1, q.1) :: t.2.1, t.2.2 ||| q.2))
      (f.decodeIn p init, ([] : List (Nat × Nat)), (0 : Flags))
    (r.2.1.reverse, r.2.2)

/-- A reduction or scan: `dn` destination elements for a source of n. -/
def reduction (s : State) (i : Instr) (d a b : BitVec 6) (dn : Nat → Nat)
    (f : Ty → Nat → List (Nat × Nat) → List (Nat × Nat) × Flags) : Out :=
  let wd := winOp s d 0
  let wa := winOp s a 1
  let wb := winOp s b 2
  let n := count wa
  let one := if n = 0 then 0 else 1
  let ops (ty : Ty) : List Opd :=
    [dstOpd s wd ty.width (dn n) (decide (dn n ≤ count wd)), srcOpd wa ty.width n, srcOpd wb ty.width one]
  let res (ty : Ty) := f ty (srcElem s wb 0) (activeElems s wa)
  let uses (ty : Ty) : Uses := fun role k =>
    decide (s.hart.vec.vstart < n) && wholeUses s (res ty).1 (fun role k => role == 2 || guardOn s (k % neff wa)) role k
  vecRunX s i isIFB ops (if n ≤ s.hart.vec.vstart then 0 else groupsOf s wd) uses fun ty s =>
    if n ≤ s.hart.vec.vstart then .ok (popAll s (ops ty)) else wholeVector s i ty wd n (dn n) (ops ty) (res ty).2 (res ty).1

/-- The destination elements of a reduction to one element. -/
def toOne (n : Nat) : Nat := if n = 0 then 0 else 1

/-- VREDSUM (R164). -/
def execVredsum (d a b : BitVec 6) (s : State) : Out :=
  reduction s (.vredsum d a b) d a b toOne fun ty init xs =>
    let r := redSum ty (vmodePolicy s) init (xs.map (·.2)); ([(0, r.1)], r.2)

/-- VREDMAX (R164). -/
def execVredmax (d a b : BitVec 6) (s : State) : Out :=
  reduction s (.vredmax d a b) d a b toOne fun ty init xs =>
    let r := redExt true ty (vmodePolicy s) init (xs.map (·.2)); ([(0, r.1)], r.2)

/-- VREDMIN (R164). -/
def execVredmin (d a b : BitVec 6) (s : State) : Out :=
  reduction s (.vredmin d a b) d a b toOne fun ty init xs =>
    let r := redExt false ty (vmodePolicy s) init (xs.map (·.2)); ([(0, r.1)], r.2)

/-- VSCAN (R164). -/
def execVscan (d a b : BitVec 6) (s : State) : Out :=
  reduction s (.vscan d a b) d a b id fun ty init xs => scanOut ty (vmodePolicy s) init xs

/-! ## Permutation (R165, R166) -/

/-- VPERM (R166): an index at or beyond count(wa) gives 0. -/
def execVperm (d a b : BitVec 6) (s : State) : Out :=
  let wd := winOp s d 0
  let wa := winOp s a 1
  let wb := winOp s b 2
  let ops (ty : Ty) : List Opd :=
    [elemDst s wd ty false, { srcOpd wa ty.width 0 with reads := count wa }, srcOpd wb 16 (count wd)]
  let index (s : State) (k : Nat) : Nat := srcElem s wb k % 65536
  vecRunX s (.vperm d a b) isIFB ops (groupsOf s wd) (fun ty => pickUses s (ops ty) wd fun k => some (index s k)) fun ty s =>
    elementwise s (.vperm d a b) ty wd (ops ty) (fun k =>
      let j := index s k
      some (if j < count wa then srcElem s wa j else 0, 0)) true

/-- VCOMPRESS (R166). That wd must hold count(wa) elements is a demand on wd: its SHAPE names wd, with ROLE 0 (log 139). -/
def execVcompress (d a : BitVec 6) (s : State) : Out :=
  let wd := winOp s d 0
  let wa := winOp s a 1
  let ops (ty : Ty) : List Opd :=
    [dstOpd s wd ty.width (count wa) (decide (count wa ≤ count wd)), srcOpd wa ty.width (count wa)]
  let out := (activeElems s wa).mapIdx fun j p => (j, p.2)
  vecRunX s (.vcompress d a) isIFB ops (groupsOf s wd) (fun _ => wholeUses s out fun _ k => guardOn s (k % neff wa)) fun ty s =>
    wholeVector s (.vcompress d a) ty wd (count wa) (count wa) (ops ty) 0 out

/-- VEXPAND (R166): the active destination positions take the source's elements in order. -/
def execVexpand (d a : BitVec 6) (s : State) : Out :=
  let wd := winOp s d 0
  let wa := winOp s a 1
  let ops (ty : Ty) : List Opd := [elemDst s wd ty false, srcOpd wa ty.width (count wd)]
  let out := ((List.range (count wd)).filter fun k => guardOn s (k % neff wd)).mapIdx fun j k => (k, srcElem s wa j)
  let uses := wholeUses s out fun _ j => match out[j]? with | some p => decide (s.hart.vec.vstart ≤ p.1) | none => false
  vecRunX s (.vexpand d a) isIFB ops (groupsOf s wd) (fun _ => uses) fun ty s =>
    wholeVector s (.vexpand d a) ty wd (count wd) (count wd) (ops ty) 0 out

/-! ## Special functions (R79, R167) -/

/-- The types of the special-function pipe (R167). -/
def isSf (ty : Ty) : Bool := ty.isFloat && ty != .flt fmtF64

/-- The active elements from VSTART to below element k enter the special-function pipe and are counted (R360, SFELEM). -/
def sfCount (s : State) (wd : WinOp) (k : Nat) (t : State) : State :=
  evCount 0x0007 ((List.range k).filter fun j => decide (s.hart.vec.vstart ≤ j) && guardOn s (j % neff wd)).length t

/-- The same of what the instruction comes to: one that stops or traps inside has had those elements in the pipe that it has
done, and the trapping one (log 30). -/
def VRes.sfCounted (s : State) (wd : WinOp) : VRes → VRes
  | .ok t => .ok (sfCount s wd (count wd) t)
  | .trap t tr => .trap (sfCount s wd (trapVstart 0 tr.pos + 1) t) tr
  | .stop t => .stop (sfCount s wd t.hart.vec.vstart t)
  | .wait w => .wait w

/-- A special function. -/
def special (s : State) (i : Instr) (d a : BitVec 6) (fn : SpecialFn) : Out :=
  let wd := winOp s d 0
  let wa := winOp s a 1
  let ops (ty : Ty) : List Opd := [elemDst s wd ty false, srcOpd wa ty.width (count wd)]
  vecRun s i isSf ops (groupsOf s wd) fun ty s =>
    VRes.sfCounted s wd <| elementwise s i ty wd (ops ty) fun k =>
      match ty with
      | .flt f => some (specialTo fn f (vmodePolicy s) (srcElem s wa k))
      | .int _ _ => none

/-- VEXP2 (R79, R167). -/
def execVexp2 (d a : BitVec 6) (s : State) : Out := special s (.vexp2 d a) d a .exp2

/-- VLOG2 (R79, R167). -/
def execVlog2 (d a : BitVec 6) (s : State) : Out := special s (.vlog2 d a) d a .log2

/-- VRCP (R79, R167). -/
def execVrcp (d a : BitVec 6) (s : State) : Out := special s (.vrcp d a) d a .rcp

/-- VRSQRT (R79, R167). -/
def execVrsqrt (d a : BitVec 6) (s : State) : Out := special s (.vrsqrt d a) d a .rsqrt

/-- VSQRT (R79, R167). -/
def execVsqrt (d a : BitVec 6) (s : State) : Out := special s (.vsqrt d a) d a .sqrt

/-- VTANH (R79, R167). -/
def execVtanh (d a : BitVec 6) (s : State) : Out := special s (.vtanh d a) d a .tanh

/-- VSIGM (R79, R167). -/
def execVsigm (d a : BitVec 6) (s : State) : Out := special s (.vsigm d a) d a .sigm

/-! ## Sparse pairs (R169 to R171) -/

/-- The accepted types: 16, 32 or 64 bits wide (R169). -/
def isWide (ty : Ty) : Bool := ty.width == 16 || ty.width == 32 || ty.width == 64

/-- An operand that must, or must not, be an SPAIR. -/
def isPair (w : WinOp) : Bool := wKind w.desc == kindSpair

/-- The pairs of an SPAIR that are not skipped (R169). -/
def pairsOf (s : State) (w : WinOp) (g : Nat → Bool) : List (Nat × Nat) :=
  (List.range (count w)).filterMap fun j =>
    if g j then some (readCell s w.desc (cell w 0 j), readCell s w.desc (cell w 1 j)) else none

/-- merge of R170; `fuel` is at least the number of pairs. -/
def mergePairs (union : Bool) (f : Nat → Nat → Nat × Flags) : Nat → List (Nat × Nat) → List (Nat × Nat) → List (Nat × Nat) × Flags
  | 0, _, _ => ([], 0)
  | _ + 1, [], [] => ([], 0)
  | fuel + 1, x :: xs, [] =>
    let r := mergePairs union f fuel xs []
    (if union then x :: r.1 else r.1, r.2)
  | fuel + 1, [], y :: ys =>
    let r := mergePairs union f fuel [] ys
    (if union then y :: r.1 else r.1, r.2)
  | fuel + 1, x :: xs, y :: ys =>
    if x.1 < y.1 then
      let r := mergePairs union f fuel xs (y :: ys)
      (if union then x :: r.1 else r.1, r.2)
    else if y.1 < x.1 then
      let r := mergePairs union f fuel (x :: xs) ys
      (if union then y :: r.1 else r.1, r.2)
    else
      let v := f x.2 y.2
      let r := mergePairs union f fuel xs ys
      ((x.1, v.1) :: r.1, v.2 ||| r.2)

/-- The most pairs that window can hold. -/
def pairCap (w : WinOp) : Nat := wNm1 w.desc + 1

/-- A descriptor with a new CLEN, its VER advanced (R36). -/
def withClen (d : Word) (n : Nat) : Word := wSet (wSet d 45 11 n) 56 8 (wVer d + 1)

/-- Writing the pairs from VSTART on (R170). -/
def pairCells (s : State) (w : WinOp) (v0 : Nat) (out : List (Nat × Nat)) : State :=
  (out.mapIdx fun j p => (j, p)).foldl (fun t p =>
    if v0 ≤ p.1 then writeCell (writeCell t w.desc (cell w 0 p.1) p.2.1) w.desc (cell w 1 p.1) p.2.2 else t) s

/-- The same with CLEN and VER of window `r`. -/
def writePairs (s : State) (r : BitVec 6) (w : WinOp) (v0 : Nat) (out : List (Nat × Nat)) : State :=
  ww (pairCells s w v0 out) r (withClen w.desc out.length)

/-- Element groups of an SPAIR destination, by its new length (log 31). -/
def pairGroups (s : State) (w : WinOp) (n : Nat) : Nat :=
  egroups s { w with desc := wSet w.desc 45 11 n } s.hart.vec.vstart

/-- What an instruction that sets CLEN comes to (R170): SHAPE if the pairs exceed the capacity, which comes before the trap
of an enabled flag (log 34), or the pairs from VSTART on written and CLEN set, whatever VSTART is. One that traps leaves VER
(log 104). OVL is of the cells of the pairs that result (log 105). -/
def pairResult (s : State) (i : Instr) (ty : Ty) (d : BitVec 6) (wd : WinOp) (srcs : List Opd) (r : List (Nat × Nat) × Flags) : Out :=
  let v0 := s.hart.vec.vstart
  if pairCap wd < r.1.length then .next (takeTrap s (winTrap i causeShape wd))
  else
    match trapCause r.2 (modeTe s.hart.vec.vmode) (divIsInt ty) with
    | some c =>
      .next (takeTrap s (wholeTrap i c wd (overlaps wd r.1.length srcs)))
    | none =>
      match wholeStop s wd srcs r.1.length r.1.length with
      | some k => .next (stopInside (withVec (pairCells s wd v0 (r.1.take k)) fun v => { v with vstart := k }))
      | none => .next (vecEnd (popAll (orVflags (writePairs s d wd v0 r.1) r.2) srcs) (pairGroups s wd r.1.length))

/-- The destination's elements are the pairs that result. -/
def pairOpds (n : Nat) (ops : List Opd) : List Opd := ops.map fun o => if o.win.role = 0 then { o with writes := n } else o

/-- An instruction that sets CLEN: its checks and waits, then its result. `used` says which elements of its sources it uses. -/
def pairRun (s : State) (i : Instr) (d : BitVec 6) (wd : WinOp) (ops : Ty → List Opd) (used : Uses)
    (f : Ty → List (Nat × Nat) × Flags) : Out :=
  match vecGate s i isWide ops with
  | .error o => o
  | .ok ty =>
    let uses := wholeUses s ((f ty).1.mapIdx fun j p => (j, p.2)) used
    match lateStrike s (pairOpds (f ty).1.length (ops ty)) uses with
    | some t => .next (takeTrap s t)
    | none => pairResult s i ty d wd (ops ty) (f ty)

/-- SPADD and SPMUL (R170). -/
def pairMerge (s : State) (i : Instr) (d a b : BitVec 6) (union : Bool) (io : IntOp) (fo : FltOp) : Out :=
  let wd := winOp s d 0
  let wa := winOp s a 1
  let wb := winOp s b 2
  let src (w : WinOp) (ty : Ty) : Opd :=
    { win := w, width := some ty.width, shape := isPair w, reads := count w, writes := 0 }
  pairRun s i d wd (fun ty => [dstOpd s wd ty.width (pairCap wd) (isPair wd), src wa ty, src wb ty]) (fun _ k => guardOn s k) fun ty =>
    let xs := pairsOf s wa (guardOn s)
    let ys := pairsOf s wb (guardOn s)
    mergePairs union (fun x y => laneOp ty (vmodePolicy s) io fo x y 0) (xs.length + ys.length + 1) xs ys

/-- SPADD (R170). -/
def execSpadd (d a b : BitVec 6) (s : State) : Out :=
  pairMerge s (.spadd d a b) d a b true (wrapped fun x y _ => x + y) (fun rm x y _ => x.add rm y)

/-- SPMUL (R170). -/
def execSpmul (d a b : BitVec 6) (s : State) : Out :=
  pairMerge s (.spmul d a b) d a b false (wrapped fun x y _ => x * y) (fun _ x y _ => x.mul y)

/-- The value of an element is zero (R171). -/
def isZeroElem (ty : Ty) (p : Policy) (v : Nat) : Bool :=
  match ty with
  | .int _ _ => v == 0
  | .flt f => (f.decodeIn p v).isZero

/-- SPFROM (R171). -/
def execSpfrom (d a : BitVec 6) (s : State) : Out :=
  let wd := winOp s d 0
  let wa := winOp s a 1
  pairRun s (.spfrom d a) d wd
    (fun ty => [dstOpd s wd ty.width (pairCap wd) (isPair wd),
      { win := wa, width := some ty.width, shape := !isPair wa && decide (count wa ≤ 2 ^ wEw wd.desc), reads := count wa, writes := 0 }])
    (fun _ k => guardOn s (k % neff wa))
    fun ty => ((activeElems s wa).filter fun p => !isZeroElem ty (vmodePolicy s) p.2, 0)

/-- SPTO (R171): guarded on the destination; a later pair of the same coordinate wins. -/
def execSpto (d a : BitVec 6) (s : State) : Out :=
  let wd := winOp s d 0
  let wa := winOp s a 1
  let ops (ty : Ty) : List Opd :=
    [dstOpd s wd ty.width (count wd) (!isPair wd),
      { win := wa, width := some ty.width, shape := isPair wa, reads := count wa, writes := 0 }]
  let out := (pairsOf s wa fun _ => true).filter fun p => decide (p.1 < count wd) && guardOn s (p.1 % neff wd)
  vecRunX s (.spto d a) isWide ops (groupsOf s wd) (fun _ => wholeUses s out fun _ _ => true) fun ty s =>
    wholeVector s (.spto d a) ty wd (count wd) (count wd) (ops ty) 0 out

end Sys2Proof.Machine
end

