-- ==== Sys2Proof/Machine/Control.lean ====
section
/-!
DEFINITION. The control and system instructions (R126 to R133).
-/
namespace Sys2Proof.Machine

open Sys2Proof

/-- TRAP (R127): USER_TRAP with TVAL := X[a]. -/
def execTrap (a : BitVec 5) (s : State) : Out := .next (takeTrap s (plainTrap causeUserTrap (rx s a)))

/-- TRET (R128). -/
def execTret (s : State) : Out := .next (returnFromTrap s)

/-- SCALL (R129): the hart stops until the supervisor answers; it is not parked. -/
def execScall (d a : BitVec 5) (s : State) : Out := .next { s with hart := { s.hart with status := .inScall d a } }

/-- BREAK (R130): with a debugger attached to the launch the hart waits for it, and TEPC and TVAL alone are set (log 106);
else BREAKPOINT is a supervisor trap. -/
def execBrk (s : State) : Out :=
  let attached := match launchAt s s.hart.who.serial with
    | some l => l.debug && !s.hart.who.dispatch
    | none => false
  if attached then
    .next { s with hart := { s.hart with
      status := .atBreak
      trap := { s.hart.trap with tepc := tepcOf s.hart.pc, tval := (wordOf .brk).setWidth 64 } } }
  else .next (takeTrap s (plainTrap causeBreakpoint ((wordOf .brk).setWidth 64)))

/-- YIELD (R131): it changes no architectural state. -/
def execYield (s : State) : Out := .next (advance s)

/-- CFENCE (R132): the scalar stores before it have performed, and what fetch and the constant path held is discarded. -/
def execCfence (s : State) : Out :=
  let t := drain s false
  .next (advance { t with hart := { t.hart with ccache := [], icache := [] } })

/-- Ending a stream: its counter decrements (R222). -/
def unbindStream (s : State) (t : Stream) : State :=
  let c := rc s t.ctr
  wc (withEng s fun g => { g with streams := g.streams.filter fun u => u.id ≠ t.id }) t.ctr { c with count := c.count - 1 }

/-- Every stream of the hart is unbound. -/
def unbindAll (s : State) : State := s.hart.eng.streams.foldl unbindStream s

/-- The command has poisoned its counter, although its counter has not gone down: a GSCAT of which a contribution has faulted
(R262). -/
def cmdPoisoned (k : Cmd) : Bool :=
  match k.op with
  | .gscat _ _ _ _ => k.units != 0
  | _ => false

/-- Earlier instructions are under way, or engine commands that have neither decremented nor poisoned their counter (R133, step 2);
MFETCH counts as one. -/
def haltBusy (h : Hart) : Bool := !h.mat.mq.isEmpty || h.mat.fetches.any (!·.faulted) || h.eng.cmds.any (!cmdPoisoned ·)

/-- The errata address of the earliest poisoning among the hart's poisoned counters (R133). -/
def firstPoison (h : Hart) : Option Counter :=
  h.c.toList.foldl (fun best c =>
    if !c.poison then best
    else match best with
      | none => some c
      | some b => if c.entry < b.entry then some c else some b) none

/-- HALT (R133): the hart's stores have performed, the streams are unbound, then it waits for earlier work; a pending errata
state or a poisoned counter halts the hart with COUNTER_POISON, in that order (log 107), else the hart ends. -/
def execHalt (s : State) : Out :=
  let s1 := unbindAll (drainAll s)
  if haltBusy s1.hart then .next (waitOn s1 .halt)
  else match s1.hart.eng.errPend with
    | some e => .next (takeTrap s1 (plainTrap causeCounterPoison e))
    | none =>
      match firstPoison s1.hart with
      | some c => .next (takeTrap s1 (plainTrap causeCounterPoison c.first))
      | none =>
        let s2 := complete s1 s1.hart.pc
        .next (settleHart { s2 with hart := { s2.hart with
          status := .ended, stopReq := false, eng := { s2.hart.eng with sbind := [], link := none } } })

end Sys2Proof.Machine
end

