-- ==== Sys2Proof/Machine/Window.lean ====
section
/-!
DEFINITION. The instructions of majors 0x40 to 0x45: windows, spill frames, length, mode, masks and BRLOOP (R145 to R156).
-/
namespace Sys2Proof.Machine

open Sys2Proof

/-! ## Windows (R145 to R148) -/

/-- A window that is bound to a stream is unbound (R222). -/
def unbindWin (s : State) (win : Nat) : State :=
  match boundTo s win with
  | some t => unbindStream s t
  | none => s

/-- Setting a window's descriptor unbinds it. -/
def setWin (s : State) (r : BitVec 6) (d : Word) : State := ww (unbindWin s r.toNat) r d

/-- A descriptor for window `r` with VER set under R36. -/
def nextVer (s : State) (r : BitVec 6) (d : Word) : Word := wSet d 56 8 (wVer (rw s r) + 1)

/-- WDEF (R146). -/
def execWdef (d : BitVec 6) (b : BitVec 5) (s : State) : Out := .next (advance (setWin s d (nextVer s d (rx s b))))

/-- WDEFI (R146): ROW0 is replaced. -/
def execWdefi (d a : BitVec 6) (r : BitVec 9) (s : State) : Out :=
  .next (advance (setWin s d (nextVer s d (wSet (rw s a) 6 9 r.toNat))))

/-- WGET (R147). -/
def execWget (d : BitVec 5) (w : BitVec 6) (s : State) : Out := setX s d (rw s w)

/-- Double words stored one after the other; a fault leaves those before it, and names its own (log 133). -/
def storeWords (s : State) (p : Path) (va : Nat) : List Word → VRes
  | [] => .ok s
  | w :: t =>
    match storeNat s p (va % 2 ^ 64) 8 w.toNat .fifoOnly with
    | .ok s' => storeWords s' p (va + 8) t
    | .trap c a => .trap s (plainTrap c (BitVec.ofNat 64 a))
    | .wait x => .wait x

/-- The same, with the poison marks of the lines that it writes whole cleared (R344). -/
def storeRun (s : State) (p : Path) (va : Nat) (ws : List Word) : VRes :=
  (storeWords s p va ws).map fun t => clearLines s t p fun _ => ws.mapIdx fun j _ => ((va + 8 * j) % 2 ^ 64, 8)

/-- `n` double words loaded one after the other. -/
def loadWords (s : State) (p : Path) (va : Nat) : Nat → MRes (List Word)
  | 0 => .ok []
  | n + 1 => (loadNat s p (va % 2 ^ 64) 8 .fifoOnly).bind fun v =>
      (loadWords s p (va + 8) n).bind fun t => .ok (BitVec.ofNat 64 v :: t)

/-- The outcome of an instruction that started in `s`, with `fin` what completing it does. -/
def resOut (s : State) (fin : State → State) : VRes → Out
  | .ok t => .next (fin t)
  | .trap t tr => .next (takeTrap t tr)
  | .wait w => .next (waitOn s w)
  | .stop t => .next t

/-- The outcome of a load, with what is done with the value. -/
def loadOut {α : Type} (s : State) (r : MRes α) (k : α → Out) : Out :=
  match r with
  | .ok v => k v
  | .trap c a => .next (takeTrap s (plainTrap c (BitVec.ofNat 64 a)))
  | .wait w => .next (waitOn s w)

/-- The window numbers wd to wa. -/
def winRange (d a : BitVec 6) : List (BitVec 6) :=
  (List.range (a.toNat + 1 - d.toNat)).map fun k => BitVec.ofNat 6 (d.toNat + k)

/-- WSAVE (R148). -/
def execWsave (d a : BitVec 6) (b : BitVec 5) (s : State) : Out :=
  let va := (rx s b).toNat
  if va % 8 ≠ 0 then .next (takeTrap s (plainTrap causeMisalign (rx s b)))
  else if fenced s clsS then .next (waitOn s .stall)
  else resOut s (fun t => advance (dropScalar t)) (storeRun s (s.hart.path s) va ((winRange d a).map (rw s)))

/-- Setting windows one after the other. -/
def setWins (s : State) : List (BitVec 6 × Word) → State
  | [] => s
  | p :: t => setWins (setWin s p.1 p.2) t

/-- WLOAD (R148): VER is restored; a fault changes no descriptor. -/
def execWload (d a : BitVec 6) (b : BitVec 5) (s0 : State) : Out :=
  let s := syncScalar s0
  let va := (rx s b).toNat
  if va % 8 ≠ 0 then .next (takeTrap s (plainTrap causeMisalign (rx s b)))
  else if fenced s clsS then .next (waitOn s .stall)
  else loadOut s (loadWords s (s.hart.path s) va (winRange d a).length) fun ws =>
    .next (advance (setWins s ((winRange d a).zip ws)))

/-! ## Spill frames (R149, R150) -/

/-- Values of `ew` bits packed without gaps, as a number. -/
def packElems (ew : Nat) : List Nat → Nat
  | [] => 0
  | v :: t => v % 2 ^ ew + 2 ^ ew * packElems ew t

/-- Value k of a packed number. -/
def unpackElem (ew v k : Nat) : Nat := v / 2 ^ (ew * k) % 2 ^ ew

/-- The bytes of element data of a frame, padded. -/
def frameBytes (ew n : Nat) : Nat := ceilDiv (ceilDiv (n * ew) 8) 16 * 16

/-- The values a frame holds: the elements, or coordinates and then values. -/
def frameValues (s : State) (w : WinOp) : List Nat :=
  let n := count w
  if wKind w.desc = kindSpair then
    (List.range n).map (fun k => readCell s w.desc (cell w 0 k)) ++ (List.range n).map (fun k => readCell s w.desc (cell w 1 k))
  else (List.range n).map (readElem s w)

/-- The double words of a number, the first the least significant. -/
def wordsOfNat : Nat → Nat → List Word
  | 0, _ => []
  | n + 1, v => BitVec.ofNat 64 v :: wordsOfNat n (v / 2 ^ 64)

/-- The frame of WSPILL (R149). -/
def spillFrame (s : State) (w : WinOp) : List Word :=
  let vs := frameValues s w
  w.desc :: BitVec.ofNat 64 (w.vl % 2 ^ 32 + grbOf s.hart.who.shape * 2 ^ 32)
    :: wordsOfNat (frameBytes (wEw w.desc) vs.length / 8) (packElems (wEw w.desc) vs)

/-- The end of WSPILL and WFILL: VSTART is not changed. -/
def frameEnd (w : WinOp) (t : State) : State := advance (evCount 0x0003 (egroups t w 0) t)

/-- A memory fault of a frame names the window that it stores from or loads into, and no element of it (R54, log 133). -/
def VRes.naming (w : WinOp) : VRes → VRes
  | .trap t tr => .trap t { tr with pos := .window w.num w.role w.desc }
  | r => r

/-- WSPILL (R150). -/
def execWspill (a : BitVec 6) (b : BitVec 5) (s : State) : Out :=
  let w := winOp s a 1
  let o : Opd := { win := w, width := none, shape := true, reads := count w, writes := 0 }
  let va := (rx s b).toNat
  match windowChecks s (.wspill a b) [o] with
  | some t => .next (takeTrap s t)
  | none =>
    if va % 16 ≠ 0 then resOut s id (VRes.naming w (.trap s (plainTrap causeMisalign (rx s b))))
    else if fenced s clsV || heldBack s o then .next (waitOn s .stall)
    else resOut s (frameEnd w) <| VRes.naming w (storeRun (dropView s) (s.hart.vpath s) va (spillFrame s w))

/-- Writing a frame's values into the cells of a window. -/
def fillCells (s : State) (w : WinOp) (data : Nat) : State :=
  let n := count w
  let ew := wEw w.desc
  (List.range n).foldl (fun t k =>
    if wKind w.desc = kindSpair then
      writeCell (writeCell t w.desc (cell w 0 k) (unpackElem ew data k)) w.desc (cell w 1 k) (unpackElem ew data (n + k))
    else writeElem t w k (unpackElem ew data k)) s

/-- The number that double words stand for. -/
def natOfWords : List Word → Nat
  | [] => 0
  | w :: t => w.toNat + 2 ^ 64 * natOfWords t

/-- The values of a frame: twice the pairs of an SPAIR. -/
def frameCount (w : WinOp) : Nat := if wKind w.desc = kindSpair then 2 * count w else count w

/-- Steps 3 and 4 of WFILL, with the recorded descriptor and VL in `w`: a fault of the data leaves the descriptor set, and no
cell written (log 133). -/
def fillFrame (s : State) (d : BitVec 6) (w : WinOp) (va : Nat) : Out :=
  let t := setWin s d w.desc
  match loadWords t (t.hart.vpath t) (va + 16) (frameBytes (wEw w.desc) (frameCount w) / 8) with
  | .ok ws => .next (frameEnd w (fillCells t w (natOfWords ws)))
  | .trap c a => resOut s id (VRes.naming w (.trap t (plainTrap c (BitVec.ofNat 64 a))))
  | .wait x => .next (waitOn s x)

/-- WFILL (R150). One that SLOT_OWNED stops has set no descriptor, and one whose first 16 bytes fault names no window, having
captured none (log 133). -/
def execWfill (d : BitVec 6) (b : BitVec 5) (s0 : State) : Out :=
  let s := dropView (drain s0 true)
  let va := (rx s b).toNat
  if va % 16 ≠ 0 then .next (takeTrap s (plainTrap causeMisalign (rx s b)))
  else if fenced s clsV then .next (waitOn s .stall)
  else loadOut s (loadWords s (s.hart.vpath s) va 2) fun hd =>
    let desc := hd.getD 0 0
    let info := (hd.getD 1 0).toNat
    let w : WinOp := { num := d.toNat, role := 0, desc := desc, vl := natBits info 0 32, ring := ringOf s }
    if natBits info 32 16 ≠ grbOf s.hart.who.shape || !winFits s w then
      .next (takeTrap s (winTrap (.wfill d b) causeWindowRange w))
    else
      let o : Opd := { win := w, width := none, shape := true, reads := 0, writes := count w }
      if badSlot s o then .next (takeTrap s (winTrap (.wfill d b) causeSlotOwned w))
      else if heldBack s o then .next (waitOn s .stall)
      else fillFrame s d w va

/-! ## Length and mode (R151 to R153) -/

/-- VLMAX in bits (R5): 8 GRB, half of it on a degraded core. -/
def vlmaxBits (w : Ident) : Nat := if w.degr then grbOf w.shape * 4 else grbOf w.shape * 8

/-- Granting a length (R152): VMODE_ILL while VILL is 1. -/
def grantVl (s : State) (i : Instr) (d : BitVec 5) (want : Nat → Nat) : Out :=
  match modeIll s.hart.vec.vmode, modeTy s.hart.vec.vmode with
  | false, some ty =>
    let n := want (vlmaxBits s.hart.who / ty.width)
    setX (withVec s fun v => { v with vl := n }) d (BitVec.ofNat 64 n)
  | _, _ => .next (takeTrap s (modeTrap i))

/-- SETVL (R152). -/
def execSetvl (d a : BitVec 5) (s : State) : Out :=
  grantVl s (.setvl d a) d fun vlmax => if a = 0#5 then vlmax else min (rx s a).toNat vlmax

/-- The set bits of a mask. -/
def popMask (m : BitVec 1024) : Nat := (List.range 1024).countP fun i => m.getLsbD i

/-- The lowest set bit of a mask. -/
def firstBit (m : BitVec 1024) : Option Nat := (List.range 1024).find? fun i => m.getLsbD i

/-- MPOPVL (R152). -/
def execMpopvl (d : BitVec 5) (k : BitVec 6) (s : State) : Out :=
  grantVl s (.mpopvl d k) d fun vlmax => min (popMask (rm s k.toNat)) vlmax

/-- MCNT (R155). -/
def execMcnt (d : BitVec 5) (k : BitVec 6) (s : State) : Out := setX s d (BitVec.ofNat 64 (popMask (rm s k.toNat)))

/-- MFIRST (R155). -/
def execMfirst (d : BitVec 5) (k : BitVec 6) (s : State) : Out :=
  setX s d (match firstBit (rm s k.toNat) with | some n => BitVec.ofNat 64 n | none => BitVec.allOnes 64)

/-- VMODE with its low 25 bits written (R94). -/
def setVmode (s : State) (m : BitVec 25) : State := withVec s fun v => { v with vmode := makeVmode m }

/-- SETMODE (R153). -/
def execSetmode (m : BitVec 25) (s : State) : Out := .next (advance (setVmode s m))

/-- SETMODEX (R153). -/
def execSetmodex (d a : BitVec 5) (s : State) : Out :=
  setX (setVmode s ((rx s a).setWidth 25)) d s.hart.vec.vmode

/-! ## Masks (R154) -/

/-- A mask instruction: every source bit is read before the destination is written. -/
def maskOp (s : State) (d : BitVec 6) (v : BitVec 1024) : Out := .next (advance (wm s d.toNat v))

/-- MAND (R154). -/
def execMand (d a b : BitVec 6) (s : State) : Out := maskOp s d (rm s a.toNat &&& rm s b.toNat)

/-- MOR (R154). -/
def execMor (d a b : BitVec 6) (s : State) : Out := maskOp s d (rm s a.toNat ||| rm s b.toNat)

/-- MXOR (R154). -/
def execMxor (d a b : BitVec 6) (s : State) : Out := maskOp s d (rm s a.toNat ^^^ rm s b.toNat)

/-- MANDN (R154). -/
def execMandn (d a b : BitVec 6) (s : State) : Out := maskOp s d (rm s a.toNat &&& ~~~rm s b.toNat)

/-- MSBF (R154). -/
def execMsbf (d a : BitVec 6) (s : State) : Out :=
  maskOp s d (match firstBit (rm s a.toNat) with | some n => BitVec.ofNat 1024 (2 ^ n - 1) | none => BitVec.allOnes 1024)

/-! ## BRLOOP (R156) -/

/-- The fields of LC (R143). -/
def lcIters (lc : Word) : Nat := wBits lc 0 32
def lcSm1 (lc : Word) : Nat := wBits lc 32 4
def lcStep (lc : Word) : Nat := wBits lc 52 9

/-- RCUR after a pass. -/
def nextRcur (v : VecState) : Nat :=
  if v.rlo < v.rhi then (v.rcur + lcStep v.lc % (v.rhi - v.rlo)) % (v.rhi - v.rlo) % 512 else v.rcur

/-- BRLOOP (R156). -/
def execBrloop (o : BitVec 15) (s : State) : Out :=
  let v := s.hart.vec
  let last := lcIters v.lc + lcSm1 v.lc
  if lcIters v.lc = 0 || last ≤ v.pass then .next (advance s)
  else
    let t := withVec s fun v => { v with pass := v.pass + 1, rcur := nextRcur v }
    .next (complete t (if v.pass + 1 < last then s.hart.pc + o.signExtend 64 * 4 else s.hart.pc + 4))

end Sys2Proof.Machine
end

