-- ==== Sys2Proof/Machine/VecMem.lean ====
section
/-!
DEFINITION. Memory instructions of majors 0x60 to 0x68: handles (R210), tile, contiguous, strided and gathered accesses
(R211 to R215), SCATADD (R216), linked access (R217), atomics (R218, R219), VWAIT (R220), streams (R221, R222), PREF (R223).
-/
namespace Sys2Proof.Machine

open Sys2Proof

/-! ## Handle instructions (R210) -/

/-- A handle that passes its check: valid, with the level entries it holds. A GRID's are read on the S path (R258). -/
def checkedHandle (s : State) (h : Handle) : MRes (Option Handle) :=
  if h.kind = kindGrid then
    if !gridOk h then .ok none
    else (loadWords s (s.hart.path s) h.lvt h.gridL).bind fun es =>
      .ok (if es.all levelOk then some { h with valid := true, levels := es } else none)
  else .ok (if tensorOk h then some { h with valid := true, levels := [] } else none)

/-- A handle that becomes valid, or HANDLE_BAD. -/
def validate (s : State) (i : Instr) (k : Nat) (h : Handle) : Out :=
  loadOut s (checkedHandle s h) fun r =>
    match r with
    | some g => .next (advance (wh s k g))
    | none => trapWord s i causeHandleBad

/-- HSET (R210). -/
def execHset (h n : BitVec 4) (a : BitVec 5) (s0 : State) : Out :=
  let s := syncScalar s0
  let g := (rh s h.toNat).put n.toNat (rx s a)
  if n = 0#4 then
    if g.kind = kindGrid && fenced s clsS then .next (waitOn s .stall) else validate s (.hset h n a) h.toNat g
  else .next (advance (wh s h.toNat { g with valid := false, levels := [] }))

/-- A handle of eight double words. -/
def handleOf (ws : List Word) : Handle :=
  { dw := Vector.ofFn fun i => ws.getD i.val 0, valid := false, levels := [] }

/-- HLD (R210). -/
def execHld (h : BitVec 4) (a : BitVec 5) (s0 : State) : Out :=
  let s := syncScalar s0
  let va := (rx s a).toNat
  if va % 64 ≠ 0 then .next (takeTrap s (plainTrap causeMisalign (rx s a)))
  else if fenced s clsS then .next (waitOn s .stall)
  else loadOut s (loadWords s (s.hart.path s) va 8) fun ws => validate s (.hld h a) h.toNat (handleOf ws)

/-- The bytes of double words stored from `va` on, each as its own raw store moves it. -/
def lineBytes (s : State) (asid : Nat) : Nat → List Word → List Byte
  | _, [] => []
  | va, w :: t => bytesOfNat 8 (rawValue s asid va 8 w.toNat) ++ lineBytes s asid (va + 8) t

/-- The store of HST: one line, whole or not at all, which clears its poison mark (R113, R344). -/
def storeLine (s : State) (p : Path) (va : Nat) (ws : List Word) : MRes State :=
  (placeOf s p va 64 .store .fifoOnly).bind fun l =>
    (storeAt s p l va (lineBytes s p.sp.asid va ws)).bind fun t => .ok (clearLines s t p fun _ => [(va, 64)])

/-- HST (R210): its faults are those of R113, at its address. -/
def execHst (h : BitVec 4) (a : BitVec 5) (s0 : State) : Out :=
  let s := dropScalar s0
  scalarAccess s ((storeLine s (s.hart.path s) (rx s a).toNat (rh s h.toNat).dw.toList).bind fun t => .ok (advance t))

/-- HGET (R210). -/
def execHget (h n : BitVec 4) (a : BitVec 5) (s : State) : Out :=
  setX s a (BitVec.ofNat 64 ((rh s h.toNat).word n.toNat))

/-! ## Elements that access memory (R211, R212) -/

/-- The trap of a memory fault at element k of data window `w`, with the VSTART it leaves (R53, R54, R212). -/
def memTrap (cause : BitVec 8) (w : WinOp) (addr : Nat) (ovl : Bool) (k vstart : Nat) : Trap :=
  { cause := cause, tval := BitVec.ofNat 64 addr
    pos := .element w.num w.role ovl (elemCell w k).1 (k / neff w) (k % neff w) w.desc vstart }

/-- Ordered elements: each in turn, up to the first that faults. -/
def orderedLoop (g : Nat → Bool) (f : State → Nat → MRes State) (mk : BitVec 8 → Nat → Nat → Trap) : Nat → Nat → State → VRes
  | 0, _, s => .ok s
  | m + 1, k, s =>
    if !g k then orderedLoop g f mk m (k + 1) s
    else match f s k with
      | .ok t => orderedLoop g f mk m (k + 1) t
      | .trap c a => .trap s (mk c a k)
      | .wait w => .wait w

/-- Element k is active. -/
def activeAt (s : State) (w : WinOp) (k : Nat) : Bool := guardOn s (k % neff w)

/-- An ordered instruction over data window `w` (R212); `srcs` are its other windows, and it `may` stop before an element
(R21). -/
def ordered (s : State) (w : WinOp) (srcs : List WinOp) (ovl : Bool) (may : Nat → Bool) (f : State → Nat → MRes State) : VRes :=
  struckLoop s w srcs ovl may fun m => orderedLoop (activeAt s w) f (fun c a k => memTrap c w a ovl k k) m s.hart.vec.vstart s

/-- The elements of one batch in ascending order, those of an unordered VAMO too (log 145); the first that fails, with its cause and
address. -/
def batchRun (f : State → Nat → MRes State) : List Nat → State → Except (MRes Nat × Nat) State
  | [], s => .ok s
  | k :: t, s =>
    match f s k with
    | .ok s' => batchRun f t s'
    | .trap c a => .error (.trap c a, k)
    | .wait w => .error (.wait w, k)

/-- The bits of CMASK that batch n covers. -/
def batchBits (n : Nat) : BitVec 1024 := (BitVec.allOnes 64).setWidth 1024 <<< (64 * n)

/-- The batches n, n + 1, ... of the segment that starts at index b (R212). A batch that faults performs nothing. -/
def batchLoop (act : Nat → Bool) (total b : Nat) (f : State → Nat → MRes State) (mk : BitVec 8 → Nat → Nat → Nat → Trap) :
    Nat → Nat → State → VRes
  | 0, _, s => .ok s
  | m + 1, n, s =>
    let ks := (List.range 64).filterMap fun j =>
      let k := b + 64 * n + j
      if k < total && act k && !s.hart.vec.cmask.getLsbD (64 * n + j) then some k else none
    match batchRun f ks s with
    | .ok t => batchLoop act total b f mk m (n + 1) (withVec t fun v => { v with cmask := v.cmask ||| batchBits n })
    | .error (.trap c a, k) => .trap (withVec s fun v => { v with vstart := b }) (mk c a k b)
    | .error (.wait w, _) => .wait w
    | .error (.ok _, _) => .ok s

/-- The segments from index b on. -/
def segLoop (act : Nat → Bool) (total : Nat) (f : State → Nat → MRes State) (mk : BitVec 8 → Nat → Nat → Nat → Trap) :
    Nat → Nat → State → VRes
  | 0, _, s => .ok s
  | m + 1, b, s =>
    match batchLoop act total b f mk 16 0 s with
    | .ok t => segLoop act total f mk m (b + 1024) (withVec t fun v => { v with vstart := b + 1024, cmask := 0 })
    | r => r

/-- An unordered instruction that is asked to stop in the segment from index b on, with the elements of `done` complete
(R21): CMASK and VSTART say which are. None where one of them does not perform, where VSTART has no such segment, or where
`keeps` says that elements complete before others that they must not come before. -/
def stopUnordered (s : State) (act : Nat → Bool) (total : Nat) (f : State → Nat → MRes State) (mk : BitVec 8 → Nat → Nat → Nat → Trap)
    (keeps : List Nat → List Nat → Bool) (b : Nat) (done : BitVec 1024) : Option VRes :=
  let v0 := s.hart.vec.vstart
  if b < v0 || (b - v0) % 1024 ≠ 0 || total ≤ b then none
  else match segLoop act total f mk ((b - v0) / 1024) v0 s with
    | .ok t =>
      let left := (List.range (total - b)).filterMap fun j =>
        if act (b + j) && !(decide (j < 1024) && t.hart.vec.cmask.getLsbD j) then some (b + j) else none
      let ks := left.filter fun k => decide (k < b + 1024) && done.getLsbD (k - b)
      let before := (List.range b).filter fun k => decide (v0 ≤ k) && act k
      (match keeps (before ++ ks) (left.filter fun k => !ks.contains k), batchRun f ks t with
      | true, .ok u => some (.stop (withVec u fun v => { v with vstart := b, cmask := v.cmask ||| done }))
      | _, _ => none)
    | _ => none

/-- An unordered instruction of `total` elements (R212): on completion CMASK is clear. It stops inside where it is asked to,
and meets an uncorrectable error at an element as it meets a fault (R21, R344). -/
def unorderedRun (s : State) (act : Nat → Bool) (total : Nat) (f : State → Nat → MRes State) (mk : BitVec 8 → Nat → Nat → Nat → Trap)
    (keeps : List Nat → List Nat → Bool) : VRes :=
  let v0 := s.hart.vec.vstart
  let all (g : State → Nat → MRes State) (mk : BitVec 8 → Nat → Nat → Nat → Trap) : VRes :=
    (segLoop act total g mk (ceilDiv (total - v0) 1024) v0 s).map fun t => withVec t fun v => { v with cmask := 0 }
  match s.hart.strike with
  | some (.stop b done) => (stopUnordered s act total f mk keeps b done).getD (all f mk)
  | some (.fault j _ lane) =>
    all (fun u k => if k = j then .trap causeDataUe 0 else f u k)
      (fun c a k b => { mk c a k b with lane := if k = j then groupLane lane else 0xFFFF })
  | _ => all f mk

/-- An unordered instruction over data window `w`. -/
def unordered (s : State) (w : WinOp) (ovl : Bool) (keeps : List Nat → List Nat → Bool) (f : State → Nat → MRes State) : VRes :=
  unorderedRun s (activeAt s w) (count w) f (fun c a k b => memTrap c w a ovl k b) keeps

/-- A load by indices stops with elements done whose cells hold no index of one that is left (R21, R52). -/
def loadKeeps (s : State) (wd wa : WinOp) (done left : List Nat) : Bool :=
  (boundTo s wa.num).isSome
  || !spansMeet (done.map fun k => cellSpan wd.desc (elemCell wd k)) (left.map fun k => cellSpan wa.desc (elemCell wa k))

/-- The place that an access to an address comes to, by its number. -/
def placeKey (s : State) (p : Path) (va : Nat) (k : AccKind) : Option Nat :=
  match locate s p va k with
  | .ok l => some (locKey l)
  | _ => none

/-- A store by indices of `n` bytes each stops with elements done none of which overlaps in memory, whatever their pages, one that
is left and comes before it: of two elements to one byte the later one's value stays (R266). -/
def storeKeeps (at_ : Nat → Option Nat) (n : Nat) (done left : List Nat) : Bool :=
  done.all fun k => left.all fun j => decide (k < j) || match at_ k, at_ j with
    | some x, some y => decide (x + n ≤ y) || decide (y + n ≤ x)
    | _, _ => false

/-- The active elements that a storing instruction over window `w` which started in `s` has performed when it leaves off at
VSTART `v` with `t`'s CMASK; one that has ended has performed all. `un` says that it is unordered. -/
def performedElems (s t : State) (w : WinOp) (un : Bool) (v : Option Nat) : List Nat :=
  let left (x : State) (b k : Nat) : Bool := decide (b ≤ k) && !(un && decide (k < b + 1024) && x.hart.vec.cmask.getLsbD (k - b))
  (List.range (count w)).filter fun k => activeAt s w k && left s s.hart.vec.vstart k
    && (match v with | none => true | some b => !left t b k)

/-- The poison marks of the lines that a storing instruction has written whole are cleared (R344). `at_` gives the address
and the bytes of an element. -/
def VRes.cleaning (s : State) (w : WinOp) (un : Bool) (at_ : Nat → Nat × Nat) (r : VRes) : VRes :=
  match r with
  | .ok t => .ok (clearLines s t (s.hart.path s) fun _ => (performedElems s t w un none).map at_)
  | .trap t tr => .trap (clearLines s t (s.hart.path s) fun _ => (performedElems s t w un (some (trapVstart 0 tr.pos))).map at_) tr
  | .stop t => .stop (clearLines s t (s.hart.path s) fun _ => (performedElems s t w un (some t.hart.vec.vstart)).map at_)
  | .wait x => .wait x

/-- A vector access waits while a fence holds its class back (R255). -/
def fencedRes (s : State) (r : VRes) : VRes := if fenced s clsV then .wait .stall else r

/-- A view serves a load whose address has these X registers: none of them depends on a later load of the scalar stream
(R270). -/
def viewServes (s : State) (v : View) (xs : List (BitVec 5)) : Bool := viewFresh s v && xs.all fun r => !v.taint.getLsbD r.toNat

/-- A load of the vector stream from the addresses in `xs`, of the elements at `spans`: `run` performs it in a state, reading
memory in another through a path. Its stream's stores have performed. Where the hart has a view that serves, an access of
ordinary memory is made there (R269); any other is made now, and ends the view (R266). -/
def vload (s : State) (xs : List (BitVec 5)) (spans : Unit → List (Nat × Nat)) (run : State → State → Path → VRes) : VRes :=
  let t := drain s true
  let now : VRes := let u := dropView t; run u u (u.hart.vpath u)
  match t.hart.weak.viewV with
  | none => run t t (t.hart.vpath t)
  | some v =>
    let w := v.reads (spanKeys t (t.hart.vpath t) (spans ()))
    if viewServes t w xs then
      let r := viewed t (t.hart.vpath t) v
      match run { t with hart := { t.hart with weak := { t.hart.weak with viewV := some w } } } r.1 r.2 with
      | .ok u => .ok u
      | _ => now
    else now

/-- The spans of a load over window `w`: element k lies at `va k`, and is `n` bytes long. -/
def loadSpans (s : State) (w : WinOp) (un : Bool) (va : Nat → Nat) (n : Nat) : Unit → List (Nat × Nat) :=
  fun _ => (performedElems s s w un none).map fun k => (va k, n)

/-! ## LDT and STT (R213) -/

/-- The point of element k: its cell before rotation against the window's first cell. -/
def tilePoint (c : List Nat) (w : WinOp) (k : Nat) : Point :=
  let o := k / neff w
  let i := k % neff w
  let (q, _) := baseCell w.desc o i
  let col : Int := if wKind w.desc = kindAdiag then -(i : Int) else if wKind w.desc = kindCol then 0 else (i : Int)
  pointAt c col ((q - wRow0 w.desc : Nat) : Int)

/-- A handle that must be a valid TENSOR. -/
def tensorAt (s : State) (k : Nat) : Option Handle := if (rh s k).isA kindTensor then some (rh s k) else none

/-- One element of LDT, and the cause of an enabled flag. -/
def ldtElem (s0 : State) (p : Path) (h : Handle) (c : List Nat) (w : WinOp) (ty : Ty) (k : Nat) : MRes (Nat × Flags) :=
  let pt := tilePoint c w k
  if !h.inside pt then .ok (0, 0)
  else (readPoint s0 p h pt ty).bind fun x => .ok (convPoint (vmodePolicy s0) ty x)

/-- LDT's elements: memory faults and enabled flags are both precise at an element. -/
def ldtLoop (s0 : State) (p : Path) (i : Instr) (h : Handle) (c : List Nat) (w : WinOp) (ty : Ty) : Nat → Nat → State → VRes
  | 0, _, s => .ok s
  | m + 1, k, s =>
    if !activeAt s0 w k then ldtLoop s0 p i h c w ty m (k + 1) s
    else match ldtElem s0 p h c w ty k with
      | .ok (v, fl) =>
        match trapCause fl (modeTe s0.hart.vec.vmode) false with
        | some cause => .trap s (elemTrap cause w ((wordOf i).setWidth 64) false k)
        | none => ldtLoop s0 p i h c w ty m (k + 1) (orVflags (writeElem s w k v) fl)
      | .trap cause a => .trap s (memTrap cause w a false k k)
      | .wait x => .wait x

/-- A data window of a memory instruction that must not be an SPAIR. -/
def dataDst (s : State) (w : WinOp) (ty : Ty) : Opd := dstOpd s w ty.width (count w) (!isPair w)
def dataSrc (w : WinOp) (ty : Ty) : Opd :=
  { win := w, width := some ty.width, shape := !isPair w, reads := count w, writes := 0 }

/-- HANDLE_BAD of an instruction whose handle is none (R210, R213). -/
def handleTrap (i : Instr) : Option Handle → Option Trap
  | some _ => none
  | none => some (plainTrap causeHandleBad ((wordOf i).setWidth 64))

/-- LDT (R213). -/
def execLdt (h : BitVec 4) (a b : BitVec 5) (w : BitVec 6) (s : State) : Out :=
  let i := Instr.ldt h a b w
  let d := winOp s w 0
  match vecGateX s i (fun _ => true) (fun ty => [dataDst s d ty]) (fun _ => handleTrap i (tensorAt s h.toNat)) with
  | .error o => o
  | .ok ty =>
    vecOut s (groupsOf s d) (fencedRes s (vload s [a, b] (fun _ =>
      (performedElems s s d false none).map fun k => tileSpan s (s.hart.path s) (rh s h.toNat) (tilePoint (coords (rx s a) (rx s b)) d k))
      fun t r p => struckLoop t d [] false (fun _ => false) fun m =>
      ldtLoop r p i (rh s h.toNat) (coords (rx s a) (rx s b)) d ty m s.hart.vec.vstart t))

/-- STT (R213). -/
def execStt (h : BitVec 4) (a b : BitVec 5) (w : BitVec 6) (s : State) : Out :=
  let i := Instr.stt h a b w
  let d := winOp s w 0
  let ops (ty : Ty) : List Opd := [dataSrc d ty]
  match vecGateX s i (fun _ => true) ops (fun _ => handleTrap i (tensorAt s h.toNat)) with
  | .error o => o
  | .ok ty =>
    vecOut s (groupsOf s d) <| fencedRes s <| VRes.popping (ops ty) <|
      VRes.cleaning s d false (fun k => tileSpan s (s.hart.path s) (rh s h.toNat) (tilePoint (coords (rx s a) (rx s b)) d k)) <|
      ordered (dropView s) d [] false (fun _ => pops s (ops ty)) fun u k =>
        let pt := tilePoint (coords (rx s a) (rx s b)) d k
        if !(rh s h.toNat).inside pt then .ok u
        else writePoint s u (s.hart.vpath s) (rh s h.toNat) pt ty (srcElem s d k)

/-! ## LDV, STV, LDS, STS (R214) -/

/-- The address is a FIFO port's (R203). An access from any other base in their region is made element by element, and each
element faults for itself (R211, R212). -/
def isFifoVa (va : Nat) : Bool := va / 2 ^ 40 == 0xFE02 && fifoPort va

/-- Byte address and nibble of element k of a contiguous access. -/
def unitAddr (base : Word) (ew k : Nat) : Nat × Nat := ((base.toNat + k * ew / 8) % 2 ^ 64, if ew = 4 then k % 2 else 0)

/-- Byte address of element k of a strided access. -/
def strideAddr (base stride : Word) (k : Nat) : Nat := (base + BitVec.ofNat 64 k * stride).toNat

/-- The checks of a whole-window access of `bits` bits at a FIFO port (R204), before the queue is touched: the guard, then the byte
count (log 42). -/
def fifoCheck (s : State) (va bits : Nat) (k : AccKind) : MRes Nat :=
  if hasGuard s then .trap causeBankMode va
  else if bits % 64 ≠ 0 then .trap causeMisalign va
  else (locate s (s.hart.path s) va k).bind fun l =>
    match l with
    | .fifo key => .ok key
    | _ => .trap causeBankMode va

/-- A result at a FIFO port; its faults name the first element. -/
def fifoRes (s : State) (d : WinOp) (r : MRes State) : VRes :=
  match r with
  | .ok t => .ok t
  | .trap c a => .trap s (memTrap c d a false s.hart.vec.vstart s.hart.vec.vstart)
  | .wait w => .wait w

/-- The bits of count(w) elements. -/
def windowBits (d : WinOp) : Nat := count d * wEw d.desc

/-- LDV (R214, R204). At a FIFO port it pops all of its entries, and writes the elements from VSTART on (log 42); from a VSTART
at or above the count it moves nothing (R55). -/
def execLdv (a : BitVec 5) (w : BitVec 6) (s : State) : Out :=
  let d := winOp s w 0
  let base := rx s a
  let ew := wEw d.desc
  vecRun s (.ldv a w) (fun _ => true) (fun ty => [dataDst s d ty]) (groupsOf s d) fun _ s0 =>
    fencedRes s0 <|
    if isFifoVa base.toNat then
      let s := dropView (drain s0 true)
      if count d ≤ s.hart.vec.vstart then .ok s
      else fifoRes s d ((fifoCheck s base.toNat (windowBits d) .load).bind fun key =>
        (fifoPop s key (windowBits d / 64)).bind fun p =>
          .ok ((List.range (count d)).foldl (fun t k =>
            if s.hart.vec.vstart ≤ k then writeElem t d k (unpackElem ew (natOfWords p.2) k) else t) p.1))
    else vload s0 [a] (loadSpans s0 d false (fun k => (unitAddr base ew k).1) (elemBytes ew)) fun t r p => ordered t d [] false (fun _ => false) fun u k =>
      let x := unitAddr base ew k
      (loadElem r r p x.1 x.2 ew).bind fun v => .ok (writeElem u d k v)

/-- STV (R214, R204). At a FIFO port it pushes all of its entries, whatever VSTART below the count is (log 42). -/
def execStv (a : BitVec 5) (w : BitVec 6) (s : State) : Out :=
  let d := winOp s w 0
  let base := rx s a
  let ew := wEw d.desc
  let ops (ty : Ty) : List Opd := [dataSrc d ty]
  vecRun s (.stv a w) (fun _ => true) ops (groupsOf s d) fun ty s0 =>
    fencedRes s0 <| VRes.popping (ops ty) <| VRes.cleaning s0 d false (fun k => ((unitAddr base ew k).1, elemBytes ew)) <|
    if isFifoVa base.toNat then
      let s := dropView (drain s0 true)
      if count d ≤ s.hart.vec.vstart then .ok s
      else fifoRes s d ((fifoCheck s base.toNat (windowBits d) .store).bind fun key =>
        fifoPush s key (wordsOfNat (windowBits d / 64) (packElems ew ((List.range (count d)).map (srcElem s d)))))
    else ordered (dropView s0) d [] false (fun _ => pops s0 (ops ty)) fun t k =>
      let x := unitAddr base ew k
      storeElem s0 t (s0.hart.vpath s0) x.1 x.2 ew (srcElem s0 d k)

/-- LDS (R214): of 4-bit elements, the low nibble of each byte. -/
def execLds (a b : BitVec 5) (w : BitVec 6) (s : State) : Out :=
  let d := winOp s w 0
  let ew := wEw d.desc
  vecRun s (.lds a b w) (fun _ => true) (fun ty => [dataDst s d ty]) (groupsOf s d) fun _ t =>
    fencedRes t (vload t [a, b] (loadSpans t d false (strideAddr (rx s a) (rx s b)) (elemBytes ew)) fun t r p => ordered t d [] false (fun _ => false) fun u k =>
      (loadElem r r p (strideAddr (rx s a) (rx s b) k) 0 ew).bind fun v => .ok (writeElem u d k v))

/-- STS (R214). -/
def execSts (a b : BitVec 5) (w : BitVec 6) (s : State) : Out :=
  let d := winOp s w 0
  let ew := wEw d.desc
  let ops (ty : Ty) : List Opd := [dataSrc d ty]
  vecRun s (.sts a b w) (fun _ => true) ops (groupsOf s d) fun ty t =>
    fencedRes t <| VRes.popping (ops ty) <| VRes.cleaning s d false (fun k => (strideAddr (rx s a) (rx s b) k, elemBytes ew)) <|
      ordered (dropView t) d [] false (fun _ => pops s (ops ty)) fun u k => storeElem s u (s.hart.vpath s) (strideAddr (rx s a) (rx s b) k) 0 ew (srcElem s d k)

/-! ## Gathers and scatters (R215) -/

/-- The index window: signed byte offsets of 32 or 64 bits. -/
def indexOpd (w : WinOp) (need : Nat) : Opd :=
  { srcOpd w (if wEw w.desc = 64 then 64 else 32) need with reads := need }

/-- a_k of R215. -/
def gathAddr (s : State) (base : Word) (a : WinOp) (k : Nat) : Nat :=
  addr64 ((base.toNat : Int) + intOf true (wEw a.desc) (srcElem s a k))

/-- The operands of an instruction that writes wd from addresses in wa, or that stores it; `rd`, `wr` say which. -/
def gathOpds (s : State) (d a : WinOp) (rd wr : Bool) (ty : Ty) : List Opd :=
  [{ win := d, width := some ty.width, shape := !(wr && (boundTo s d.num).isSome), reads := if rd then count d else 0,
     writes := if wr then count d else 0 }, indexOpd a (count d)]

/-- GATH (R215). -/
def execGath (d a : BitVec 6) (b : BitVec 5) (s : State) : Out :=
  let wd := winOp s d 0
  let wa := winOp s a 1
  let ops := gathOpds s wd wa false true
  vecRun s (.gath d a b) (fun _ => true) ops (groupsOf s wd) fun ty t =>
    fencedRes t (VRes.popping (ops ty) (vload t [b] (loadSpans t wd true (gathAddr s (rx s b) wa) (elemBytes ty.width)) fun t r p =>
      unordered t wd (overlaps wd (count wd) (ops ty)) (loadKeeps s wd wa) fun u k =>
      (loadElem r r p (gathAddr s (rx s b) wa k) 0 ty.width).bind fun v => .ok (writeElem u wd k v)))

/-- SCAT (R215). -/
def execScat (d a : BitVec 6) (b : BitVec 5) (s : State) : Out :=
  let wd := winOp s d 0
  let wa := winOp s a 1
  let ops := gathOpds s wd wa true false
  vecRun s (.scat d a b) (fun _ => true) ops (groupsOf s wd) fun ty t =>
    fencedRes t <| VRes.popping (ops ty) <| VRes.cleaning s wd true (fun k => (gathAddr s (rx s b) wa k, elemBytes ty.width)) <|
      unordered (dropView t) wd false (storeKeeps (fun k => placeKey s (s.hart.vpath s) (gathAddr s (rx s b) wa k) .store) (elemBytes ty.width)) fun t k => storeElem s t (s.hart.vpath s) (gathAddr s (rx s b) wa k) 0 ty.width (srcElem s wd k)

/-! ## SCATADD (R216) -/

/-- The types of SCATADD. -/
def isAddTy (ty : Ty) : Bool :=
  match ty with
  | .int _ w => w == 32 || w == 64
  | .flt f => f == fmtF32 || f == fmtBF16 || f == fmtF16

/-- An addition of the combining store or the bank adder: one RNE rounding without flags, or wrapping (R216). -/
def bankSum (ty : Ty) (x y : Nat) : Nat :=
  match ty with
  | .int _ w => (x + y) % 2 ^ w
  | .flt f => (rnd f .plain ((f.decode x).add 0 (f.decode y)).1).1

/-- A partial of the combining store is formed: the first contribution exactly, each later one added (R216). -/
def addPartial (sum : Nat → Nat → Nat) (key va v : Nat) : List (Nat × Nat × Nat) → List (Nat × Nat × Nat)
  | [] => [(key, va, v)]
  | (k, a, x) :: t => if k = key then (k, a, sum x v) :: t else (k, a, x) :: addPartial sum key va v t

/-- The contributions in ascending k, at virtual address `va k`: the partials, each with its place and the address of
its first contribution, and the faults with their elements. Two virtual addresses of one place have one partial (log 143). -/
def scatContribs (f : Nat → MRes Loc) (va : Nat → Nat) (sum : Nat → Nat → Nat) (val : Nat → Nat) :
    List Nat → MRes (List (Nat × Nat × Nat) × List (BitVec 8 × Nat × Nat))
  | ks => go ks []
where
  go : List Nat → List (Nat × Nat × Nat) → MRes (List (Nat × Nat × Nat) × List (BitVec 8 × Nat × Nat))
    | [], ps => .ok (ps, [])
    | k :: t, ps =>
      match f k with
      | .ok l => go t (addPartial sum (locKey l) (va k) (val k) ps)
      | .trap c a => (go t ps).bind fun r => .ok (r.1, (c, a, val k) :: r.2)
      | .wait w => .wait w

/-- Issuing bank adds: one for each partial (R216, R262). -/
def issueAdds (s : State) (i : Instr) (ty : BitVec 8) (cmd : Option Nat) (ps : List (Nat × Nat × Nat)) : State :=
  let deps := (s.hart.eng.fences.filter fun f => f.after.getLsbD clsRED).flatMap (·.before)
  let adds := ps.mapIdx fun j p =>
    ({ id := s.nextId + j, op := i, pa := p.1, va := p.2.1, ty := ty, part := p.2.2, cmd := cmd, deps := deps } : BankAdd)
  { withEng s fun g => { g with adds := g.adds ++ adds } with nextId := s.nextId + ps.length }

/-- The elements a starting VSTART and CMASK leave to an instruction that reads them as an unordered one (R212, R216). -/
def pendingElems (s : State) (n : Nat) (act : Nat → Bool) : List Nat :=
  (List.range n).filter fun k =>
    let b := s.hart.vec.vstart
    decide (b ≤ k) && act k && !(decide (k < b + 1024) && s.hart.vec.cmask.getLsbD (k - b))

/-- SCATADD (R216). -/
def execScatadd (d a : BitVec 6) (b : BitVec 5) (s : State) : Out :=
  let i := Instr.scatadd d a b
  let wd := winOp s d 0
  let wa := winOp s a 1
  let ops := gathOpds s wd wa true false
  vecRun s i isAddTy ops (groupsOf s wd) fun ty t =>
    let p : Path := { s.hart.vpath s with remote := some true, post := none }
    let r := scatContribs (fun k => placeOf s p (gathAddr s (rx s b) wa k) (ty.width / 8) .store .fifoOnly)
      (gathAddr s (rx s b) wa) (bankSum ty) (srcElem s wd) (pendingElems s (count wd) (activeAt s wd))
    match r with
    | .ok (ps, faults) =>
      let t1 := faults.foldl (fun u f => errataPending u f.2.1 f.2.2 (wordOf i) f.1 clsRED) t
      let t2 := issueAdds t1 i (fld s.hart.vec.vmode 0 8) none ps
      .ok (popAll (withVec t2 fun v => { v with cmask := 0 }) (ops ty))
    | .trap c x => .trap t (plainTrap c (BitVec.ofNat 64 x))
    | .wait w => .wait w

/-! ## Linked access (R217) -/

/-- The types of GLINK and SCOND. -/
def isLinkTy (ty : Ty) : Bool := match ty with | .int _ w => w == 32 || w == 64 | .flt _ => false

/-- The place is in a remote module, whose lines never hold a tag. -/
def locRemote : Loc → Bool
  | .pa a _ _ => paRemote a
  | _ => false

/-- A link tag on a line. -/
def addTag (ls : List (Nat × Bool)) (line : Nat) : List (Nat × Bool) := if ls.any (·.1 == line) then ls else ls ++ [(line, true)]

/-- GLINK's element: the load, and the tag on its line. -/
def glinkElem (s : State) (p : Path) (wd : WinOp) (ty : Ty) (va : Nat) (t : State) (k : Nat) : MRes State :=
  (placeOf s p va (ty.width / 8) .load .fifoOnly).bind fun l =>
    if locPoisoned s l then .trap causeDataUe va
    else
      let t1 := writeElem t wd k (rawValue s p.sp.asid va (ty.width / 8) (natOfBytes (locBytes s l (ty.width / 8))))
      .ok (if locRemote l then t1
           else withEng t1 fun g => { g with link := some (addTag (g.link.getD []) (locLine l)) })

/-- GLINK (R217): the whole link set is replaced; from a VSTART at or above the count nothing happens (R55, log 103). -/
def execGlink (d a : BitVec 6) (b : BitVec 5) (s : State) : Out :=
  let wd := winOp s d 0
  let wa := winOp s a 1
  let ops := gathOpds s wd wa false true
  vecRun s (.glink d a b) isLinkTy ops (groupsOf s wd) fun ty t =>
    let t0 := withEng (dropView (drain t true)) fun g => { g with link := some [] }
    if count wd ≤ s.hart.vec.vstart then .ok (popAll t (ops ty))
    else fencedRes t <| VRes.popping (ops ty) <| match ordered t0 wd [wa] (overlaps wd (count wd) (ops ty)) (popStop s wd (ops ty) false) (fun u k =>
        glinkElem t0 (s.hart.vpath s) wd ty (gathAddr s (rx s b) wa k) u k) with
      | .trap u tr => .trap (withEng u fun g => { g with link := s.hart.eng.link }) tr
      | r => r

/-- The hart holds an unbroken tag on a line. -/
def holdsTag (s : State) (line : Nat) : Bool :=
  match s.hart.eng.link with
  | some ls => ls.any fun p => p.1 == line && p.2
  | none => false

/-- SCOND's element: the store where the tag is unbroken, and bit k of M0. One that fails performs no access (R274): what a
remote module or a lost CXL tier would make of it does not matter. -/
def scondElem (s : State) (p : Path) (ty : Ty) (va v : Nat) (t : State) (k : Nat) : MRes State :=
  (tagPlace s p va (ty.width / 8)).bind fun r =>
    if locRemote r || !holdsTag t (locLine r) then .ok (wm t 0 (putBit (rm t 0) k false))
    else (placeOf s p va (ty.width / 8) .store .fifoOnly).bind fun l =>
      (putBytes t l (some t.hart.who.id) va (bytesOfNat (ty.width / 8) (rawValue t p.sp.asid va (ty.width / 8) v))).bind fun u => .ok (wm u 0 (putBit (rm u 0) k true))

/-- SCOND (R217); from a VSTART at or above the count nothing happens (R55, log 103). -/
def execScond (d a : BitVec 6) (b : BitVec 5) (s : State) : Out :=
  let i := Instr.scond d a b
  let wd := winOp s d 0
  let wa := winOp s a 1
  let ops := gathOpds s wd wa true false
  vecRun s i isLinkTy ops (groupsOf s wd) fun ty t =>
    if count wd ≤ s.hart.vec.vstart then .ok (popAll t (ops ty))
    else if s.hart.eng.link.isNone then .trap t (plainTrap causeScondNolink ((wordOf i).setWidth 64))
    else fencedRes t <| VRes.map (fun u =>
        popAll (withEng (wm u 0 (lowBits (rm u 0) (count wd))) fun g => { g with link := none }) (ops ty)) <|
      ordered (dropView (drain t true)) wd [wa] false (fun _ => pops s (ops ty)) fun u k =>
        scondElem s (s.hart.vpath s) ty (gathAddr s (rx s b) wa k) (srcElem s wd k) u k

/-! ## Atomics (R218, R219) -/

/-- The new value of an integer or swap operation (R218); `w` bits, compared signed or unsigned. -/
def amoValue (op : Nat) (sg : Bool) (w m v : Nat) : Nat :=
  match op with
  | 0 => (m + v) % 2 ^ w
  | 1 => m &&& v
  | 2 => m ||| v
  | 3 => m ^^^ v
  | 4 => if intOf sg w v < intOf sg w m then v else m
  | 5 => if intOf sg w m < intOf sg w v then v else m
  | _ => v

/-- FADD's value and flags (R219). -/
def amoFadd (f : Fmt) (p : Policy) (m v : Nat) : Nat × Flags :=
  let x := (f.decodeIn p m).add p.rm (f.decodeIn p v)
  let r := rnd f p x.1
  (r.1, r.2 ||| x.2)

/-- One indivisible read-modify-write of `n` bytes: the load's checks, then the store's; `f` gives the new value, or none
where nothing is stored. The place is found in `s`, the access made in `u`. -/
def amoAccess (s u : State) (p : Path) (va n : Nat) (f : Nat → Option Nat) : MRes (State × Nat) :=
  (placeOf s p va n .load .devFifo).bind fun l =>
    (placeOf s p va n .store .devFifo).bind fun _ =>
      if locPoisoned u l then .trap causeDataUe va
      else
        let m := rawValue u p.sp.asid va n (natOfBytes (locBytes u l n))
        match f m with
        | none => .ok (u, m)
        | some v => (putBytes u l none va (bytesOfNat n (rawValue u p.sp.asid va n v))).bind fun t => .ok (t, m)

/-- Engine commands, fetches and grid scatters of the hart are under way (R219, REL). -/
def enginesBusy (h : Hart) : Bool := !h.eng.cmds.isEmpty || !h.mat.fetches.isEmpty

/-- The types of VAMO by operation (R218). -/
def isAmoTy (op : Nat) (ty : Ty) : Bool :=
  match ty with
  | .int _ w => (w == 32 || w == 64) && op ≤ 6
  | .flt f => (f == fmtF32 || f == fmtF64) && (op == 6 || op == 7)

/-- An element of VAMO: the old value comes back into the window. -/
def vamoElem (s0 : State) (op : Nat) (wd : WinOp) (ty : Ty) (va : Nat) (t : State) (k : Nat) : MRes State :=
  let v := srcElem s0 wd k
  let n := ty.width / 8
  match ty with
  | .flt f =>
    if op = 7 then
      let p := vmodePolicy s0
      (amoAccess s0 t (s0.hart.vpath s0) va n fun m => some (amoFadd f p m v).1).bind fun r =>
        .ok (orVflags (writeElem r.1 wd k r.2) (amoFadd f p r.2 v).2)
    else (amoAccess s0 t (s0.hart.vpath s0) va n fun _ => some v).bind fun r => .ok (writeElem r.1 wd k r.2)
  | .int sg w =>
    (amoAccess s0 t (s0.hart.vpath s0) va n fun m => some (amoValue op sg w m v)).bind fun r => .ok (writeElem r.1 wd k r.2)

/-- ACQ: the hart's later engine commands see memory as it is from now on (R219). -/
def acquire (acq : Bool) (s : State) : State :=
  if acq then { s with hart := { s.hart with weak := { s.hart.weak with viewE := [] } } } else s

/-- VAMO in either order: REL waits for the hart's engine commands. -/
def vamoRun (s : State) (i : Instr) (d a : BitVec 6) (b : BitVec 5) (acq rel : Bool) (op : Nat) (ord : Bool) : Out :=
  let wd := winOp s d 0
  let wa := winOp s a 1
  let ops := gathOpds s wd wa true true
  vecRun s i (isAmoTy op) ops (groupsOf s wd) fun ty t =>
    if rel && enginesBusy t.hart then .wait .stall
    else
      let f (u : State) (k : Nat) : MRes State := vamoElem s op wd ty (gathAddr s (rx s b) wa k) u k
      let ovl := overlaps wd (count wd) (ops ty)
      let u := acquire acq (dropView (drain t true))
      fencedRes t (VRes.popping (ops ty) (if ord then ordered u wd [wa] ovl (stopKeeps s wd (ops ty) false) f else unordered u wd ovl (loadKeeps s wd wa) f))

/-- VAMO (R219). -/
def execVamo (d a : BitVec 6) (b : BitVec 5) (q r : BitVec 1) (p : BitVec 4) (s : State) : Out :=
  vamoRun s (.vamo d a b q r p) d a b (q == 1#1) (r == 1#1) p.toNat false

/-- VAMO.ORD (R219). -/
def execVamoOrd (d a : BitVec 6) (b : BitVec 5) (q r : BitVec 1) (p : BitVec 4) (s : State) : Out :=
  vamoRun s (.vamoOrd d a b q r p) d a b (q == 1#1) (r == 1#1) p.toNat true

/-- AMO (R219): FADD rounds under FCSR and never traps on a value. -/
def execAmo (d a b : BitVec 5) (e n q r : BitVec 1) (p : BitVec 4) (s0 : State) : Out :=
  let s := syncScalar s0
  let w := if e = 1#1 then 64 else 32
  let va := (rx s a).toNat
  let v := (rx s b).toNat % 2 ^ w
  let old := (rx s d).toNat % 2 ^ w
  let f := if e = 1#1 then fmtF64 else fmtF32
  let pol := policyOf s.hart.fcsr
  let op := p.toNat
  let new (m : Nat) : Option Nat :=
    if op = 7 then some (amoFadd f pol m v).1
    else if op = 8 then (if m = old then some v else none)
    else some (amoValue op (n == 0#1) w m v)
  if r = 1#1 && enginesBusy s.hart then .next (waitOn s .stall)
  else scalarAccess s ((amoAccess s s (s.hart.path s) va (w / 8) new).bind fun x =>
    let t := acquire (q == 1#1) (if op = 7 then orFcsr x.1 (amoFadd f pol x.2 v).2 else x.1)
    .ok (advance (wx t d (BitVec.ofNat 64 x.2))))

/-! ## VWAIT (R220) -/

/-- The condition of VWAIT on m and X[xb], at the width in use. -/
def vwaitHolds (c w m b : Nat) : Bool :=
  match c with
  | 0 => m == b
  | 1 => m != b
  | 2 => decide (intOf true w m < intOf true w b)
  | 3 => decide (intOf true w b ≤ intOf true w m)
  | 4 => decide (m < b)
  | 5 => decide (b ≤ m)
  | _ => m &&& b != 0

/-- VWAIT (R220). -/
def execVwait (d a b : BitVec 5) (e : BitVec 1) (c : BitVec 3) (s0 : State) : Out :=
  let s := syncScalar s0
  let w := if e = 1#1 then 64 else 32
  scalarAccess s ((loadNat s (s.hart.path s) (rx s a).toNat (w / 8) .devFifo).bind fun m =>
    if vwaitHolds c.toNat w m ((rx s b).toNat % 2 ^ w) then .ok (advance (wx s d (BitVec.ofNat 64 m)))
    else .wait .vwait)

/-! ## Streams (R221, R222) -/

/-- The hart's engine-queue entries in use (R227). -/
def queueUse (h : Hart) : Nat := h.eng.cmds.length + h.mat.fetches.length + h.eng.streams.length

/-- Dispatch of a command on counter `c` stalls: the queue is full, or the counter is at its limit (R227). -/
def cmdStalls (s : State) (c : Nat) : Bool := decide (32 ≤ queueUse s.hart) || (rc s c).count == 0xFFFF#16

/-- The earlier accesses that a FENCEX makes accesses of class `cls` wait for (R255). -/
def depsOf (s : State) (cls : Nat) : List Nat :=
  ((s.hart.eng.fences.filter fun f => f.after.getLsbD cls).flatMap (·.before)).filter (outstanding s.hart).contains

/-- The counter of a command goes up by 1 (R230). -/
def countUp (s : State) (c : Nat) : State := wc s c { rc s c with count := (rc s c).count + 1 }

/-- The bind itself: the counter goes up, and a window that was bound is unbound first. -/
def bindStream (s : State) (c : Nat) (t : Stream) : State :=
  let s1 := countUp (unbindWin s t.win) c
  evCount 0x0008 1 { withEng s1 fun g => { g with streams := g.streams ++ [{ t with id := s1.nextId }] } with nextId := s1.nextId + 1 }

/-- The checks of a bind before its block: R43 on the window, SPAIR, a fifth window, the handle (R221). -/
def bindChecks (s : State) (i : Instr) (h : BitVec 4) (w : BitVec 6) : Except Trap Ty :=
  let d := winOp s w 0
  match vecChecks s i (fun _ => true) (fun ty => [{ win := d, width := some ty.width, shape := !isPair d, reads := 0, writes := 0 }])
      (fun _ => none) with
  | .error t => .error t
  | .ok ty =>
    if (boundTo s w.toNat).isNone && decide (4 ≤ s.hart.eng.streams.length) then .error (winTrap i causeWindowRange d)
    else match handleTrap i (tensorAt s h.toNat) with
      | some t => .error t
      | none => .ok ty

/-- A stream of a handle from a start point. -/
def newStream (s : State) (i : Instr) (h c : BitVec 4) (w : BitVec 6) : Stream :=
  { id := 0, win := w.toNat, op := i, ctr := c.toNat, deps := depsOf s clsCPY, h := rh s h.toNat, vmode := s.hart.vec.vmode,
    raster := true, start := [], counts := [], steps := [], pos := 0, buf := [], faulted := false }

/-- L(p) of R221. -/
def rasterIndex (h : Handle) (c : List Nat) : Nat :=
  c.getD 0 0 + h.ext 0 * (c.getD 1 0 + h.ext 1 * (c.getD 2 0 + h.ext 2 * c.getD 3 0))

/-- The points of STRM's walk: empty from a start outside the extents. -/
def rasterPoints (h : Handle) (c : List Nat) : Nat :=
  if h.inside (pointAt c 0 0) then h.ext 0 * h.ext 1 * h.ext 2 * h.ext 3 - rasterIndex h c else 0

/-- STRM (R221). -/
def execStrm (h c : BitVec 4) (a b : BitVec 5) (w : BitVec 6) (s : State) : Out :=
  let i := Instr.strm h c a b w
  match bindChecks s i h w with
  | .error t => .next (takeTrap s t)
  | .ok _ =>
    if cmdStalls s c.toNat then .next (waitOn s .stall)
    else
      let st := coords (rx s a) (rx s b)
      .next (advance (bindStream s c.toNat
        { newStream s i h c w with start := st, counts := [rasterPoints (rh s h.toNat) st] }))

/-- The bits [8 off + n - 1 : 8 off] of a block held as a number. -/
def blockField (v off n : Nat) : Nat := natBits v (8 * off) n

/-- The step vectors of a block: twelve signed 16-bit numbers. -/
def blockSteps (v : Nat) : List Int := (List.range 12).map fun j => sextNat 16 (blockField v (32 + 2 * j) 16)

/-- STRMX with a block (R221). -/
def strmxBind (s0 : State) (h c : BitVec 4) (a : BitVec 5) (w : BitVec 6) : Out :=
  let s := syncScalar s0
  let i := Instr.strmx h c a w
  let va := (rx s a).toNat
  match bindChecks s i h w with
  | .error t => .next (takeTrap s t)
  | .ok _ =>
    if va % 64 ≠ 0 then .next (takeTrap s (plainTrap causeMisalign (rx s a)))
    else if fenced s clsS then .next (waitOn s .stall)
    else loadOut s (loadWords s (s.hart.path s) va 8) fun ws =>
      let v := natOfWords ws
      let ns := [blockField v 16 32, blockField v 20 32, blockField v 24 32]
      if blockField v 28 32 ≠ 0 || blockField v 56 64 ≠ 0 || ns.any (· == 0) then
        .next (takeTrap s (plainTrap causeParamBad (rx s a)))
      else if cmdStalls s c.toNat then .next (waitOn s .stall)
      else .next (advance (bindStream s c.toNat
        { newStream s i h c w with
          raster := false
          start := [blockField v 0 32, blockField v 4 32, blockField v 8 32, blockField v 12 32]
          counts := ns, steps := blockSteps v }))

/-- STRMX (R221). -/
def execStrmx (h c : BitVec 4) (a : BitVec 5) (w : BitVec 6) (s : State) : Out := strmxBind s h c a w

/-- STRMX Ww, X0 (R221): the window is unbound; nothing happens if it is not bound. It makes only the
decode tests, of which VILL is one. -/
def execStrmxUnbind (w : BitVec 6) (s : State) : Out :=
  if modeIll s.hart.vec.vmode then .next (takeTrap s (modeTrap (.strmxUnbind w))) else .next (advance (unbindWin s w.toNat))

/-- Point j of a stream's walk (R221). -/
def Stream.point (t : Stream) (j : Nat) : Point :=
  if t.raster then
    let l := rasterIndex t.h t.start + j
    let q0 := l / t.h.ext 0
    let q1 := q0 / t.h.ext 1
    { d0 := (l % t.h.ext 0 : Nat), d1 := (q0 % t.h.ext 1 : Nat), d2 := (q1 % t.h.ext 2 : Nat), d3 := (q1 / t.h.ext 2 : Nat) }
  else
    let n0 := t.counts.getD 0 1
    let n1 := t.counts.getD 1 1
    let js : List Int := [(j % n0 : Nat), (j / n0 % n1 : Nat), (j / n0 / n1 : Nat)]
    let co (d : Nat) : Int :=
      (t.start.getD d 0 : Int) + js.getD 0 0 * t.steps.getD d 0 + js.getD 1 0 * t.steps.getD (4 + d) 0
        + js.getD 2 0 * t.steps.getD (8 + d) 0
    { d0 := co 0, d1 := co 1, d2 := co 2, d3 := co 3 }

/-! ## PREF (R223) -/

/-- PREF has no architectural effect. -/
def execPref (_a _b : BitVec 5) (_w : BitVec 1) (_l : BitVec 2) (s : State) : Out := .next (advance s)

end Sys2Proof.Machine
end

