-- ==== Sys2Proof/Machine/Commands.lean ====
section
/-!
DEFINITION. What every engine command shares (R225 to R233): stage barriers (R251 to R254), dispatch, faults after issue,
and the end of a command.
-/
namespace Sys2Proof.Machine

open Sys2Proof

/-! ## Stage barriers (R251) -/

/-- A stage barrier's count and ERR. -/
abbrev StageBar := BitVec 32 × Bool

def sbGet (s : State) (serial n : Nat) : StageBar :=
  match launchAt s serial with
  | some l => tabGet (0#32, false) l.sbs n
  | none => (0#32, false)

def sbPut (s : State) (serial n : Nat) (v : StageBar) : State :=
  updLaunch s serial fun l => { l with sbs := tabSet (0#32, false) l.sbs n v }

/-- The layout of R251. -/
def sbWord (v : StageBar) : Word := (if v.2 then 0x8000000000000000#64 else 0#64) ||| v.1.setWidth 64

/-- Arrivals at a barrier. -/
def sbArrive (s : State) (serial n : Nat) (k : BitVec 32) : State :=
  sbPut s serial n ((sbGet s serial n).1 + k, (sbGet s serial n).2)

/-- A bound command arrives with count 1 (R253). -/
def arriveBound (s : State) (sb : Option Nat) : State :=
  match sb with
  | some n => sbArrive s s.hart.who.serial n 1
  | none => s

/-- ERR of a bound command's barrier (R254). -/
def errBound (s : State) (sb : Option Nat) : State :=
  match sb with
  | some n => sbPut s s.hart.who.serial n ((sbGet s s.hart.who.serial n).1, true)
  | none => s

/-- The barrier SBIND bound to the next command on counter `c`, and the state without the binding (R252). -/
def takeBind (s : State) (c : Nat) : Option Nat × State :=
  match s.hart.eng.sbind.find? (·.1 == c) with
  | some (_, n) => (some n, withEng s fun g => { g with sbind := g.sbind.filter (·.1 ≠ c) })
  | none => (none, s)

/-! ## Dispatch (R227) -/

/-- A command: its handles, coordinates and block are captured, and its counter goes up. -/
def issueCmd (s : State) (i : Instr) (c cls : Nat) (f : Cmd → Cmd) : State :=
  let (sb, s1) := takeBind s c
  let cmd : Cmd := { id := s1.nextId, op := i, ctr := c, sb := sb, deps := depsOf s1 cls, issued := s1.time, h := Handle.zero,
                     hs := Handle.zero, c := [], block := [], addr := 0, units := 0 }
  let s2 := countUp { s1 with nextId := s1.nextId + 1 } c
  evCount 0x0008 1 (withEng s2 fun g => { g with cmds := g.cmds ++ [f cmd] })

/-- The command of the hart with a number. -/
def cmdAt (s : State) (id : Nat) : Option Cmd := s.hart.eng.cmds.find? (·.id == id)

/-- The earlier accesses that a FENCEX makes something wait for have performed. -/
def depsDone (s : State) (deps : List Nat) : Bool := !deps.any (outstanding s.hart).contains

def countDown (s : State) (c : Nat) : State := wc s c { rc s c with count := (rc s c).count - 1 }

/-- The command ends: it frees its queue entry, and its counter goes down (R230). -/
def endCmd (s : State) (k : Cmd) : State :=
  countDown (withEng s fun g => { g with cmds := g.cmds.filter fun x => x.id ≠ k.id }) k.ctr

/-- A change of one command. -/
def updCmd (s : State) (id : Nat) (f : Cmd → Cmd) : State :=
  withEng s fun g => { g with cmds := g.cmds.map fun x => if x.id = id then f x else x }

/-- The path class of a command. -/
def cmdClass (i : Instr) : Nat :=
  match i with
  | .coll _ _ _ _ _ _ => clsCOL
  | .encf _ _ _ => clsENC
  | .gscat _ _ _ _ => clsRED
  | _ => clsCPY

/-- A command ends by a fault (R228, R254): the errata entry and the poison, ERR of its barrier, and the end. -/
def faultCmd (s : State) (k : Cmd) (cause : BitVec 8) (addr : Nat) : State :=
  endCmd (errBound (poisonCounter s k.ctr addr (wordOf k.op) cause (cmdClass k.op)) k.sb) k

/-- A command ends normally, with its one arrival. -/
def doneCmd (s : State) (k : Cmd) : State := arriveBound (endCmd s k) k.sb

/-- What an engine's work on a command comes to: the state, a fault, nothing yet, or a stop of the model. -/
def engOut (s t : State) (k : Cmd) (r : MRes State) : Out :=
  match r with
  | .ok u => .next u
  | .trap c a => .next (faultCmd t k c a)
  | .wait _ => .next s

end Sys2Proof.Machine
end

