-- ==== Sys2Proof/Machine/Csr.lean ====
section
/-!
DEFINITION. System registers (R120 to R125): reading and writing each by its own layout, and the four CSR instructions.
-/
namespace Sys2Proof.Machine

open Sys2Proof

/-- MVLMAX (R174): for 16-, 8- and 4-bit elements, min(128, GRB * 8 / w). -/
def mvlmaxField (shape w : Nat) : Nat := min 128 (grbOf shape * 8 / w)
def mvlmaxWord (shape : Nat) : Word :=
  BitVec.ofNat 64 (mvlmaxField shape 4 * 2 ^ 16 + mvlmaxField shape 8 * 2 ^ 8 + mvlmaxField shape 16)

/-- GANGCNT (R14). -/
def gangcntWord (w : Ident) : Word :=
  if w.dispatch then 0 else BitVec.ofNat 64 (w.gscope % 8 * 2 ^ 48 + w.gsize % 65536 * 2 ^ 32 + w.gcount % 2 ^ 32)

/-- LAUNCHID (R14); a dispatch hart reads its queue number in SERIAL (R308). -/
def launchidWord (w : Ident) : Word :=
  if w.dispatch then BitVec.ofNat 64 w.queue
  else BitVec.ofNat 64 (w.cls % 8 * 2 ^ 45 + (if w.sessv then 2 ^ 44 + w.session % 4096 * 2 ^ 32 else 0) + w.serial % 2 ^ 32)

/-- EVn counts link events in a virtual function's context: it reads 0 and is not written (R362). -/
def evBlind (h : Hart) (i : Fin 8) : Bool :=
  let e := wBits (h.evsel.get i) 0 16
  h.who.fn != 0 && decide (0x30 ≤ e) && decide (e ≤ 0x32)

/-- The value of a system register (R120, R123). -/
def csrGet (s : State) (n : BitVec 12) : Word :=
  let h := s.hart
  let v := h.vec
  match n.toNat with
  | 0x000 => v.vmode
  | 0x001 => BitVec.ofNat 64 v.vl
  | 0x002 => BitVec.ofNat 64 v.vstart
  | 0x003 => v.vflags.setWidth 64
  | 0x004 => h.fcsr
  | 0x005 => v.lc
  | 0x006 => BitVec.ofNat 64 v.rcur
  | 0x007 => BitVec.ofNat 64 v.rlo
  | 0x008 => BitVec.ofNat 64 v.rhi
  | 0x009 => BitVec.ofNat 64 v.pass
  | 0x020 => BitVec.ofNat 64 (grbOf h.who.shape)
  | 0x021 => BitVec.ofNat 64 h.who.grows
  | 0x022 => h.mat.mvl
  | 0x023 => mvlmaxWord h.who.shape
  | 0x024 => hartIdWord h.who
  | 0x025 => if h.who.dispatch then 0 else BitVec.ofNat 64 h.who.gang
  | 0x026 => gangcntWord h.who
  | 0x027 => launchidWord h.who
  | 0x028 => BitVec.ofNat 64 s.time
  | 0x040 => h.trap.utvec
  | 0x041 => h.trap.tepc
  | 0x042 => h.trap.tcause
  | 0x043 => h.trap.tval
  | 0x044 => h.trap.tpos
  | 0x045 => h.trap.twin
  | k =>
    if 0x010 ≤ k ∧ k ≤ 0x01F then fld v.cmask (64 * (k - 0x010)) 64
    else
      let i : Fin 8 := Fin.ofNat 8 k
      if 0x080 ≤ k ∧ k ≤ 0x087 then (if evBlind h i then 0 else (h.ev.get i).setWidth 64)
      else if 0x088 ≤ k ∧ k ≤ 0x08F then h.evsel.get i
      else 0

/-- An event code of R360. -/
def evDefined (e : Nat) : Bool :=
  (1 ≤ e && e ≤ 9) || (0x10 ≤ e && e ≤ 0x13) || e == 0x20 || e == 0x21 || (0x30 ≤ e && e ≤ 0x32)

/-- EVSELn as a write leaves it: OVF is only cleared, and an undefined code is stored as 0 (R359). -/
def evselWrite (old v : Word) : Word :=
  let e := wBits v 0 16
  (v &&& 0x60000000#64) ||| (v &&& old &&& 0x10000000#64) ||| BitVec.ofNat 64 (if evDefined e then e else 0)

/-- FCSR as a write leaves it: reserved bits read 0, and an RM of 5 to 7 leaves the field unchanged (R119). -/
def fcsrWrite (old v : Word) : Word :=
  if 5 ≤ wBits v 8 3 then (v &&& 0x381F#64) ||| (old &&& 0x0700#64) else v &&& 0x3F1F#64

/-- Writing a system register field by field (R121, and the layout of each). -/
def csrSet (s : State) (n : BitVec 12) (x : Word) : State :=
  let h := s.hart
  let setTrap (t : TrapState) : State := { s with hart := { h with trap := t } }
  match n.toNat with
  | 0x000 => withVec s fun v => { v with vmode := makeVmode (x.setWidth 25) }
  | 0x002 => withVec s fun v => { v with vstart := wBits x 0 32 }
  | 0x003 => withVec s fun v => { v with vflags := x.setWidth 9 &&& 0x11F#9 }
  | 0x004 => { s with hart := { h with fcsr := fcsrWrite h.fcsr x } }
  | 0x005 => withVec s fun v => { v with lc := x &&& 0x1FFFFFFFFFFFFFFF#64 }
  | 0x006 => withVec s fun v => { v with rcur := wBits x 0 9 }
  | 0x007 => withVec s fun v => { v with rlo := wBits x 0 9 }
  | 0x008 => withVec s fun v => { v with rhi := wBits x 0 10 }
  | 0x009 => withVec s fun v => { v with pass := wBits x 0 33 }
  | 0x040 => setTrap { h.trap with utvec := x &&& 0x00FFFFFFFFFFFFFD#64 }
  | 0x041 => setTrap { h.trap with tepc := tepcOf x }
  | 0x042 => setTrap { h.trap with tcause := x &&& 0x80000000000000FF#64 }
  | 0x043 => setTrap { h.trap with tval := x }
  | 0x044 => setTrap { h.trap with tpos := x &&& 0xFF8000001FFFFFFF#64 }
  | 0x045 => setTrap { h.trap with twin := x }
  | k =>
    if 0x010 ≤ k ∧ k ≤ 0x01F then
      let sh := 64 * (k - 0x010)
      withVec s fun v => { v with
        cmask := (v.cmask &&& ~~~((BitVec.allOnes 64).setWidth 1024 <<< sh)) ||| (x.setWidth 1024 <<< sh) }
    else
      let i : Fin 8 := Fin.ofNat 8 k
      if 0x080 ≤ k ∧ k ≤ 0x087 then
        (if evBlind h i then s else { s with hart := { h with ev := h.ev.set i.val (x.setWidth 48) i.isLt } })
      else if 0x088 ≤ k ∧ k ≤ 0x08F then
        { s with hart := { h with evsel := h.evsel.set i.val (evselWrite (h.evsel.get i) x) i.isLt } }
      else s

/-- The queue holds a matrix instruction, or an MFETCH that has left it has not completed and has flags to come: a read or
write of VFLAGS waits (R78, R123). -/
def matrixBusy (h : Hart) : Bool := !h.mat.mq.isEmpty || !h.mat.fetches.isEmpty

/-- The access waits for earlier matrix instructions. -/
def csrWaits (s : State) (n : BitVec 12) : Bool := n == 0x003#12 && matrixBusy s.hart

/-- An instruction that writes EVn or EVSELn is counted by no event counter (R365). -/
def csrIsEv (n : BitVec 12) : Bool := 0x080 ≤ n.toNat && n.toNat ≤ 0x08F

/-- The end of a CSR write. -/
def csrDone (s : State) (n : BitVec 12) : State :=
  if csrIsEv n then completeQuiet s (s.hart.pc + 4) else advance s

/-- A CSR write of the value `f` makes of the old one, as one step (R121). -/
def csrUpdate (s : State) (i : Instr) (n : BitVec 12) (f : Word → Word) : Out :=
  if !csrWriteOk s.hart.who.dispatch n then trapWord s i causeIllegalFn
  else if csrWaits s n then .next (waitOn s .drain)
  else .next (csrDone (csrSet s n (f (csrGet s n))) n)

/-- CSRR (R121). -/
def execCsrr (d : BitVec 5) (sy : BitVec 12) (s : State) : Out :=
  if !csrReadOk s.hart.who.dispatch sy then trapWord s (.csrr d sy) causeIllegalFn
  else if csrWaits s sy then .next (waitOn s .drain)
  else setX s d (csrGet s sy)

/-- CSRW (R121). -/
def execCsrw (a : BitVec 5) (sy : BitVec 12) (s : State) : Out := csrUpdate s (.csrw a sy) sy fun _ => rx s a

/-- CSRS (R121). -/
def execCsrs (a : BitVec 5) (sy : BitVec 12) (s : State) : Out := csrUpdate s (.csrs a sy) sy fun v => v ||| rx s a

/-- CSRC (R121). -/
def execCsrc (a : BitVec 5) (sy : BitVec 12) (s : State) : Out := csrUpdate s (.csrc a sy) sy fun v => v &&& ~~~rx s a

end Sys2Proof.Machine
end

