-- ==== Sys2Proof/Machine/Matrix.lean ====
section
/-!
DEFINITION. The matrix path: mode, tiles and slots (R173 to R181), the matrix queue (R182 to R185), multiplies (R190 to
R193), pruning (R194), tile moves (R195 to R199).
-/
namespace Sys2Proof.Machine

open Sys2Proof

/-! ## Types -/

/-- The types of MRANK, MMA and MFETCH (R190, R187). -/
def isMM (ty : Ty) : Bool :=
  match ty with
  | .int sg w => w == 8 || (sg && w == 4)
  | .flt f => f.width == 8 || f == fmtF16 || f == fmtBF16

/-- The types of MFETCH with a scale source or a delta (R187). -/
def isSC (ty : Ty) : Bool := isMM ty && ty.isFloat

/-- The types of MMASP and MCOMP. -/
def isSP (ty : Ty) : Bool := ty.width == 8

/-- The types of ARED, AMULR and AADDR. -/
def isTileTy (ty : Ty) : Bool := ty == .flt fmtF32 || ty == .flt fmtBF16 || ty == .flt fmtF16

/-- A binary8 type. -/
def isB8 (ty : Ty) : Bool := ty.isFloat && ty.width == 8

/-! ## Dispatch checks (R184) -/

/-- What a matrix instruction's checks look at, beside the mode and type: its windows, its tile, a handle trap, the windows
that must lie in claimed slots, and a last check. -/
structure MReq where
  ops    : List Opd
  tile   : Option Nat
  handle : Option Trap
  slots  : List WinOp
  last   : Option Trap
deriving DecidableEq, Repr

/-- A window operand of the matrix path, with its own extents (R190); a bound window breaks its shape (R222). -/
def matOpd (s : State) (w : WinOp) (width : Option Nat) (shape : Bool) : Opd :=
  { win := w.whole, width := width, shape := shape && (boundTo s w.num).isNone, reads := 0, writes := 0 }

/-- A trap that names no window, with the word in TVAL. -/
def wordTrap (i : Instr) (cause : BitVec 8) : Trap := plainTrap cause ((wordOf i).setWidth 64)

/-- Every cell of the window lies in a claimed slot. -/
def allClaimed (s : State) (w : WinOp) : Bool := (allSpans w.whole).all (inClaimed s)

/-- SLOT_UNCLAIMED over windows in order. -/
def unclaimed (s : State) (i : Instr) : List WinOp → Option Trap
  | [] => none
  | w :: t => if allClaimed s w then unclaimed s i t else some (winTrap i causeSlotUnclaimed w)

/-- Steps 3 and 4. -/
def tileTrap (s : State) (i : Instr) (tile : Option Nat) : Option Trap :=
  if !matrixOn s then some (wordTrap i causeMatrixOff)
  else match tile with
    | some t => if mvlTiles s.hart.mat.mvl ≤ t then some (wordTrap i causeTileRange) else none
    | none => none

/-- The checks of R184 in their order. -/
def matChecks (s : State) (i : Instr) (tyOk : Ty → Bool) (q : Ty → MReq) : Except Trap Ty :=
  match modeIll s.hart.vec.vmode, modeTy s.hart.vec.vmode with
  | false, some ty =>
    if !tyOk ty then .error (modeTrap i)
    else
      let r := q ty
      match (firstBad i causeWindowRange (fun o => !winFits s o.win) r.ops).or <|
          (firstBad i causeWidth badWidth r.ops).or <|
          (tileTrap s i r.tile).or <|
          r.handle.or <|
          (firstBad i causeShape (fun o => !o.shape) r.ops).or <|
          (unclaimed s i r.slots).or r.last with
      | some t => .error t
      | none => .ok ty
  | _, _ => .error (modeTrap i)

/-! ## The queue (R182) -/

/-- An entry with what the instruction captures. -/
def newEntry (s : State) (i : Instr) (wa wb : Word) : MEntry :=
  { op := i, vmode := s.hart.vec.vmode, vl := s.hart.vec.vl, mvl := s.hart.mat.mvl, rcur := s.hart.vec.rcur,
    rlo := s.hart.vec.rlo, rhi := s.hart.vec.rhi, wa := wa, wb := wb, fetch := 0, bytes := [], started := false, k := 0,
    flags := 0 }

def postEntry (s : State) (e : MEntry) : State := withMat s fun m => { m with mq := m.mq ++ [e] }

/-- The entry is an instruction of the 64; the queue-order parts of MSTART, MSTOP and MCLAIM are not. -/
def counted (e : MEntry) : Bool :=
  match e.op with
  | .mstart _ _ => false
  | .mstop => false
  | .mclaim _ => false
  | _ => true

/-- The queue is full. -/
def queueFull (s : State) : Bool := decide (64 ≤ (s.hart.mat.mq.filter counted).length)

/-- A matrix instruction that is posted to the queue. -/
def matPost (s : State) (i : Instr) (tyOk : Ty → Bool) (q : Ty → MReq) (e : MEntry) : Out :=
  match matChecks s i tyOk q with
  | .error t => .next (takeTrap s t)
  | .ok _ => if queueFull s then .next (waitOn s .stall) else .next (advance (postEntry s e))

/-! ## Mode and slots (R176, R179) -/

/-- The largest of 128, 64, 32 and 16 that MSTART may grant; 0 for none. -/
def grantMvl (h : Hart) (req sew : Nat) : Nat :=
  if sew = 3 then 0
  else
    let top := mvlmaxField h.who.shape (sewBits sew)
    (([128, 64, 32, 16].filter fun c =>
      decide (c ≤ req) && decide (c ≤ top) && decide (4 * c * c ≤ h.who.accb) && decide (c ≤ h.who.grows)).headD 0)

/-- MVL for a granted length (R175, R177, R178). -/
def mvlWord (h : Hart) (m sew : Nat) : Word :=
  let tiles := min 16 (h.who.accb / (4 * m * m))
  let spb := grbOf h.who.shape / (m * sewBits sew / 8)
  let slots := min 1024 (h.who.grows / m * spb)
  BitVec.ofNat 64 (slots * 2 ^ 32 + spb * 2 ^ 24 + tiles * 2 ^ 16 + sew * 2 ^ 8 + m)

/-- MSTOP's effect: the slots are released and the mode ends; the tiles go in queue order. -/
def stopMode (s : State) : State :=
  if matrixOn s then
    withMat (postEntry s (newEntry s .mstop 0 0)) fun m => { m with claimed := [], mvl := 0 }
  else s

/-- MSTART (R176). -/
def execMstart (d a : BitVec 5) (s : State) : Out :=
  let x := rx s a
  let r := wBits x 0 8
  let req := if r = 0 then 128 else r
  let sew := wBits x 8 2
  let s1 := stopMode s
  let m := grantMvl s1.hart req sew
  if m = 0 then setX s1 d 0
  else
    let mvl := mvlWord s1.hart m sew
    let s2 := withMat s1 fun t => { t with mvl := mvl, claimed := [] }
    setX (postEntry s2 (newEntry s2 (.mstart d a) 0 0)) d mvl

/-- MSTOP (R176). -/
def execMstop (s : State) : Out := .next (advance (stopMode s))

/-- A slot number's checks (R173, R179). -/
def slotTrap (s : State) (i : Instr) (n : Nat) : Option Trap :=
  if !matrixOn s then some (wordTrap i causeMatrixOff)
  else if mvlSlots s.hart.mat.mvl ≤ n then some (wordTrap i causeWindowRange)
  else none

/-- MCLAIM (R179): the slot's scale plane is reset in queue order. -/
def execMclaim (a : BitVec 5) (s : State) : Out :=
  let n := (rx s a).toNat
  match slotTrap s (.mclaim a) n with
  | some t => .next (takeTrap s t)
  | none =>
    if s.hart.mat.claimed.contains n then .next (advance s)
    else
      let s1 := withMat s fun m => { m with claimed := m.claimed ++ [n] }
      .next (advance (postEntry s1 { newEntry s1 (.mclaim a) 0 0 with bytes := [n] }))

/-- MREL (R179). -/
def execMrel (a : BitVec 5) (s : State) : Out :=
  let n := (rx s a).toNat
  match slotTrap s (.mrel a) n with
  | some t => .next (takeTrap s t)
  | none => .next (advance (withMat s fun m => { m with claimed := m.claimed.filter (· ≠ n) }))

/-! ## Multiplies at dispatch (R190 to R193) -/

/-- The lines MRANK takes. -/
def isLine (d : Word) : Bool :=
  let k := wKind d
  k == kindRow || k == kindCol || k == kindDiag || k == kindAdiag

def isRect (d : Word) : Bool := wKind d == kindRect

/-- MVL of the mode in force. -/
def mvlNow (s : State) : Nat := mvlLen s.hart.mat.mvl

/-- MRANK (R191). -/
def mrankPost (s : State) (i : Instr) (t : BitVec 4) (a b : BitVec 6) : Out :=
  let wa := winOp s a 1
  let wb := winOp s b 2
  matPost s i isMM (fun ty =>
    { ops := [matOpd s wa (some ty.width) (isLine wa.desc && decide (innerOf wa.desc ≤ mvlNow s)),
              matOpd s wb (some ty.width) (isLine wb.desc && decide (innerOf wb.desc ≤ mvlNow s))]
      tile := some t.toNat, handle := none, slots := [wa, wb], last := none })
    (newEntry s i wa.desc wb.desc)

/-- MRANK.ADD (R191). -/
def execMrankAdd (t : BitVec 4) (a b : BitVec 6) (x : BitVec 1) (s : State) : Out := mrankPost s (.mrankAdd t a b x) t a b

/-- MRANK.SUB (R191). -/
def execMrankSub (t : BitVec 4) (a b : BitVec 6) (x : BitVec 1) (s : State) : Out := mrankPost s (.mrankSub t a b x) t a b

/-- MMA (R192). -/
def execMma (t : BitVec 4) (a b : BitVec 6) (s : State) : Out :=
  let wa := winOp s a 1
  let wb := winOp s b 2
  let i := Instr.mma t a b
  matPost s i isMM (fun ty =>
    { ops := [matOpd s wa (some ty.width) (isRect wa.desc && decide (innerOf wa.desc ≤ mvlNow s)),
              matOpd s wb (some ty.width)
                (isRect wb.desc && outerOf wb.desc == outerOf wa.desc && decide (innerOf wb.desc ≤ mvlNow s))]
      tile := some t.toNat, handle := none, slots := [wa, wb], last := none })
    (newEntry s i wa.desc wb.desc)

/-- The bytes of MMASP's metadata window, row by row. -/
def metaBytes (s : State) (w : WinOp) : List Nat := (List.range (count w.whole)).map (readElem s w.whole)

/-- METADATA (R193): the first byte whose population count is not 4. -/
def metaTrap (s : State) (i : Instr) (w : WinOp) : Option Trap :=
  let u := w.whole
  ((List.range (count u)).find? fun k => (List.range 8).countP (natBit (readElem s u k)) ≠ 4).map fun k =>
    { cause := causeMetadata, tval := (wordOf i).setWidth 64
      pos := .metadata w.num (elemCell u k).1 (k / neff u) (k % neff u) w.desc }

/-- MMASP (R193): the metadata are read at dispatch, as a vector-path read. -/
def execMmasp (t : BitVec 4) (v b : BitVec 6) (s : State) : Out :=
  let wv := winOp s v 1
  let wm := winOp s (v + 1) 1
  let wb := winOp s b 2
  let i := Instr.mmasp t v b
  let kk := outerOf wb.desc
  let q (ty : Ty) : MReq :=
    { ops := [matOpd s wv (some ty.width)
                (isRect wv.desc && decide (outerOf wv.desc ≤ mvlNow s) && 2 * innerOf wv.desc == kk),
              matOpd s wm none
                (isRect wm.desc && outerOf wm.desc == outerOf wv.desc && wEw wm.desc == 8 && 8 * innerOf wm.desc == kk),
              matOpd s wb (some ty.width) (isRect wb.desc && decide (innerOf wb.desc ≤ mvlNow s))]
      tile := some t.toNat, handle := none, slots := [wv, wb], last := none }
  match matChecks s i isSP q with
  | .error tr => .next (takeTrap s tr)
  | .ok _ =>
    if heldBack s { win := wm.whole, width := none, shape := true, reads := count wm.whole, writes := 0 } then
      .next (waitOn s .stall)
    else match metaTrap s i wm with
      | some tr => .next (takeTrap s tr)
      | none =>
        if queueFull s then .next (waitOn s .stall)
        else .next (advance (postEntry s { newEntry s i wv.desc wb.desc with bytes := metaBytes s wm }))

/-! ## Tile moves at dispatch (R195 to R199) -/

/-- MZERO (R195). -/
def execMzero (t : BitVec 4) (s : State) : Out :=
  matPost s (.mzero t) (fun _ => true) (fun _ => { ops := [], tile := some t.toNat, handle := none, slots := [], last := none })
    (newEntry s (.mzero t) 0 0)

/-- A RECT or ROW of at most MVL rows and columns. -/
def tileShape (s : State) (d : Word) : Bool :=
  (isRect d || wKind d == kindRow) && decide (outerOf d ≤ mvlNow s) && decide (innerOf d ≤ mvlNow s)

/-- A COL of at most MVL elements. -/
def colShape (s : State) (d : Word) : Bool := wKind d == kindCol && decide (innerOf d ≤ mvlNow s)

/-- SLOT_UNCLAIMED of an ATOW destination that is neither wholly in claimed slots nor wholly outside them (R196). -/
def mixedTrap (s : State) (i : Instr) (w : WinOp) : Option Trap :=
  let xs := allSpans w.whole
  if xs.any (inClaimed s) && !xs.all (inClaimed s) then some (winTrap i causeSlotUnclaimed w) else none

/-- ATOW (R196). A trap names its destination with ROLE 1, the role of the field it stands in (log 135). -/
def execAtow (t : BitVec 4) (d : BitVec 6) (n x : BitVec 1) (s : State) : Out :=
  let w := winOp s d 1
  let i := Instr.atow t d n x
  matPost s i (fun _ => true) (fun ty =>
    { ops := [matOpd s w (some ty.width) (tileShape s w.desc)], tile := some t.toNat, handle := none, slots := []
      last := mixedTrap s i w }) (newEntry s i w.desc 0)

/-- WTOA (R197). -/
def execWtoa (t : BitVec 4) (a : BitVec 6) (n x : BitVec 1) (s : State) : Out :=
  let w := winOp s a 1
  let i := Instr.wtoa t a n x
  matPost s i (fun ty => n == 0#1 || !ty.isFloat) (fun ty =>
    { ops := [matOpd s w (some ty.width) (tileShape s w.desc)], tile := some t.toNat, handle := none, slots := []
      last := none }) (newEntry s i w.desc 0)

/-- The dispatch of ARED, AMULR and AADDR over a COL window. -/
def colPost (s : State) (i : Instr) (t : BitVec 4) (w : WinOp) : Out :=
  matPost s i isTileTy (fun ty =>
    { ops := [matOpd s w (some ty.width) (colShape s w.desc)], tile := some t.toNat, handle := none, slots := []
      last := none }) (newEntry s i w.desc 0)

/-- ARED (R198); its destination's ROLE is ATOW's (log 135). -/
def execAred (t : BitVec 4) (d : BitVec 6) (o : BitVec 2) (s : State) : Out := colPost s (.ared t d o) t (winOp s d 1)

/-- AMULR (R199). -/
def execAmulr (t : BitVec 4) (a : BitVec 6) (s : State) : Out := colPost s (.amulr t a) t (winOp s a 1)

/-- AADDR (R199). -/
def execAaddr (t : BitVec 4) (a : BitVec 6) (s : State) : Out := colPost s (.aaddr t a) t (winOp s a 1)

/-! ## Tiles, planes and operand values -/

/-- The word of tile `t` at row r and column c (R177). -/
def accGet (s : State) (mvl : Word) (t r c : Nat) : Nat :=
  (tabGet 0#32 s.hart.mat.acc ((t * mvlLen mvl + r) * mvlLen mvl + c)).toNat

def accPut (s : State) (mvl : Word) (t r c v : Nat) : State :=
  withMat s fun m => { m with acc := tabSet 0#32 m.acc ((t * mvlLen mvl + r) * mvlLen mvl + c) (BitVec.ofNat 32 v) }

/-- The key of a cell's scale-plane entry (R180): its 16-row block, and the stripe column in slot elements. -/
def planeKey (mvl d : Word) (p : Nat × Nat) : Nat := p.1 / 16 * 1024 + p.2 * wEw d / sewBits (mvlSew mvl)

def planeGet (s : State) (mvl d : Word) (p : Nat × Nat) : Nat := (tabGet 127#8 s.hart.mat.plane (planeKey mvl d p)).toNat

/-- A cell's entries are written: of a cell wider than a slot element, those of every slot column it covers. -/
def planePut (s : State) (mvl d : Word) (p : Nat × Nat) (v : Nat) : State :=
  let n := max 1 (wEw d / sewBits (mvlSew mvl))
  withMat s fun m => { m with
    plane := (List.range n).foldl (fun t j => tabSet 127#8 t (planeKey mvl d p + j) (BitVec.ofNat 8 v)) m.plane }

/-- A matrix-path write of a cell, whose plane entry becomes `e8` (R180). -/
def matWrite (s : State) (mvl d : Word) (p : Nat × Nat) (v e8 : Nat) : State := planePut (writeCell s d p v) mvl d p e8

/-- The policy an entry captured. -/
def entryPolicy (e : MEntry) : Policy := policyOf e.vmode

/-- The type an entry captured. -/
def entryTy (e : MEntry) : Ty := (modeTy e.vmode).getD (.int true 8)

/-- The decoded value of a window cell after input flush; scaled by its plane entry where `plane` and binary8 (R180). -/
def matNum (s : State) (e : MEntry) (f : Fmt) (d : Word) (o i : Nat) (plane : Bool) : Num :=
  let p := cell (entryWin e d) o i
  let x := f.decodeIn (entryPolicy e) (readCell s d p)
  if plane && f.width == 8 then scaleNum x (planeGet s e.mvl d p) else x

def matInt (s : State) (e : MEntry) (sg : Bool) (w : Nat) (d : Word) (o i : Nat) : Int :=
  intOf sg w (readCell s d (cell (entryWin e d) o i))

/-- One RNE rounding of an accumulator sum; a NaN result sets NV (R83). -/
def accRound (x : Num) : Nat × Flags :=
  let r := roundF32 x
  (r.1, r.2 ||| flagIf x.isNaN flagNV)

/-- The exact sum of a group of products, with zero products padded (R84). -/
def groupSum (pad : Bool) : List Num → Num
  | [] => .fin false 0 0
  | p :: t =>
    let g := t.foldl (fun x y => (x.add 0 y).1) p
    if pad then (g.add 0 (.fin false 0 0)).1 else g

/-- An accumulator word after a group of products (R83, R84); no product, no change (R86). -/
def accFloat (acc : Nat) (pad : Bool) (ps : List Num) : Nat × Flags :=
  if ps.isEmpty then (acc, 0) else accRound ((fmtF32.decode acc).add 0 (groupSum pad ps)).1

/-- The value is an I32's. -/
def inI32 (v : Int) : Bool := decide (intLo true 32 ≤ v) && decide (v ≤ intHi true 32)

/-- An accumulator word after integer products in ascending k (R85). -/
def accInt (acc : Nat) (ps : List Int) : Nat × Flags :=
  let r := ps.foldl (fun (x : Int × Bool) p => (x.1 + p, x.2 || !inI32 (x.1 + p))) (intOf true 32 acc, false)
  (bitsOfInt 32 r.1, flagIf r.2 flagIOV)

/-- A change of tile words: `f` answers the new word and flags for (i, j) from the old word. -/
def tileUpdate (mvl : Word) (t : Nat) (tr : Bool) (f : Nat → Nat → Nat → Nat × Flags) : List (Nat × Nat) → State → Flags → State × Flags
  | [], s, fl => (s, fl)
  | (i, j) :: rest, s, fl =>
    let r := if tr then j else i
    let c := if tr then i else j
    let v := f i j (accGet s mvl t r c)
    tileUpdate mvl t tr f rest (accPut s mvl t r c v.1) (fl ||| v.2)

/-- The index pairs of an m by n block. -/
def pairs (m n : Nat) : List (Nat × Nat) := (List.range m).flatMap fun i => (List.range n).map fun j => (i, j)

/-! ## The multiplies -/

/-- K, m and n of a multiply. -/
def mulDims (e : MEntry) : Nat × Nat × Nat :=
  match e.op with
  | .mma _ _ _ => (outerOf e.wa, innerOf e.wa, innerOf e.wb)
  | .mmasp _ _ _ => (outerOf e.wb, outerOf e.wa, innerOf e.wb)
  | _ => (1, innerOf e.wa, innerOf e.wb)

/-- The cell of wa that gives left(i, k): none where the position is pruned (R193). -/
def leftCell (e : MEntry) (kk i k : Nat) : Option (Nat × Nat) :=
  match e.op with
  | .mma _ _ _ => some (k, i)
  | .mmasp _ _ _ =>
    let bm := e.bytes.getD (i * (kk / 8) + k / 8) 0
    if natBit bm (k % 8) then some (i, 4 * (k / 8) + (List.range (k % 8)).countP (natBit bm)) else none
  | _ => some (0, i)

/-- The values operand of MMASP takes no plane scale. -/
def leftPlane (e : MEntry) : Bool :=
  match e.op with
  | .mmasp _ _ _ => false
  | _ => true

/-- The update subtracts. -/
def isSub (e : MEntry) : Bool :=
  match e.op with
  | .mrankSub _ _ _ _ => true
  | _ => false

/-- The update lands transposed. -/
def isTr (e : MEntry) : Bool :=
  match e.op with
  | .mrankAdd _ _ _ x => x == 1#1
  | .mrankSub _ _ _ x => x == 1#1
  | _ => false

def entryTile (e : MEntry) : Nat :=
  match e.op with
  | .mrankAdd t _ _ _ => t.toNat
  | .mrankSub t _ _ _ => t.toNat
  | .mma t _ _ => t.toNat
  | .mmasp t _ _ => t.toNat
  | .mzero t => t.toNat
  | .atow t _ _ _ => t.toNat
  | .wtoa t _ _ _ => t.toNat
  | .ared t _ _ => t.toNat
  | .amulr t _ => t.toNat
  | .aaddr t _ => t.toNat
  | _ => 0

/-- The exact float products of element (i, j) for the k of a list. -/
def floatTerms (s : State) (e : MEntry) (f : Fmt) (kk i j : Nat) (ks : List Nat) : List Num :=
  ks.filterMap fun k => (leftCell e kk i k).map fun p =>
    let x := ((matNum s e f e.wa p.1 p.2 (leftPlane e)).mul (matNum s e f e.wb k j true)).1
    if isSub e then x.neg else x

/-- The exact integer products. -/
def intTerms (s : State) (e : MEntry) (sg : Bool) (w kk i j : Nat) (ks : List Nat) : List Int :=
  ks.filterMap fun k => (leftCell e kk i k).map fun p =>
    let x := matInt s e sg w e.wa p.1 p.2 * matInt s e sg w e.wb k j
    if isSub e then -x else x

/-- The k of a step of the K loop: one for 16-bit types, four otherwise (R84, R200). -/
def stepSize (e : MEntry) : Nat := if (entryTy e).width = 16 then 1 else 4

/-- The last group of a binary8 multiply is padded; MRANK's group of one is not (R84, R191). -/
def padded (e : MEntry) (n : Nat) : Bool :=
  match e.op with
  | .mrankAdd _ _ _ _ => false
  | .mrankSub _ _ _ _ => false
  | _ => isB8 (entryTy e) && decide (n < 4)

/-- One step of the K loop, over the k of a list. -/
def mulStep (s : State) (e : MEntry) (ks : List Nat) : State × Flags :=
  let (kk, m, n) := mulDims e
  tileUpdate e.mvl (entryTile e) (isTr e) (fun i j old =>
    match entryTy e with
    | .flt f => accFloat old (padded e ks.length) (floatTerms s e f kk i j ks)
    | .int sg w => accInt old (intTerms s e sg w kk i j ks)) (pairs m n) s 0

/-- The k of the step that starts at k. -/
def stepKs (e : MEntry) (k : Nat) : List Nat := (List.range (stepSize e)).filterMap fun j => if k + j < (mulDims e).1 then some (k + j) else none

/-- The steps from k on. -/
def mulSteps (e : MEntry) : Nat → Nat → State → Flags → State × Flags
  | 0, _, s, fl => (s, fl)
  | m + 1, k, s, fl =>
    if (mulDims e).1 ≤ k then (s, fl)
    else
      let r := mulStep s e (stepKs e k)
      mulSteps e m (k + stepSize e) r.1 (fl ||| r.2)

/-! ## Moving and adjusting tiles -/

/-- The element ATOW writes for a tile word (R196). The word is never input-flushed. -/
def atowValue (p : Policy) (ty : Ty) (isInt : Bool) (t : Nat) : Nat × Flags :=
  match ty, isInt with
  | .flt f, false =>
    let r := rnd f p (fmtF32.decode t)
    (r.1, r.2 ||| (fmtF32.decode t).sigFlag)
  | .int sg w, false => floatToInt sg w p.rm (fmtF32.decode t)
  | .int sg w, true => (intToInt p.sat true 32 sg w t, 0)
  | .flt f, true => rnd f p (numOfInt (intOf true 32 t))

/-- The word WTOA writes for an element (R197). -/
def wtoaValue (p : Policy) (ty : Ty) (isInt : Bool) (v : Nat) : Nat × Flags :=
  match ty, isInt with
  | .flt f, _ =>
    let r := roundF32 (f.decodeIn p v)
    (r.1, r.2 ||| (f.decode v).sigFlag)
  | .int sg w, false => roundF32 (numOfInt (intOf sg w v))
  | .int sg w, true => (bitsOfInt 32 (intOf sg w v), 0)

/-- The elements of a destination window, each computed by `f` from its outer and inner index, with plane entries 127. -/
def writeWindow (e : MEntry) (f : Nat → Nat → Nat × Flags) : List (Nat × Nat) → State → Flags → State × Flags
  | [], s, fl => (s, fl)
  | (o, i) :: t, s, fl =>
    let v := f o i
    writeWindow e f t (matWrite s e.mvl e.wa (cell (entryWin e e.wa) o i) v.1 127) (fl ||| v.2)

/-- ATOW's writes. -/
def runAtow (s : State) (e : MEntry) (n x : BitVec 1) : State × Flags :=
  writeWindow e (fun o i =>
    let r := if x = 1#1 then i else o
    let c := if x = 1#1 then o else i
    atowValue (entryPolicy e) (entryTy e) (n == 1#1) (accGet s e.mvl (entryTile e) r c))
    (pairs (outerOf e.wa) (innerOf e.wa)) s 0

/-- WTOA's writes. -/
def runWtoa (s : State) (e : MEntry) (n x : BitVec 1) : State × Flags :=
  tileUpdate e.mvl (entryTile e) (x == 1#1) (fun o i _ =>
    wtoaValue (entryPolicy e) (entryTy e) (n == 1#1) (readCell s e.wa (cell (entryWin e e.wa) o i)))
    (pairs (outerOf e.wa) (innerOf e.wa)) s 0

/-- nc of R198 and R199. -/
def tileCols (e : MEntry) : Nat := min e.vl (mvlLen e.mvl)

/-- One step of a row reduction: 0 SUM, 1 SQ, 2 MAX. -/
def aredStep (op : Nat) (acc : Num × Flags) (x : Num) : Num × Flags :=
  match op with
  | 0 => let r := accRound (acc.1.add 0 x).1; (fmtF32.decode r.1, acc.2 ||| r.2)
  | 1 => let r := accRound (acc.1.add 0 (x.mul x).1).1; (fmtF32.decode r.1, acc.2 ||| r.2)
  | _ => let r := acc.1.minmax true x; (r.1, acc.2 ||| r.2)

/-- The value ARED writes for row r. -/
def aredValue (s : State) (e : MEntry) (op r : Nat) : Nat × Flags :=
  let start : Num := if op = 2 then .inf true else .fin false 0 0
  let a := (List.range (tileCols e)).foldl (fun acc j =>
    aredStep op acc (fmtF32.decode (accGet s e.mvl (entryTile e) r j))) (start, 0)
  match entryTy e with
  | .flt f => let v := rnd f (entryPolicy e) a.1; (v.1, v.2 ||| a.2)
  | .int _ _ => (0, 0)

/-- ARED's writes (R198). -/
def runAred (s : State) (e : MEntry) (op : Nat) : State × Flags :=
  writeWindow e (fun _ r => aredValue s e op r) ((List.range (innerOf e.wa)).map fun r => (0, r)) s 0

/-- The source element of row r after input flush. -/
def rowScale (s : State) (e : MEntry) (r : Nat) : Num :=
  match entryTy e with
  | .flt f => matNum s e f e.wa 0 r false
  | .int _ _ => .nan false

/-- AMULR and AADDR (R199). -/
def runRows (s : State) (e : MEntry) (f : Num → Num → Num) : State × Flags :=
  tileUpdate e.mvl (entryTile e) false (fun r _ old => accRound (f (fmtF32.decode old) (rowScale s e r)))
    (pairs (innerOf e.wa) (tileCols e)) s 0

/-- The words of tile t are 0. -/
def zeroTile (s : State) (e : MEntry) : State :=
  let n := mvlLen e.mvl * mvlLen e.mvl
  withMat s fun m => { m with acc := m.acc.filter fun p => p.1 / n ≠ entryTile e }

/-- The plane entries of a slot become 127 (R179). -/
def resetPlane (s : State) (e : MEntry) (slot : Nat) : State :=
  let r0 := slot / mvlSpb e.mvl * mvlLen e.mvl / 16
  let c0 := slot % mvlSpb e.mvl * mvlLen e.mvl
  withMat s fun m => { m with plane := m.plane.filter fun p =>
    !(decide (r0 ≤ p.1 / 1024) && decide (p.1 / 1024 < r0 + mvlLen e.mvl / 16)
      && decide (c0 ≤ p.1 % 1024) && decide (p.1 % 1024 < c0 + mvlLen e.mvl)) }

/-- What an entry does when it completes: the state and its flags. -/
def runEntry (s : State) (e : MEntry) : State × Flags :=
  match e.op with
  | .mrankAdd _ _ _ _ => mulSteps e 1 0 s 0
  | .mrankSub _ _ _ _ => mulSteps e 1 0 s 0
  | .mma _ _ _ => mulSteps e ((mulDims e).1) e.k s e.flags
  | .mmasp _ _ _ => mulSteps e ((mulDims e).1) e.k s e.flags
  | .mzero _ => (zeroTile s e, 0)
  | .atow _ _ n x => runAtow s e n x
  | .wtoa _ _ n x => runWtoa s e n x
  | .ared _ _ o => runAred s e o.toNat
  | .amulr _ _ => runRows s e fun x y => (x.mul y).1
  | .aaddr _ _ => runRows s e fun x y => (x.add 0 y).1
  | .mstart _ _ => (withMat s fun m => { m with acc := [] }, 0)
  | .mstop => (withMat s fun m => { m with acc := [] }, 0)
  | .mclaim _ => (resetPlane s e (e.bytes.headD 0), 0)
  | _ => (s, 0)

/-! ## Valid rows (R181) -/

/-- The slot row a span lies in, as slot * 128 + row. -/
def rowKey (mvl : Word) (x : Span) : Option Nat :=
  if mvlLen mvl = 0 then none
  else
    let k := x.lo / (2 * slotBytes mvl)
    let slot := x.row / mvlLen mvl * mvlSpb mvl + k
    if mvlSpb mvl ≤ k || mvlSlots mvl ≤ slot then none else some (slot * 128 + x.row % mvlLen mvl)

/-- The rows that are not valid for the head of the queue: not those of fetches that have left the queue behind it. -/
def busyRows (m : MatState) : List Nat :=
  (m.rowBusy.filter fun p => !m.fetches.any fun f => f.id == p.2 && f.behind).map (·.1)

/-- The 16-row block of a slot row, which shares a scale-plane entry (R180). -/
def keyBlock (k : Nat) : Nat := k / 16

/-- The slot rows of a fetch's destination, by outer index. -/
def fetchRowKeys (f : Fetch) (o : Nat) : List Nat :=
  (((List.range (innerOf f.win)).map fun i => cellSpan f.win (cell (fetchWin f) o i)).filterMap (rowKey f.mvl)).eraseDups

/-- Plane mode (R188). -/
def planeMode (ty : Ty) (scale : Nat) : Bool := isB8 ty && scale != 0

/-- The type a fetch captured. -/
def fetchTy (f : Fetch) : Ty := (modeTy f.vmode).getD (.int true 8)

/-- The point of cell (o, i). -/
def fetchPoint (f : Fetch) (o i : Nat) : Point := if f.tr then pointAt f.c o i else pointAt f.c i o

/-- The rows that a fetch still delivers into a block leave its scale-plane entries as they are: it has delivered one there, whose
scales are those of the rest of the block, and none that remains differs from it in lying outside the tensor (log 142). -/
def fetchSettles (f : Fetch) (blk : Nat) : Bool :=
  let here (o : Nat) : Bool := (fetchRowKeys f o).any (keyBlock · == blk)
  !f.faulted && decide (0 < f.row) && here (f.row - 1)
  && (!planeMode (fetchTy f) f.scale || (List.range (outerOf f.win)).all fun o =>
    decide (o < f.row) || !here o || (List.range (innerOf f.win)).all fun i =>
      f.h.inside (fetchPoint f o i) == f.h.inside (fetchPoint f (f.row - 1) i))

/-- No fetch before the head of the queue still changes scale-plane entries of the block. -/
def blockSettled (m : MatState) (blk : Nat) : Bool :=
  m.fetches.all fun f => f.behind || !m.rowBusy.any (fun p => p.2 == f.id && keyBlock p.1 == blk) || fetchSettles f blk

/-- A test of every slot row of the spans, while some row is not valid. -/
def rowsAll (s : State) (mvl : Word) (ok : Nat → Bool) (xs : List Span) : Bool :=
  s.hart.mat.rowBusy.isEmpty || xs.all fun x =>
    match rowKey mvl x with
    | some k => ok k
    | none => true

/-- The rows that are read are valid (R181); of a binary8 multiplicand (`plane`) also their scale-plane entries are those that
program order gives them (R180, R182). -/
def rowsValid (s : State) (mvl : Word) (plane : Bool) (xs : List Span) : Bool :=
  rowsAll s mvl (fun k => !(busyRows s.hart.mat).contains k && (!plane || blockSettled s.hart.mat (keyBlock k))) xs

/-- Earlier fetches have delivered the rows that are written, and every other row of their blocks: their scale-plane entries are the
same, and the later write's stays (R180, R182). -/
def blocksFree (s : State) (mvl : Word) (xs : List Span) : Bool :=
  rowsAll s mvl (fun k => !(busyRows s.hart.mat).any fun b => keyBlock b == keyBlock k) xs

/-- The entry multiplies binary8 elements, which the scale plane scales (R180). -/
def readsPlane (e : MEntry) : Bool :=
  isB8 (entryTy e) && (match e.op with
    | .mrankAdd _ _ _ _ => true
    | .mrankSub _ _ _ _ => true
    | .mma _ _ _ => true
    | .mmasp _ _ _ => true
    | _ => false)

/-- The rows an entry reads and writes are ready; MSTOP waits for every fetch that has left the queue, MCLAIM for the
slot's rows. -/
def entryReady (s : State) (e : MEntry) : Bool :=
  match e.op with
  | .mstop => s.hart.mat.fetches.all (·.inQueue)
  | .mclaim _ => !(busyRows s.hart.mat).any fun k => k / 128 == e.bytes.headD 0
  | _ => rowsValid s e.mvl (readsPlane e) (entryReads e) && blocksFree s e.mvl (entryWrites e)

/-- The rows that step k of an MMA reads are valid. -/
def stepReady (s : State) (e : MEntry) : Bool :=
  let row (d : Word) (k : Nat) : List Span := (List.range (innerOf d)).map fun i => cellSpan d (cell (entryWin e d) k i)
  let ks := stepKs e e.k
  rowsValid s e.mvl (readsPlane e) ((ks.flatMap (row e.wb)) ++
    (match e.op with
     | .mmasp _ _ _ => allSpans (entryWin e e.wa)
     | _ => ks.flatMap (row e.wa)))

/-! ## The queue's events -/

/-- The K steps KSTEPS counts (R360). -/
def kSteps (e : MEntry) : Nat :=
  match e.op with
  | .mrankAdd _ _ _ _ => 1
  | .mrankSub _ _ _ _ => 1
  | .mma _ _ _ => (mulDims e).1
  | .mmasp _ _ _ => (mulDims e).1
  | _ => 0

/-- The flags that a matrix instruction ORs into VFLAGS (R78). -/
def matFlags : Flags := 0x11D#9

/-- The head of the queue completes. -/
def finishHead (s : State) (e : MEntry) (rest : List MEntry) : State :=
  let r := runEntry (withMat s fun m => { m with mq := rest, fetches := m.fetches.map fun f => { f with behind := false } }) e
  evCount 0x0004 (kSteps e) (orVflags r.1 (r.2 &&& matFlags))

/-- A hart whose matrix queue may start entries: it is on its core and not asked to stop. -/
def queueRuns (h : Hart) : Bool := h.who.resident && !h.stopReq

/-- An MFETCH leaves the queue, of which `rest` stays: its rows become not valid. `behind` says that a started instruction
stands before it. -/
def releaseFetch (s : State) (id : Nat) (rest : List MEntry) (behind : Bool) : State :=
  withMat s fun m =>
    { m with
      mq := rest
      fetches := m.fetches.map fun f => if f.id = id then { f with inQueue := false, behind := behind } else f
      rowBusy := m.rowBusy ++ ((m.fetches.filter (·.id == id)).flatMap fun f =>
        (List.range (outerOf f.win)).flatMap fun o => (fetchRowKeys f o).map fun k => (k, id)) }

/-- The entry is an MFETCH. -/
def isFetch (e : MEntry) : Bool := e.fetch != 0

/-- MATRIX_QUEUE_START (R182): the head of the queue starts, or leaves it. An instruction that has started is the head no
more: an MFETCH right behind it leaves the queue. -/
def execMatrixQueueStart (hid : Nat) (s : State) : Out :=
  match focus s hid with
  | none => .next s
  | some t =>
    match t.hart.mat.mq with
    | [] => .next s
    | e :: rest =>
      if !queueRuns t.hart then .next s
      else if e.started then
        match rest with
        | f :: r => if isFetch f then .next (releaseFetch t f.fetch (e :: r) true) else .next s
        | [] => .next s
      else if isFetch e then .next (releaseFetch t e.fetch rest false)
      else if !counted e then (if entryReady t e then .next (finishHead t e rest) else .next s)
      else .next (withMat t fun m => { m with mq := { e with started := true } :: rest })

/-- MATRIX_INSTRUCTION_COMPLETE (R185). -/
def execMatrixInstructionComplete (hid : Nat) (s : State) : Out :=
  match focus s hid with
  | none => .next s
  | some t =>
    match t.hart.mat.mq with
    | [] => .next s
    | e :: rest =>
      if t.hart.who.resident && e.started && entryReady t e then .next (finishHead t e rest) else .next s

/-- The entry has a K loop, between whose steps it can stop (R200). -/
def hasLoop (e : MEntry) : Bool :=
  match e.op with
  | .mma _ _ _ => true
  | .mmasp _ _ _ => true
  | _ => false

/-- One step of the K loop of a started MMA or MMASP. -/
def mmaStep (hid : Nat) (s : State) : State :=
  match focus s hid with
  | none => s
  | some t =>
    match t.hart.mat.mq with
    | [] => s
    | e :: rest =>
      if t.hart.who.resident && e.started && hasLoop e && decide (e.k < kSteps e) && stepReady t e then
        let r := mulStep t e (stepKs e e.k)
        withMat r.1 fun m => { m with mq := { e with k := e.k + stepSize e, flags := e.flags ||| r.2 } :: rest }
      else s

/-! ## MCOMP (R194) -/

/-- The rank of a value by magnitude, as an order key: class (0 finite, 1 infinite, 2 NaN) and magnitude, without input flush
(log 136). -/
def magKey (ty : Ty) (v : Nat) : Nat × Num :=
  match ty with
  | .int sg w => (0, numOfInt ((intOf sg w v).natAbs : Int))
  | .flt f =>
    match f.decode v with
    | .nan _ => (2, .fin false 0 0)
    | .inf _ => (1, .fin false 0 0)
    | x => (0, x.abs)

/-- a ranks above b. -/
def magAbove (a b : Nat × Num) : Bool := decide (b.1 < a.1) || (a.1 == b.1 && decide (0 < a.2.cmp b.2))

/-- Position p is kept: fewer than four of the eight rank before it. -/
def mcompKeeps (ty : Ty) (vs : List Nat) (p : Nat) : Bool :=
  let key (q : Nat) := magKey ty (vs.getD q 0)
  decide ((List.range 8).countP (fun q => magAbove (key q) (key p) || (q < p && !magAbove (key p) (key q))) < 4)

/-- One group of eight: its kept values in columns 4g to 4g + 3, and the bitmap in column g. -/
def mcompGroup (ty : Ty) (wv wm : WinOp) (vs : List Nat) (r g : Nat) (s : State) : State :=
  let ps := (List.range 8).filter (mcompKeeps ty vs)
  let s1 := (ps.mapIdx fun j p => (j, p)).foldl (fun t (jp : Nat × Nat) => writeCell t wv.desc (cell wv r (4 * g + jp.1)) (vs.getD jp.2 0)) s
  writeCell s1 wm.desc (cell wm r g) (ps.foldl (fun v p => v + 2 ^ p) 0)

/-- The operands of MCOMP in the order of its checks: values, metadata, source. -/
def mcompOpds (s : State) (wv wm wb : WinOp) (ty : Ty) : List Opd :=
  let m := outerOf wb.desc
  let c := innerOf wb.desc
  [{ matOpd s wv (some ty.width) (isRect wv.desc && outerOf wv.desc == m && 2 * innerOf wv.desc == c) with writes := count wv },
   { matOpd s wm none (isRect wm.desc && outerOf wm.desc == m && wEw wm.desc == 8 && 8 * innerOf wm.desc == c) with
     writes := count wm },
   { matOpd s wb (some ty.width) (isRect wb.desc && c % 8 == 0) with reads := count wb }]

/-- The group of MCOMP that holds element k of an operand: its columns a group number 8 of the source, 4 of the values and 1
of the metadata. -/
def mcompGroupOf (v : BitVec 6) (o : Opd) (k : Nat) : Nat :=
  if o.win.role = 2 then k / 8 else if o.win.num = v.toNat then k / 4 else k

/-- The uncorrectable error of the turn at an element of a group that MCOMP performs (R344): the group, and the trap. -/
def mcompStrike (s : State) (v : BitVec 6) (ops : List Opd) : Option (Nat × Trap) :=
  match s.hart.strike with
  | some (.fault k role lane) =>
    (ops.find? fun o => o.win.role == role && decide (k < o.writes + o.reads)
      && decide (s.hart.vec.vstart ≤ mcompGroupOf v o k)).map fun o =>
      let g := mcompGroupOf v o k
      let ovl := ops.any fun d => d.win.role != 2 && overlaps d.win d.writes (ops.filter fun x => x.win.role == 2)
      (g, { cause := causeDataUe, tval := 0, lane := groupLane lane
            pos := .element o.win.num role ovl (elemCell o.win k).1 (k / neff o.win) (k % neff o.win) o.win.desc g })
  | _ => none

/-- MCOMP (R194). Its element groups are of n_eff, which VL caps (R366). -/
def execMcomp (v b : BitVec 6) (s : State) : Out :=
  let i := Instr.mcomp v b
  let wv := (winOp s v 1).whole
  let wm := (winOp s (v + 1) 1).whole
  let wb := (winOp s b 2).whole
  let c8 := innerOf wb.desc / 8
  match vecChecks s i isSP (mcompOpds s wv wm wb) (fun _ => none) with
  | .error t => .next (takeTrap s t)
  | .ok ty =>
    if (mcompOpds s wv wm wb ty).any (heldBack s) then .next (waitOn s .stall)
    else
      let v0 := s.hart.vec.vstart
      let hit := mcompStrike s v (mcompOpds s wv wm wb ty)
      let ends := (hit.map Prod.fst).getD (outerOf wb.desc * c8)
      let t := (pairs (outerOf wb.desc) c8).foldl (fun u rg =>
        if rg.1 * c8 + rg.2 < v0 || ends ≤ rg.1 * c8 + rg.2 then u
        else mcompGroup ty wv wm ((List.range 8).map fun p => readCell s wb.desc (cell wb rg.1 (8 * rg.2 + p))) rg.1 rg.2 u) s
      match hit with
      | some h => .next (takeTrap t h.2)
      | none => .next (vecEnd t (egroups s (winOp s v 1) (v0 / c8 * neff (winOp s v 1))))

end Sys2Proof.Machine
end

