-- ==== Sys2Proof/Machine/Fetch.lean ====
section
/-!
DEFINITION. MFETCH (R186 to R189): dispatch, the decode chain of one element, deltas (R209), and the fetcher's events.
-/
namespace Sys2Proof.Machine

open Sys2Proof

/-! ## Dispatch (R187) -/

/-- HANDLE_BAD of MFETCH (R187). -/
def fetchHandleBad (s : State) (ty : Ty) (d : WinOp) (h : Nat) (c0 scale : Nat) (delta tr : Bool) : Bool :=
  let hs := rh s (h + 1)
  !(rh s h).isA kindTensor || (scale == 2 && !hs.isA kindScale)
  || (delta && !(rh s (if scale = 2 then h + 2 else h + 1)).isA kindDelta)
  || (planeMode ty scale
      && (!tr || rotRow d.ring d.desc (wRow0 d.desc) % mvlNow s % 16 != 0 || (scale == 2 && c0 % hs.blk != 0)))

/-- The fetch that an MFETCH hands to the fetcher. -/
def newFetch (s : State) (i : Instr) (h c : Nat) (a b : BitVec 5) (d : WinOp) (scale : Nat) (delta tr : Bool) (sb : Option Nat) : Fetch :=
  { id := s.nextId, op := i, ctr := c, sb := sb, deps := depsOf s clsMAT, issued := s.time, inQueue := true, behind := false, scale := scale,
    delta := delta, tr := tr, h := rh s h, hs := rh s (h + 1), hd := rh s (if scale = 2 then h + 2 else h + 1),
    c := coords (rx s a) (rx s b), win := d.desc, vmode := s.hart.vec.vmode, mvl := s.hart.mat.mvl, rcur := s.hart.vec.rcur,
    rlo := s.hart.vec.rlo, rhi := s.hart.vec.rhi, row := 0, faulted := false, flags := 0 }

/-- MFETCH in all of its forms (R186 to R189): `scale` 0 none, 1 the page, 2 the next handle. -/
def mfetchPost (s : State) (i : Instr) (h c : BitVec 4) (a b : BitVec 5) (w : BitVec 6) (x : BitVec 1) (scale : Nat) (delta : Bool) : Out :=
  let d := winOp s w 0
  let tr := x == 1#1
  let q (ty : Ty) : MReq :=
    { ops := [matOpd s d (some ty.width) (tileShape s d.desc)], tile := none
      handle := if fetchHandleBad s ty d h.toNat (wBits (rx s a) 0 32) scale delta tr then some (wordTrap i causeHandleBad) else none
      slots := [d], last := none }
  match matChecks s i (if scale ≠ 0 || delta then isSC else isMM) q with
  | .error t => .next (takeTrap s t)
  | .ok _ =>
    if queueFull s || cmdStalls s c.toNat then .next (waitOn s .stall)
    else
      let (sb, s1) := takeBind s c.toNat
      let f := newFetch s1 i h.toNat c.toNat a b d scale delta tr sb
      let s2 := withMat (countUp { s1 with nextId := s1.nextId + 1 } c.toNat) fun m => { m with fetches := m.fetches ++ [f] }
      .next (advance (evCount 0x0008 1 (postEntry s2 { newEntry s2 i d.desc 0 with fetch := f.id })))

/-- MFETCH (R186). -/
def execMfetch (h c : BitVec 4) (a b : BitVec 5) (w : BitVec 6) (x : BitVec 1) (s : State) : Out :=
  mfetchPost s (.mfetch h c a b w x) h c a b w x 0 false

/-- MFETCH.D (R186). -/
def execMfetchD (h c : BitVec 4) (a b : BitVec 5) (w : BitVec 6) (x : BitVec 1) (s : State) : Out :=
  mfetchPost s (.mfetchD h c a b w x) h c a b w x 0 true

/-- MFETCH.PG (R186). -/
def execMfetchPg (h c : BitVec 4) (a b : BitVec 5) (w : BitVec 6) (x : BitVec 1) (s : State) : Out :=
  mfetchPost s (.mfetchPg h c a b w x) h c a b w x 1 false

/-- MFETCH.PG.D (R186). -/
def execMfetchPgD (h c : BitVec 4) (a b : BitVec 5) (w : BitVec 6) (x : BitVec 1) (s : State) : Out :=
  mfetchPost s (.mfetchPgD h c a b w x) h c a b w x 1 true

/-- MFETCH.SH (R186). -/
def execMfetchSh (h c : BitVec 4) (a b : BitVec 5) (w : BitVec 6) (x : BitVec 1) (s : State) : Out :=
  mfetchPost s (.mfetchSh h c a b w x) h c a b w x 2 false

/-- MFETCH.SH.D (R186). -/
def execMfetchShD (h c : BitVec 4) (a b : BitVec 5) (w : BitVec 6) (x : BitVec 1) (s : State) : Out :=
  mfetchPost s (.mfetchShD h c a b w x) h c a b w x 2 true

/-! ## One element (R188, R209) -/

/-- The policy MFETCH captured. -/
def fetchPolicy (f : Fetch) : Policy := policyOf f.vmode

/-- A raw number of `n` bytes, read byte by byte. -/
def rawNat (s : State) (p : Path) (va n : Nat) : MRes Nat := (loadBytes s p va n).bind fun bs => .ok (natOfBytes bs)

/-- The positions of a tile record, as n16 numbers. -/
def deltaPositions (n v : Nat) : List Nat := (List.range n).map fun j => natBits v (16 * j) 16

/-- Strictly ascending. -/
def ascending : List Nat → Bool
  | a :: b :: t => decide (a < b) && ascending (b :: t)
  | _ => true

/-- The delta at a point (R209), decoded in the stored format. -/
def deltaAt (s : State) (p : Path) (pol : Policy) (h : Handle) (pt : Point) (stored : Ty) : MRes Num :=
  let zero : Num := .fin false 0 0
  let d0 := pt.d0.toNat
  let d1 := pt.d1.toNat
  let at_ := h.base + pt.d2.toNat * h.str2 + pt.d3.toNat * h.str3 + 8 * (d1 / 32 * h.ld + d0 / 32)
  (rawNat s p at_ 8).bind fun e =>
    if e / 2 ^ 56 ≠ 0 then .trap causeDecodeError at_
    else if e = 0 then .ok zero
    else (rawNat s p e 2).bind fun n =>
      if 1024 < n then .trap causeDecodeError e
      else (rawNat s p (e + 2) (2 * n)).bind fun v =>
        let ps := deltaPositions n v
        if !ascending ps then .trap causeDecodeError e
        else match ps.findIdx? (· == d1 % 32 * 32 + d0 % 32) with
          | none => .ok zero
          | some j =>
            let va := e + 2 + 2 * n + j * h.ebits / 8
            if h.ebits ≠ stored.width then .trap causeFormatMismatch va
            else (rawNat s p va (elemBytes h.ebits)).bind fun b =>
              .ok (storedNum pol stored (if h.ebits = 4 then (if j % 2 = 0 then b % 16 else b / 16) else b))

/-- The block scale of a point under the fetch's source: none where there is none. A SCALE handle holds one byte for each
block of dimension 0 (log 20); outside its extents the byte is `free`. -/
def fetchScale (s : State) (p : Path) (f : Fetch) (pt : Point) (page : Option Nat) (free : Nat) : MRes (Option Nat) :=
  match f.scale with
  | 0 => .ok none
  | 1 => .ok page
  | _ =>
    let q : Point := { pt with d0 := ((pt.d0.toNat / f.hs.blk : Nat) : Int) }
    if !f.hs.inside q then .ok (some (free % 256))
    else (readPoint s p f.hs q (.int false 8)).bind fun x => .ok (some x.bits)

/-- The delta of a point, with `.D`. -/
def fetchDelta (s : State) (p : Path) (f : Fetch) (pt : Point) (stored : Ty) : MRes (Option Num) :=
  if f.delta then (deltaAt s p (fetchPolicy f) f.hd pt stored).bind fun d => .ok (some d) else .ok none

/-- The decode chain after the reads: the cell's bits, its plane entry, and the flags. In plane mode the cell keeps of a wider
stored element the low 8 bits; a delta of 0 of `.D` is added as +0, and without `.D` nothing is (log 140). -/
def fetchCell (p : Policy) (ty : Ty) (plane : Bool) (x : PointVal) (sc : Option Nat) (dl : Option Num) : Nat × Nat × Flags :=
  if plane then (x.bits, sc.getD 127, 0)
  else match sc, dl with
    | none, none =>
      if x.stored = ty then (x.bits, 127, 0)
      else let r := convert p ty x.stored x.bits; (r.1, 127, r.2)
    | _, _ =>
      let v := scaleNum (storedNum p x.stored x.bits) (sc.getD 127)
      let y := match dl with | none => (v, 0) | some d => v.add p.rm d
      let r := convNum p ty y.1
      (r.1, 127, r.2 ||| y.2 ||| storedFlag x.stored x.bits)

/-- What goes into a cell: its bits, its plane entry, and the flags. -/
def fetchElem (s : State) (p : Path) (f : Fetch) (ty : Ty) (o i free : Nat) : MRes (Nat × Nat × Flags) :=
  let pt := fetchPoint f o i
  if !f.h.inside pt then .ok (0, 127, 0)
  else (readPoint s p f.h pt ty).bind fun x =>
    (fetchScale s p f pt x.scale free).bind fun sc =>
      (fetchDelta s p f pt x.stored).bind fun dl => .ok (fetchCell (fetchPolicy f) ty (planeMode ty f.scale) x sc dl)

/-- The first cell whose point lies inside the extents. -/
def firstInside (f : Fetch) : Option (Nat × Nat) :=
  (pairs (outerOf f.win) (innerOf f.win)).find? fun oi => f.h.inside (fetchPoint f oi.1 oi.2)

/-- The test of c0 against the page's block size, at the first element inside the extents (R187). -/
def pageBlockTest (s : State) (p : Path) (f : Fetch) (ty : Ty) (o i : Nat) : MRes Unit :=
  if planeMode ty f.scale && f.scale == 1 && firstInside f == some (o, i) then
    (redirect s p f.h (fetchPoint f o i)).bind fun l =>
      (findPoint s p f.h l (fetchPoint f o i) .load).bind fun x =>
        let b := match x.loc with
          | .pa _ w _ => leafBlock w
          | _ => 0
        if b ≠ 0 && f.c.getD 0 0 % b ≠ 0 then .trap causeFormatMismatch x.va else .ok ()
  else .ok ()

/-- The elements of a row up to the first that faults, and that fault. -/
def rowElems (g : Nat → MRes (Nat × Nat × Flags)) : List Nat → MRes (List (Nat × Nat × Flags) × Option (BitVec 8 × Nat))
  | [] => .ok ([], none)
  | i :: t =>
    match g i with
    | .ok v => (rowElems g t).bind fun r => .ok (v :: r.1, r.2)
    | .trap c a => .ok ([], some (c, a))
    | .wait w => .wait w

/-! ## The fetcher's events -/

def fetchAt (s : State) (id : Nat) : Option Fetch := s.hart.mat.fetches.find? (·.id == id)

def updFetch (s : State) (id : Nat) (g : Fetch → Fetch) : State :=
  withMat s fun m => { m with fetches := m.fetches.map fun f => if f.id = id then g f else f }

/-- What fills a cell after a fault (R189). -/
def fillValue (ty : Ty) : Nat :=
  match ty with
  | .flt f => f.qnan
  | .int _ _ => 0

/-- The values of row o written into their cells; those that are missing are filled. -/
def deliverRow (s : State) (f : Fetch) (o : Nat) (vs : List (Nat × Nat × Flags)) : State :=
  (List.range (innerOf f.win)).foldl (fun t i =>
    let v := vs.getD i (fillValue (fetchTy f), 127, 0)
    matWrite t f.mvl f.win (cell (fetchWin f) o i) v.1 v.2.1) s

/-- A row has been delivered: its slot rows are valid again. -/
def rowDone (s : State) (f : Fetch) (fl : Flags) (faulted : Bool) : State :=
  let keys := fetchRowKeys f f.row
  let s1 := withMat s fun m => { m with rowBusy := m.rowBusy.filter fun p => !(p.2 == f.id && keys.contains p.1) }
  updFetch s1 f.id fun g => { g with row := g.row + 1, flags := g.flags ||| fl, faulted := g.faulted || faulted }

/-- The fetch's next row has a slot row in the block of one of these: their scale-plane entries are the same (R180). -/
def rowBlockMeets (f : Fetch) (ks : List Nat) : Bool := (fetchRowKeys f f.row).any fun k => ks.any fun j => keyBlock j == keyBlock k

/-- The started instruction that the fetch has left the queue behind still reads or writes slot rows of its next row, or
scale-plane entries of them. -/
def rowHeld (s : State) (f : Fetch) : Bool :=
  f.behind && (match s.hart.mat.mq with
    | e :: _ =>
      let rd := (entryReads e).filterMap (rowKey e.mvl)
      (if isB8 (entryTy e) then rowBlockMeets f rd else (fetchRowKeys f f.row).any rd.contains)
      || rowBlockMeets f ((entryWrites e).filterMap (rowKey e.mvl))
    | [] => false)

/-- Earlier fetches have delivered the slot rows of the next row and of its blocks, earlier matrix instructions have finished with them (R183),
and the accesses a FENCEX names have performed. -/
def rowMayGo (s : State) (f : Fetch) : Bool :=
  !f.inQueue && decide (f.row < outerOf f.win) && depsDone s f.deps && !rowHeld s f
  && !rowBlockMeets f ((s.hart.mat.rowBusy.filter fun p => decide (p.2 < f.id)).map (·.1))

/-- MFETCH_ROW_VALID (R181, R188, R189): the next row of a fetch is read and written, the whole of it in this step (log 141). -/
def execMfetchRowValid (hid f : Nat) (s : State) : Out :=
  match focus s hid with
  | none => .next s
  | some t =>
    match fetchAt t f with
    | none => .next s
    | some k =>
      if !rowMayGo t k then .next s
      else if k.faulted then .next (rowDone (deliverRow t k k.row []) k 0 false)
      else
        let ty := fetchTy k
        match viaView t clsMAT fun r p => rowElems (fun i => (pageBlockTest r p k ty k.row i).bind fun _ =>
            fetchElem r p k ty k.row i (Config.freeWord (t.freeIdx + i)).toNat) (List.range (innerOf k.win)) with
        | .ok (vs, flt) =>
          let t1 := { deliverRow t k k.row vs with freeIdx := t.freeIdx + innerOf k.win }
          let fl := vs.foldl (fun x v => x ||| v.2.2) (0 : Flags)
          match flt with
          | none => .next (rowDone t1 k fl false)
          | some (c, a) => .next (rowDone (errBound (poisonCounter t1 k.ctr a (wordOf k.op) c clsMAT) k.sb) k fl true)
        | .trap _ _ => .next s
        | .wait _ => .next s

/-- MFETCH_COMPLETE (R189): every cell has been written. -/
def execMfetchComplete (hid f : Nat) (s : State) : Out :=
  match focus s hid with
  | none => .next s
  | some t =>
    match fetchAt t f with
    | none => .next s
    | some k =>
      if k.inQueue || decide (k.row < outerOf k.win) then .next s
      else
        let t1 := countDown (withMat t fun m => { m with fetches := m.fetches.filter fun g => g.id ≠ k.id }) k.ctr
        let t2 := orVflags t1 (k.flags &&& matFlags)
        .next (if k.faulted then t2 else arriveBound t2 k.sb)

end Sys2Proof.Machine
end

