-- ==== Sys2Proof/Machine/Copy.lean ====
section
/-!
DEFINITION. The copy and imposition engines: COPY and QCOPY in both forms (R234 to R239), RELAY (R240 to R243), engine
reads of logical images and engine writes (R331, R344).
-/
namespace Sys2Proof.Machine

open Sys2Proof

/-! ## Engine reads and writes (R331) -/

/-- A byte of a page's logical image. -/
def imageByte (s : State) (p : Path) (va : Nat) : MRes Byte :=
  (locate s p va .load).bind fun l =>
    match l with
    | .pa a w lg => (imageBytes s w lg (a - a % 2 ^ lg) (a % 2 ^ lg) 1 va).bind fun bs =>
        .ok (BitVec.ofNat 8 (rawValue s p.sp.asid va 1 (bs.headD 0).toNat))
    | _ => .trap causeLoadPage va

/-- `n` bytes of logical images from `va` on. -/
def imageList (s : State) (p : Path) (va : Nat) : Nat → MRes (List Byte)
  | 0 => .ok []
  | n + 1 => (imageByte s p va).bind fun b => (imageList s p (va + 1) n).bind fun t => .ok (b :: t)

/-- A byte an engine writes: all of it, or one nibble (mask 0x0F or 0xF0). -/
structure Wr where
  va   : Nat
  mask : Nat
  byte : Nat
deriving DecidableEq, Repr

/-- The writes of an element of `e` bits. -/
def elemWr (va nib e v : Nat) : List Wr :=
  if e = 4 then [if nib = 0 then { va := va, mask := 0x0F, byte := v % 16 } else { va := va, mask := 0xF0, byte := v % 16 * 16 }]
  else (List.range (e / 8)).map fun j => { va := va + j, mask := 0xFF, byte := natBits v (8 * j) 8 }

/-- The byte after a write. -/
def Wr.merge (w : Wr) (old : Nat) : Nat :=
  if w.mask = 0x0F then old / 16 * 16 + w.byte else if w.mask = 0xF0 then old % 16 + w.byte else w.byte

/-- The writes of raw accesses (R243). -/
def rawWrs (s : State) (p : Path) (ws : List Wr) : List Wr :=
  ws.map fun w => { w with byte := rawValue s p.sp.asid w.va 1 w.byte &&& w.mask }

/-- The writes through a handle: raw ones where it has no redirection. -/
def ownWrs (s : State) (p : Path) (h : Handle) (ws : List Wr) : List Wr := if h.rlv then ws else rawWrs s p ws

/-- A compressed page: its first virtual address, its frame and its leaf. -/
structure CmpPage where
  va    : Nat
  frame : Nat
  leaf  : Word
  lg    : Nat
deriving DecidableEq, Repr

/-- Writes to pages that are not compressed, and the compressed pages among the targets. -/
def plainWrites (p : Path) : List Wr → State → List CmpPage → MRes (State × List CmpPage)
  | [], u, ps => .ok (u, ps)
  | w :: t, u, ps =>
    (placeOf u p w.va 1 .store .fifoOnly).bind fun l =>
      match l with
      | .pa a leaf lg =>
        if leafCmp leaf then
          let pg : CmpPage := { va := w.va - w.va % 2 ^ lg, frame := a - a % 2 ^ lg, leaf := leaf, lg := lg }
          plainWrites p t u (if ps.contains pg then ps else ps ++ [pg])
        else (putBytes u l none w.va (bytesOfNat 1 (w.merge (natOfBytes (locBytes u l 1))))).bind fun u' => plainWrites p t u' ps
      | _ => .trap causeStorePage w.va

/-- The bytes of a page's logical image: all of the page, or with embedded scales its runs (R81). -/
def logicalBytes (pg : CmpPage) : Nat :=
  if leafBg pg.leaf = 0 then 2 ^ pg.lg
  else
    let fw := match leafTy pg.leaf with | some t => t.width | none => 8
    2 ^ pg.lg / runStride fw (leafBlock pg.leaf) * runStride fw (leafBlock pg.leaf)

/-- The byte that the writes leave at an address, if they cover all of it. -/
def writtenByte (ws : List Wr) (va : Nat) : Option Nat :=
  let at_ := ws.filter fun w => w.va == va
  let lo := (at_.filter fun w => w.mask != 0xF0).getLast?
  let hi := (at_.filter fun w => w.mask != 0x0F).getLast?
  match lo, hi with
  | some a, some b => some (a.byte % 16 + b.byte / 16 * 16)
  | _, _ => none

/-- The 64-byte lines of a list of bytes. -/
def linesOf (bs : List Byte) : Nat → List (List Byte)
  | 0 => []
  | n + 1 => bs.take 64 :: linesOf (bs.drop 64) n

/-- A list of bytes with zeros up to `n`. -/
def padTo (n : Nat) (bs : List Byte) : List Byte := bs ++ List.replicate (n - bs.length) 0

/-- The packed form of a page (R331): the bitmap, and the lines with a nonzero byte. -/
def packPage (lg : Nat) (img : List Byte) : List Byte × List (List Byte) :=
  let ls := linesOf (padTo (2 ^ lg) img) (2 ^ lg / 64)
  let marks := ls.map fun l => l.any (· ≠ 0)
  ((List.range (2 ^ lg / 512)).map fun j =>
      BitVec.ofNat 8 ((List.range 8).foldl (fun v i => v + (if marks.getD (8 * j + i) false then 2 ^ i else 0)) 0),
   ls.filter fun l => l.any (· ≠ 0))

/-- Storing lines of 64 bytes one after the other in physical memory. -/
def storeLines (pg : CmpPage) : Nat → List (List Byte) → State → MRes State
  | _, [], u => .ok u
  | a, l :: t, u => (putBytes u (.pa a pg.leaf pg.lg) none pg.va l).bind fun u' => storeLines pg (a + 64) t (clearPoison u' a l.length)

/-- A whole compressed page is written in packed form, or FORMAT_MISMATCH (R331). -/
def writePage (u : State) (pg : CmpPage) (ws : List Wr) : MRes State :=
  let bs := (List.range (logicalBytes pg)).map fun j => writtenByte ws (pg.va + j)
  if bs.any (·.isNone) then .trap causeFormatMismatch pg.va
  else
    let (bm, ls) := packPage pg.lg (bs.map fun b => BitVec.ofNat 8 (b.getD 0))
    if 2 ^ pg.lg < cmpBody pg.lg + 64 * ls.length then .trap causeFormatMismatch pg.va
    else (storeLines pg pg.frame (linesOf bm (ceilDiv bm.length 64)) u).bind fun u' => storeLines pg (pg.frame + cmpBody pg.lg) ls u'

/-- The pages written one after the other. -/
def writePages (all : List Wr) : List CmpPage → State → MRes State
  | [], u => .ok u
  | pg :: t, u => (writePage u pg all).bind fun u' => writePages all t u'

/-- The virtual lines that a list of writes covers whole. -/
def wholeLines (ws : List Wr) : List Nat :=
  ((ws.map fun w => w.va / 64).eraseDups).filter fun l =>
    (List.range 64).all fun j => ws.any fun w => w.va == 64 * l + j && w.mask == 0xFF

/-- Engine writes: `ws` are written; `all` are the writes of the whole command, which must cover a compressed page. Marks
of lines written whole are cleared (R344). -/
def engineWrite (s : State) (p : Path) (ws : List Wr) (all : MRes (List Wr)) : MRes State :=
  (plainWrites p ws s []).bind fun r =>
    let u := if r.1.poison.isEmpty then r.1 else (wholeLines ws).foldl (fun t l => clearPoisonAt s t p (64 * l) 64) r.1
    if r.2.isEmpty then .ok u else all.bind fun a => writePages a r.2 u

/-- Raw writes of an engine. -/
def rawWrite (s : State) (p : Path) (ws : List Wr) (all : MRes (List Wr)) : MRes State := engineWrite s p (rawWrs s p ws) all

/-- The writes of a list of items. -/
def gatherWr (f : Nat → MRes (List Wr)) : List Nat → MRes (List Wr)
  | [] => .ok []
  | k :: t => (f k).bind fun a => (gatherWr f t).bind fun b => .ok (a ++ b)

/-! ## Moving points (R235) -/

/-- Point number k of a tensor in raster order. -/
def rasterPoint (h : Handle) (k : Nat) : Point :=
  let q0 := k / h.ext 0
  let q1 := q0 / h.ext 1
  { d0 := (k % h.ext 0 : Nat), d1 := (q0 % h.ext 1 : Nat), d2 := (q1 % h.ext 2 : Nat), d3 := (q1 / h.ext 2 : Nat) }

def Handle.size (h : Handle) : Nat := h.ext 0 * h.ext 1 * h.ext 2 * h.ext 3

/-- The block size of an element's page, where its scales are embedded. -/
def ElemAt.blk (x : ElemAt) : Nat :=
  match x.scale, x.loc with
  | some _, .pa _ w _ => leafBlock w
  | _, _ => 0

/-- The element's page is compressed. -/
def ElemAt.packed (x : ElemAt) : Bool :=
  match x.loc with
  | .pa _ w _ => leafCmp w
  | _ => false

/-- The write of an embedded scale byte. -/
def ElemAt.scaleWr (x : ElemAt) (v : Nat) : List Wr :=
  match x.scale, x.loc with
  | some off, .pa _ _ lg => [{ va := x.va - x.va % 2 ^ lg + off, mask := 0xFF, byte := v }]
  | _, _ => []

/-- The page's format, if any, has the element width. -/
def ElemAt.widthOk (x : ElemAt) (e : Nat) : Bool :=
  match x.stored with
  | some t => t.width == e
  | none => true

/-- Moving the bits of one point from one storage to another (R235); `ok` is the condition on the block. -/
def moveWr (s : State) (p : Path) (hs : Handle) (ls : Layout) (pt : Point) (hd : Handle) (ld : Layout) (tp : Point)
    (ok : Nat → Bool) : MRes (List Wr) :=
  (findPoint s p hs ls pt .load).bind fun x =>
    if !x.widthOk hs.ebits then .trap causeFormatMismatch x.va
    else (handleValue s p hs x).bind fun v => (elemScale s x).bind fun sc =>
      (findPoint s p hd ld tp .store).bind fun y =>
        if y.packed || !y.widthOk hd.ebits || x.blk != y.blk || (y.blk != 0 && !ok y.blk) then .trap causeFormatMismatch y.va
        else .ok (ownWrs s p hd (elemWr y.va y.nib hd.ebits v ++ (match sc with | some b => y.scaleWr b | none => [])))

/-- A point moved by the command's offset. -/
def offsetPoint (c : List Nat) (p : Point) : Point :=
  { d0 := p.d0 + (c.getD 0 0 : Nat), d1 := p.d1 + (c.getD 1 0 : Nat), d2 := p.d2 + (c.getD 2 0 : Nat), d3 := p.d3 + (c.getD 3 0 : Nat) }

/-- Point number k of COPY's handle-pair form. -/
def copyPoint (s : State) (p : Path) (k : Cmd) (j : Nat) : MRes (List Wr) :=
  let pt := rasterPoint k.hs j
  let tp := offsetPoint k.c pt
  (redirect s p k.hs pt).bind fun ls => (redirect s p k.h tp).bind fun ld =>
    moveWr s p k.hs ls pt k.h ld tp fun b => k.c.getD 0 0 % b == 0 && k.hs.ext 0 % b == 0

/-! ## Parameter blocks -/

def Cmd.blk (k : Cmd) : Nat := natOfBytes k.block

/-- A signed 64-bit field of a block. -/
def blockInt (v off : Nat) : Int := sextNat 64 (blockField v off 64)

/-- The source and destination of byte j of COPY's block form (R236). -/
def copyBytePair (v j : Nat) : Nat × Nat :=
  let n0 := blockField v 16 32
  let n1 := blockField v 20 32
  let r : Int := (j / n0 % n1 : Nat)
  let z : Int := (j / n0 / n1 : Nat)
  let i : Int := (j % n0 : Nat)
  (addr64 ((blockField v 0 64 : Nat) + z * blockInt v 48 + r * blockInt v 32 + i),
   addr64 ((blockField v 8 64 : Nat) + z * blockInt v 56 + r * blockInt v 40 + i))

/-- Sixteen bytes of COPY's block form. -/
def copyPiece (s : State) (p : Path) (v j : Nat) : MRes (List Wr) :=
  let a := copyBytePair v (16 * j)
  (imageList s p a.1 16).bind fun bs => .ok (rawWrs s p (bs.mapIdx fun i b => { va := a.2 + i, mask := 0xFF, byte := b.toNat }))

/-- The lowest and highest byte of a side: base, counts and strides. -/
def copySpan (base : Nat) (n0 n1 n2 : Nat) (s1 s2 : Int) : Int × Int :=
  let r : Int := (n1 - 1 : Nat) * s1
  let z : Int := (n2 - 1 : Nat) * s2
  (base + min 0 r + min 0 z, base + max 0 r + max 0 z + (n0 - 1 : Nat))

/-- PARAM_BAD of COPY's block (R236). -/
def copyBlockBad (v : Nat) : Bool :=
  let n0 := blockField v 16 32
  let n1 := blockField v 20 32
  let n2 := blockField v 24 32
  let a := copySpan (blockField v 0 64) n0 n1 n2 (blockInt v 32) (blockInt v 48)
  let b := copySpan (blockField v 8 64) n0 n1 n2 (blockInt v 40) (blockInt v 56)
  blockField v 28 32 != 0 || n0 == 0 || n1 == 0 || n2 == 0 || decide (2 ^ 32 < n0 * n1 * n2)
  || [blockField v 0 64, blockField v 8 64, n0, blockField v 32 64, blockField v 40 64, blockField v 48 64, blockField v 56 64].any
      (fun x => x % 16 != 0)
  || (decide (a.1 ≤ b.2) && decide (b.1 ≤ a.2))

/-- The block of a command read on the S path (R227): MISALIGN, a wait, or its double words. -/
def withBlock (s0 : State) (a : BitVec 5) (n : Nat) (k : State → List Word → Out) : Out :=
  let s := syncScalar s0
  if (rx s a).toNat % 64 ≠ 0 then .next (takeTrap s (plainTrap causeMisalign (rx s a)))
  else if fenced s clsS then .next (waitOn s .stall)
  else loadOut s (loadWords s (s.hart.path s) (rx s a).toNat n) (k s)

/-- A command with a block of `n` double words on path class `cls`: PARAM_BAD, a stall, or its issue. -/
def blockCmd (s : State) (i : Instr) (c : BitVec 4) (a : BitVec 5) (n cls : Nat) (bad : Nat → Bool) : Out :=
  withBlock s a n fun s ws =>
    let v := natOfWords ws
    if bad v then .next (takeTrap s (plainTrap causeParamBad (rx s a)))
    else if cmdStalls s c.toNat then .next (waitOn s .stall)
    else .next (advance (issueCmd s i c.toNat cls fun k => { k with block := bytesOfNat (8 * n) v, addr := rx s a }))

/-! ## QCOPY (R238, R239) -/

/-- The exponent of the largest finite value: floor(log2 maxfin). -/
def fmtEmax (f : Fmt) : Int := topExp (f.decodeMag f.maxCode).1 (f.decodeMag f.maxCode).2

/-- A value times 2^n. -/
def numScale (x : Num) (n : Int) : Num :=
  match x with
  | .fin s m e => .fin s m (e + n)
  | y => y

def numIsFin : Num → Bool
  | .fin _ _ _ => true
  | _ => false

/-- The larger of two finite magnitudes. -/
def numMaxAbs (a b : Num) : Num := if a.abs.cmp b.abs < 0 then b.abs else a.abs

/-- The elements of a block at scale s. -/
def qElems (f : Fmt) (p : Policy) (s : Int) (xs : List Num) : List Nat := xs.map fun x => (rnd f p (numScale x (-s))).1

/-- The error of one element (R239). -/
def qTerm (f : Fmt) (s : Int) (x : Num) (q : Nat) : Num :=
  let d := f.decode q
  match x with
  | .inf n => if d = .inf n then .fin false 0 0 else .inf false
  | _ =>
    if !numIsFin d then .inf false
    else
      let e := ((numScale d s).add 0 x.neg).1
      (e.mul e).1

/-- The exact error of a block at scale s. -/
def qErr (f : Fmt) (p : Policy) (s : Int) (xs : List Num) : Num :=
  ((xs.zip (qElems f p s xs)).map fun xq => qTerm f s xq.1 xq.2).foldl (fun a b => (a.add 0 b).1) (.fin false 0 0)

/-- The scales that qblock tries, in ascending order. -/
def qCands (f : Fmt) (xs : List Num) : List Int :=
  let m := (xs.filter numIsFin).foldl numMaxAbs (.fin false 0 0)
  match m with
  | .fin _ n e =>
    if n = 0 then [0]
    else
      let t := topExp n e - fmtEmax f
      let cs := [t - 1, t, t + 1].filter fun s => decide (-127 ≤ s) && decide (s ≤ 127)
      if cs.isEmpty then [if t < -127 then -127 else 127] else cs
  | _ => [0]

/-- qblock of R239: the scale byte, and the elements. -/
def qblock (f : Fmt) (p : Policy) (xs : List Num) : Nat × List Nat :=
  if xs.any Num.isNaN then (0xFF, xs.map fun _ => f.qnan)
  else
    let best := (qCands f xs).foldl (fun (b : Option (Int × Num)) s =>
      let e := qErr f p s xs
      match b with
      | none => some (s, e)
      | some (s0, e0) => if e.cmp e0 ≤ 0 then some (s, e) else some (s0, e0)) none
    match best with
    | some (s, _) => ((s + 127).toNat, qElems f p s xs)
    | none => (127, qElems f p 0 xs)

/-- The block size of the page of Hd's first target element, with its tests (R238). -/
def qBlockSize (s : State) (p : Path) (k : Cmd) : MRes Nat :=
  let tp := offsetPoint k.c (rasterPoint k.hs 0)
  (redirect s p k.h tp).bind fun ld => (findPoint s p k.h ld tp .store).bind fun y =>
    if y.blk = 0 || k.c.getD 0 0 % y.blk ≠ 0 || k.hs.ext 0 % y.blk ≠ 0 then .trap causeFormatMismatch y.va else .ok y.blk

/-- A source value of QCOPY's handle-pair form. -/
def qSource (s : State) (p : Path) (h : Handle) (pt : Point) : MRes Num :=
  (redirect s p h pt).bind fun l => (findPoint s p h l pt .load).bind fun x =>
    match x.stored, h.ebits == 32 with
    | none, false => .trap causeFormatMismatch x.va
    | st, _ =>
      let ty := st.getD (.flt fmtF32)
      if ty.width ≠ h.ebits then .trap causeFormatMismatch x.va
      else (handleValue s p h x).bind fun v => (elemScale s x).bind fun sc =>
        .ok (scaleNum (storedNum .plain ty v) (sc.getD 127))

/-- A target element of QCOPY's handle-pair form: its place and format. -/
def qTarget (s : State) (p : Path) (h : Handle) (pt : Point) : MRes (ElemAt × Fmt) :=
  (redirect s p h pt).bind fun l => (findPoint s p h l pt .store).bind fun y =>
    match y.stored with
    | some (.flt f) => if f.width = 8 && h.ebits = 8 && y.blk ≠ 0 then .ok (y, f) else .trap causeFormatMismatch y.va
    | _ => .trap causeFormatMismatch y.va

/-- A list of results. -/
def seqRes {α : Type} (f : Nat → MRes α) : List Nat → MRes (List α)
  | [] => .ok []
  | k :: t => (f k).bind fun a => (seqRes f t).bind fun b => .ok (a :: b)

/-- SAT of QCOPY's handle-pair form. -/
def qSat (i : Instr) : Bool :=
  match i with
  | .qcopy _ _ _ _ x _ => x == 1#1
  | _ => false

/-- Block number j of QCOPY's handle-pair form, of b elements: each with its block's scale, at the scale byte that R81 gives
the element (DEDUCED, log 33). -/
def qcopyBlockWr (s : State) (p : Path) (k : Cmd) (b j : Nat) : MRes (List Wr) :=
  let at_ (n : Nat) : Point := rasterPoint k.hs (j * b + n)
  (seqRes (fun n => qSource s p k.hs (at_ n)) (List.range b)).bind fun xs =>
    (seqRes (fun n => qTarget s p k.h (offsetPoint k.c (at_ n))) (List.range b)).bind fun ys =>
      match ys with
      | [] => .ok []
      | y :: _ =>
        let q := qblock y.2 { Policy.plain with sat := qSat k.op } xs
        .ok (ownWrs s p k.h ((ys.zip q.2).flatMap fun yq => elemWr yq.1.1.va 0 8 yq.2 ++ yq.1.1.scaleWr q.1))

/-- PARAM_BAD of QCOPY's block (R238). -/
def qcopyBlockBad (v : Nat) : Bool :=
  let n := blockField v 24 32
  let st := blockField v 28 8
  let b := blockField v 30 8
  let mode := blockField v 31 8
  let dt := BitVec.ofNat 8 (blockField v 29 8)
  blockField v 32 256 != 0 || blockField v 0 64 % 16 != 0 || blockField v 8 64 % 16 != 0
  || !(b == 16 || b == 32) || n == 0 || n % b != 0 || !(st == 0x11 || st == 0x12 || st == 0x13)
  || !(typeCodeOk dt && decide (0x80 ≤ dt.toNat)) || decide (16 ≤ mode) || decide (4 < mode % 8)

/-- Block number j of QCOPY's block form. -/
def qcopyRawWr (s : State) (p : Path) (v j : Nat) : MRes (List Wr) :=
  let b := blockField v 30 8
  let mode := blockField v 31 8
  let pol : Policy := { Policy.plain with rm := mode % 8, sat := natBit mode 3 }
  match tyOfCode (BitVec.ofNat 8 (blockField v 28 8)), tyOfCode (BitVec.ofNat 8 (blockField v 29 8)) with
  | some (.flt g), some (.flt f) =>
    let n := g.width / 8
    (imageList s p (blockField v 0 64 + j * b * n) (b * n)).bind fun bs =>
      let xs := (List.range b).map fun i => g.decode (natOfBytes ((bs.drop (i * n)).take n))
      let q := qblock f pol xs
      .ok (rawWrs s p ((q.2.mapIdx fun i x => ({ va := blockField v 8 64 + j * b + i, mask := 0xFF, byte := x } : Wr))
        ++ [{ va := blockField v 16 64 + j, mask := 0xFF, byte := q.1 }]))
  | _, _ => .ok []

/-! ## Units of 4 KiB (R253) -/

/-- A command's work: how many items it has, how many make a unit of 4 KiB of destination, and the writes of each. -/
structure Plan where
  total : Nat
  per   : Nat
  item  : Nat → MRes (List Wr)

/-- The work of a copy. -/
def copyPlan (s : State) (p : Path) (k : Cmd) : MRes Plan :=
  match k.op with
  | .copy _ _ _ _ _ => .ok { total := k.hs.size, per := 4096 * 8 / k.h.ebits, item := copyPoint s p k }
  | .copyBlock _ _ =>
    let v := k.blk
    .ok { total := blockField v 16 32 * blockField v 20 32 * blockField v 24 32 / 16, per := 256, item := copyPiece s p v }
  | .qcopy _ _ _ _ _ _ =>
    (qBlockSize s p k).bind fun b => .ok { total := k.hs.size / b, per := 4096 / b, item := qcopyBlockWr s p k b }
  | .qcopyBlock _ _ =>
    let v := k.blk
    .ok { total := blockField v 24 32 / blockField v 30 8, per := 4096 / blockField v 30 8, item := qcopyRawWr s p v }
  | _ => .ok { total := 0, per := 1, item := fun _ => .ok [] }

/-- The command is one of the four copies. -/
def isCopy (k : Cmd) : Bool :=
  match k.op with
  | .copy _ _ _ _ _ => true
  | .copyBlock _ _ => true
  | .qcopy _ _ _ _ _ _ => true
  | .qcopyBlock _ _ => true
  | _ => false

/-- The items of the next unit. -/
def unitItems (k : Cmd) (pl : Plan) : List Nat :=
  (List.range pl.per).filterMap fun j => if k.units * pl.per + j < pl.total then some (k.units * pl.per + j) else none

/-- The next unit is written, and a bound command arrives (R253); a unit that faults writes nothing (log 6). It is read through
the class's view (R271). -/
def copyUnit (s : State) (k : Cmd) : MRes State :=
  (viaView s clsCPY fun r q => (copyPlan r q k).bind fun pl => (gatherWr pl.item (unitItems k pl)).bind fun ws => .ok (pl, ws)).bind fun x =>
    (engineWrite s (s.hart.enginePath s) x.2 (gatherWr x.1.item (List.range x.1.total))).bind fun u =>
      .ok (arriveBound (updCmd u k.id fun x => { x with units := x.units + 1 }) k.sb)

/-- Every unit has been written. -/
def copyFinished (s : State) (k : Cmd) : MRes Bool :=
  (copyPlan s (s.hart.enginePath s) k).bind fun pl => .ok (decide (pl.total ≤ k.units * pl.per))

/-- The remaining units: how far it gets, and whether it ends. -/
def copyRest : Nat → State → Cmd → Out
  | 0, s, _ => .next s
  | n + 1, s, k =>
    match copyFinished s k with
    | .ok true => .next (endCmd s k)
    | .ok false =>
      match copyUnit s k with
      | .ok u => copyRest n u { k with units := k.units + 1 }
      | .trap c a => .next (faultCmd s k c a)
      | .wait _ => .next s
    | .trap c a => .next (faultCmd s k c a)
    | .wait _ => .next s

/-- Items of a command, as a bound on its units. -/
def copyFuel (k : Cmd) : Nat :=
  match k.op with
  | .copyBlock _ _ => blockField k.blk 16 32 * blockField k.blk 20 32 * blockField k.blk 24 32 / 4096 + 2
  | .qcopyBlock _ _ => blockField k.blk 24 32 / 4096 + 2
  | _ => k.hs.size + 2

/-! ## The instructions -/

/-- A target point outside Hd's extents exists (R235). -/
def targetsOut (hd hs : Handle) (c : List Nat) : Bool := [0, 1, 2, 3].any fun d => decide (hd.ext d < c.getD d 0 + hs.ext d)

/-- The handle-pair forms; `esz` says that the widths must agree. -/
def pairCmd (s : State) (i : Instr) (h hs c : BitVec 4) (a b : BitVec 5) (esz : Bool) : Out :=
  let d := rh s h.toNat
  let r := rh s hs.toNat
  let co := coords (rx s a) (rx s b)
  if !d.isA kindTensor || !r.isA kindTensor || (esz && d.esz != r.esz) || targetsOut d r co then trapWord s i causeHandleBad
  else if cmdStalls s c.toNat then .next (waitOn s .stall)
  else .next (advance (issueCmd s i c.toNat clsCPY fun k => { k with h := d, hs := r, c := co }))

/-- COPY between two handles (R235). -/
def execCopy (h c : BitVec 4) (a b : BitVec 5) (hs : BitVec 4) (s : State) : Out := pairCmd s (.copy h c a b hs) h hs c a b true

/-- COPY of a block (R236). -/
def execCopyBlock (c : BitVec 4) (a : BitVec 5) (s : State) : Out := blockCmd s (.copyBlock c a) c a 8 clsCPY copyBlockBad

/-- QCOPY between two handles (R238). -/
def execQcopy (h c : BitVec 4) (a b : BitVec 5) (x : BitVec 1) (hs : BitVec 4) (s : State) : Out :=
  pairCmd s (.qcopy h c a b x hs) h hs c a b false

/-- QCOPY of a block (R238). -/
def execQcopyBlock (c : BitVec 4) (a : BitVec 5) (s : State) : Out := blockCmd s (.qcopyBlock c a) c a 8 clsCPY qcopyBlockBad

/-- COPY_UNIT_ARRIVAL (R253): a copy completes its next unit. -/
def execCopyUnitArrival (hid c : Nat) (s : State) : Out :=
  match focus s hid with
  | none => .next s
  | some t =>
    match cmdAt t c with
    | none => .next s
    | some k =>
      if !isCopy k || !depsDone t k.deps then .next s
      else match copyFinished t k with
        | .ok true => .next s
        | .ok false => engOut s t k (copyUnit t k)
        | r => engOut s t k (r.bind fun _ => .ok t)

/-! ## RELAY (R240 to R243) -/

/-- The dense pitch of a layout. -/
def densePitch (tag e e0 e1 : Nat) : Nat :=
  match tag with
  | 0 => ceilDiv e0 (512 / e) * (512 / e)
  | 1 => ceilDiv e1 (512 / e) * (512 / e)
  | t => e0 / tileSize t

/-- Hh after RELAY. -/
def relayHandle (h : Handle) (t pb sm : Nat) : Handle :=
  let ld := densePitch t h.ebits (h.ext 0) (h.ext 1)
  let h1 := h.put 0 (wSet (BitVec.ofNat 64 (h.word 0)) 56 4 t)
  let h2 := h1.put 3 (wSet (BitVec.ofNat 64 (h.word 3)) 0 32 ld)
  let h3 := h2.put 6 (BitVec.ofNat 64 (2 ^ 60 + h.tag * 2 ^ 56 + sm % 2 ^ 56))
  h3.put 7 (BitVec.ofNat 64 (pb % 2 ^ 56))

/-- HANDLE_BAD of RELAY (R240). -/
def relayBad (h : Handle) (t pb sm : Nat) : Bool :=
  let g := relayHandle h t pb sm
  let ld := densePitch t h.ebits (h.ext 0) (h.ext 1)
  !h.isA kindTensor || h.rlv || decide (4 ≤ t) || pb % 64 != 0 || sm % 64 != 0
  || !(layoutOk t ld h.ebits (h.ext 0) (h.ext 1) && decide (ld < 2 ^ 32))
  || (decide (1 < h.ext 2) && decide (h.str2 < planeBytes g g.newLayout))
  || (decide (1 < h.ext 3) && decide (h.str3 < planeBytes g g.newLayout))

/-- The sheet-map header (R241). -/
def sheetHeader (oldLd n : Nat) : List Byte := bytesOfNat 8 oldLd ++ bytesOfNat 8 n ++ List.replicate 48 0

def updRelay (s : State) (id : Nat) (f : Relay → Relay) : State :=
  { s with relays := s.relays.map fun r => if r.id = id then f r else r }

/-- The byte of the map that holds sheet j. -/
def sheetByte (sheets : List Nat) (j : Nat) : Nat :=
  (List.range 4).foldl (fun v i => v + sheets.getD (j / 4 * 4 + i) 0 * 4 ^ i) 0

/-- The imposition engine writes bytes of the map: engine writes, so a compressed page takes none of them (R331). -/
def writeMap (s : State) (va : Nat) (bs : List Byte) : MRes State :=
  let ws : List Wr := bs.mapIdx fun j b => { va := va + j, mask := 0xFF, byte := b.toNat }
  engineWrite s (s.hart.enginePath s) ws (.ok ws)

/-- The byte of the map that holds sheet j is written. -/
def storeSheet (s : State) (r : Relay) (sheets : List Nat) (j : Nat) : MRes State :=
  writeMap s (r.h.smap + 64 + j / 4) [BitVec.ofNat 8 (sheetByte sheets j)]

/-- A conversion that a fault has stopped ends with it once no sheet is MOVING. -/
def settleRelay (s : State) (id : Nat) : State :=
  match s.relays.find? (·.id == id) with
  | none => s
  | some r =>
    match r.failed with
    | none => s
    | some f =>
      if r.dead || r.sheets.any (· == 1) then s
      else
        let s1 := updRelay s id fun x => { x with dead := true }
        match cmdAt s1 r.cmd with
        | some k => faultCmd s1 k f.1 f.2
        | none => s1

/-- A fault of the engine at sheet j (R243): that sheet and every later one stay OLD, in the map too (R241) where it can still
be written; earlier ones that are MOVING become NEW before the conversion ends. None while a store to the map must wait. -/
def relayFault (s : State) (r : Relay) (j : Nat) (cause : BitVec 8) (addr : Nat) : Option State :=
  let sheets := r.sheets.mapIdx fun i v => if j ≤ i then 0 else v
  let undone := (List.range r.sheets.length).filter fun i => decide (j ≤ i) && r.sheets.getD i 0 == 1
  let put (t : State) (i : Nat) : Option State :=
    match storeSheet t r sheets i with
    | .ok u => some u
    | .trap _ _ => some t
    | .wait _ => none
  (undone.foldl (fun t i => t.bind fun u => put u i) (some s)).map fun t =>
    settleRelay (updRelay t r.id fun x => { x with sheets := sheets, failed := x.failed.or (some (cause, addr)) }) r.id

/-- RELAY (R240): the handle is set, the map's header is written, and the conversion is handed over. -/
def execRelay (h c : BitVec 4) (a b : BitVec 5) (t : BitVec 4) (s : State) : Out :=
  let i := Instr.relay h c a b t
  let g := rh s h.toNat
  let pb := (rx s a).toNat
  let sm := (rx s b).toNat
  if relayBad g t.toNat pb sm then trapWord s i causeHandleBad
  else if cmdStalls s c.toNat then .next (waitOn s .stall)
  else
    let n := relayHandle g t.toNat pb sm
    let cid := s.nextId
    let s1 := issueCmd (wh s h.toNat n) i c.toNat clsCPY fun k => { k with h := n }
    let r : Relay := { id := s1.nextId, asid := (identSpace s s.hart.who).asid, hid := s.hart.who.id, cmd := cid, h := n,
                       oldLd := g.ld, sheets := List.replicate (sheetCount n n.newLayout) 0, failed := none, dead := false }
    let begun (u : State) : State := { u with relays := r :: u.relays, nextId := u.nextId + 1 }
    match writeMap s1 n.smap (sheetHeader g.ld (sheetCount n n.newLayout)) with
    | .ok u => .next (advance (begun u))
    | .trap cause x => .next (advance ((relayFault (begun s1) r 0 cause x).getD (begun s1)))
    | .wait w => .next (waitOn s w)

/-- Sheet j takes a state, in the engine and in the map. -/
def setSheet (s : State) (r : Relay) (j v : Nat) : MRes State :=
  let sheets := r.sheets.set j v
  (storeSheet s r sheets j).bind fun u =>
    .ok (updRelay u r.id fun x => { x with sheets := sheets })

/-- The outcome of the engine's work on sheet j. -/
def relayOut (s t : State) (r : Relay) (j : Nat) (x : MRes State) : Out :=
  match x with
  | .ok u => .next (settleRelay u r.id)
  | .trap c a => .next ((relayFault t r j c a).getD s)
  | .wait _ => .next s

/-- The command of a conversion may work. -/
def relayRuns (s : State) (r : Relay) : Bool :=
  !r.dead && (match cmdAt s r.cmd with
    | some k => depsDone s k.deps
    | none => false)

/-- SHEET_MOVING (R242): the next sheet in ascending order, with at most four MOVING. Stores that were resolved in the sheet before
have performed (R277). -/
def execSheetMoving (r : Nat) (s : State) : Out :=
  match s.relays.find? (·.id == r) with
  | none => .next s
  | some x =>
    match focus s x.hid with
    | none => .next s
    | some t =>
      match x.sheets.findIdx? (· == 0) with
      | none => .next s
      | some j =>
        if !relayRuns t x || x.failed.isSome || decide (4 ≤ x.sheets.countP (· == 1)) then .next s
        else let u := drainHarts t; relayOut s u x j (setSheet u x j 1)

/-- The points of a sheet: those of its plane whose new place lies in it. -/
def sheetPoints (h : Handle) (j : Nat) : List Point :=
  let pl := j / sheetsPerPlane h h.newLayout
  ((List.range (h.ext 0 * h.ext 1)).map fun k =>
      ({ d0 := (k % h.ext 0 : Nat), d1 := (k / h.ext 0 : Nat), d2 := (pl % h.ext 2 : Nat), d3 := (pl / h.ext 2 : Nat) } : Point)).filter
    fun p => sheetOf h p == j

/-- The writes that convert a sheet. -/
def sheetWr (s : State) (p : Path) (r : Relay) (j : Nat) : MRes (List Wr) :=
  let pts := sheetPoints r.h j
  gatherWr (fun k => moveWr s p r.h { tag := r.h.otag, base := r.h.base, ld := r.oldLd } (pts.getD k { d0 := 0, d1 := 0, d2 := 0, d3 := 0 })
      r.h r.h.newLayout (pts.getD k { d0 := 0, d1 := 0, d2 := 0, d3 := 0 }) fun _ => true) (List.range pts.length)

/-- SHEET_NEW (R242): the new bytes of the lowest MOVING sheet are written, and it becomes NEW. -/
def execSheetNew (r : Nat) (s : State) : Out :=
  match s.relays.find? (·.id == r) with
  | none => .next s
  | some x =>
    match focus s x.hid with
    | none => .next s
    | some t =>
      match x.sheets.findIdx? (· == 1) with
      | none => .next s
      | some j =>
        if !relayRuns t x then .next s
        else
          let p := t.hart.enginePath t
          relayOut s t x j ((sheetWr t p x j).bind fun ws => (engineWrite t p ws (.ok ws)).bind fun u => setSheet u x j 2)

/-- Every sheet of the command's conversion is NEW (R243). -/
def relayDone (s : State) (k : Cmd) : Bool :=
  match s.relays.find? (·.cmd == k.id) with
  | some r => r.sheets.all (· == 2)
  | none => false

end Sys2Proof.Machine
end

