-- ==== Sys2Proof/Machine/Grid.lean ====
section
/-!
DEFINITION. Hashed grids (R258 to R262): the corners of a point, GLD and GSCAT.
-/
namespace Sys2Proof.Machine

open Sys2Proof

def numZero : Num := .fin false 0 0
def numOne : Num := .fin false 1 0

/-- round_f32 of an exact value, as a number. -/
def r32 (x : Num) : Num := fmtF32.decode (roundF32 x).1

/-- The constants K_d of R259. -/
def gridK : List Nat := [0x00000001, 0x9E3779B1, 0x85EBCA77, 0xC2B2AE3D, 0x27D4EB2F, 0x165667B1, 0xFD7046C5, 0xB55A4F09]

/-- A coordinate clamped to 0 to 1 (R259): a NaN counts as 0 and raises NV. -/
def gridClamp (x : Num) : Num × Flags :=
  if x.isNaN then (numZero, flagNV)
  else if x.cmp numZero ≤ 0 then (numZero, 0)
  else if numOne.cmp x < 0 then (numOne, 0)
  else (x, 0)

/-- i_d and t_d of a clamped coordinate at a level of resolution n. -/
def gridSplit (n : Nat) (x : Num) : Nat × Num :=
  let s := r32 (x.mul (numOfInt n)).1
  match s with
  | .fin _ m e =>
    let i := min (roundTo 1 false m e 0).1 (n - 1)
    (i, (s.add 0 (numOfInt (-(i : Int)))).1)
  | _ => (0, numZero)

/-- The weight of corner c. -/
def cornerWeight (ts : List Num) (c : Nat) : Num :=
  let gs := ts.mapIdx fun d t => if natBit c d then t else r32 (numOne.add 0 t.neg).1
  match gs with
  | [] => numOne
  | g :: rest => rest.foldl (fun w g => r32 (w.mul g).1) g

/-- The entry of corner c at a level of resolution n with 2^lt entries. -/
def cornerIndex (n lt : Nat) (is : List Nat) (c : Nat) : Nat :=
  let at_ (d i : Nat) : Nat := i + (if natBit c d then 1 else 0)
  if (n + 1) ^ is.length ≤ 2 ^ lt then (is.mapIdx fun d i => at_ d i * (n + 1) ^ d).sum
  else (is.mapIdx fun d i => at_ d i * gridK.getD d 0 % 2 ^ 32).foldl (· ^^^ ·) 0 % 2 ^ lt

/-- N_l and log2 T_l of a level entry (R258). -/
def levelN (e : Word) : Nat := wBits e 0 32
def levelT (e : Word) : Nat := wBits e 32 5

/-- off_l of R258. -/
def levelOff (f : Nat) (ls : List Word) (l : Nat) : Nat := ((ls.take l).map fun e => 2 ^ levelT e * f).sum

/-- A corner: the index of feature 0 in the table, and its weight. -/
structure Corner where
  entry : Nat
  w     : Num
deriving DecidableEq, Repr

/-- The corners of a point at level l, ascending. -/
def gridCorners (h : Handle) (xs : List Num) (l : Nat) : List Corner :=
  let e := h.levels.getD l 0
  let sp := xs.map fun x => gridSplit (levelN e) x
  (List.range (2 ^ h.gridD)).map fun c =>
    { entry := levelOff h.gridF h.levels l + cornerIndex (levelN e) (levelT e) (sp.map (·.1)) c * h.gridF
      w := cornerWeight (sp.map (·.2)) c }

/-- The parameter type (R258). -/
def gridFmt (h : Handle) : Fmt := match h.gridPt with | 0 => fmtF32 | 1 => fmtBF16 | _ => fmtF16

/-! ## Operands (R260) -/

/-- Points of a grid instruction. -/
def gridPoints (s : State) (wa : WinOp) : Nat := min (wRm1 wa.desc + 1) s.hart.vec.vl

/-- A RECT of at least P rows and n columns. -/
def gridShape (w : WinOp) (p n : Nat) : Bool := isRect' w.desc && decide (p ≤ wRm1 w.desc + 1) && decide (n ≤ wNm1 w.desc + 1)
where
  isRect' (d : Word) : Bool := wKind d == kindRect

/-- The checks of R260: the mode and type, and steps 1 to 5; `gld` for a destination. -/
def gridChecks (s : State) (i : Instr) (h : Handle) (wa wc : WinOp) (gld : Bool) : Except Trap Ty :=
  match modeIll s.hart.vec.vmode, modeTy s.hart.vec.vmode with
  | false, some ty =>
    if !(ty == .flt fmtF32 || ty == .flt fmtBF16 || ty == .flt fmtF16) then .error (modeTrap i)
    else
      let p := gridPoints s wa
      let cols := h.gridL * h.gridF
      let a : Opd := { win := wa, width := some ty.width
                       shape := gridShape wa p cols && !(gld && (boundTo s wa.num).isSome), reads := 0, writes := 0 }
      let c : Opd := { win := wc, width := some 32, shape := gridShape wc p h.gridD, reads := 0, writes := 0 }
      let spans := (List.range p).flatMap fun o => (List.range cols).map fun j => cellSpan wa.desc (cell wa o j)
      match (firstBad i causeWindowRange (fun o => !winFits s o.win) [a, c]).or <|
          (firstBad i causeWidth badWidth [a, c]).or <|
          (if h.isA kindGrid then none else some (plainTrap causeHandleBad ((wordOf i).setWidth 64))).or <|
          (firstBad i causeShape (fun o => !o.shape) [a, c]).or <|
          (if gld && spans.any (inClaimed s) then some (winTrap i causeSlotOwned wa) else none) with
      | some t => .error t
      | none => .ok ty
  | _, _ => .error (modeTrap i)

/-- The element of row p and column j of a window: a popped point where it is bound (R222), else the cell. -/
def gridElem (s : State) (w : WinOp) (p j : Nat) : Nat :=
  match boundTo s w.num with
  | some t => if j < neff w then popValue t (p * neff w + j) else readCell s w.desc (cell w p j)
  | none => readCell s w.desc (cell w p j)

/-- The clamped coordinates of point p, and NV of a NaN among them. -/
def gridCoords (s : State) (h : Handle) (wc : WinOp) (p : Nat) : List Num × Flags :=
  let xs := (List.range h.gridD).map fun d => gridClamp (fmtF32.decodeIn (policyOf s.hart.vec.vmode) (gridElem s wc p d))
  (xs.map (·.1), xs.foldl (fun f x => f ||| x.2) (0 : Flags))

/-- The wait of a grid instruction: cells the matrix path holds, or a stream without points. -/
def gridHeld (s : State) (reads writes : List WinOp) : Bool :=
  (reads.map fun w => ({ win := w, width := none, shape := true, reads := count w.whole, writes := 0 } : Opd)).any (fun o =>
      heldBack s { o with win := o.win.whole } || streamWaits s { o with reads := 1 })
  || (writes.map fun w => ({ win := w.whole, width := none, shape := true, reads := 0, writes := count w.whole } : Opd)).any (heldBack s)

/-- Bound windows among the sources are popped. -/
def gridPop (s : State) (ws : List WinOp) : State :=
  popAll s (ws.map fun w => { win := w, width := none, shape := true, reads := 1, writes := 0 })

/-! ## GLD (R261) -/

/-- A parameter's exact value. -/
def gridParam (s : State) (p : Path) (h : Handle) (entry : Nat) : MRes Num :=
  let f := gridFmt h
  let n := f.width / 8
  (imageList s p (h.base + entry * n) n).bind fun bs => .ok (f.decodeIn (policyOf s.hart.vec.vmode) (natOfBytes bs))

/-- The sum over the corners of one feature; a NaN at any corner raises NV, whatever made it (log 144). -/
def gridSum (s : State) (p : Path) (h : Handle) (feat : Nat) : List Corner → Num × Flags → MRes (Num × Flags)
  | [], acc => .ok acc
  | c :: t, acc =>
    (gridParam s p h (c.entry + feat)).bind fun v =>
      let x := (acc.1.add 0 (c.w.mul v).1).1
      gridSum s p h feat t (r32 x, acc.2 ||| flagIf x.isNaN flagNV)

/-- The level and feature of column j. -/
def gridCol (s0 : State) (p : Path) (h : Handle) (xs : List Num) (f : Fmt) (j : Nat) : MRes (Nat × Flags) :=
  (gridSum s0 p h (j % h.gridF) (gridCorners h xs (j / h.gridF)) (numZero, 0)).bind fun r =>
    let v := rnd f (policyOf s0.hart.vec.vmode) r.1
    .ok (v.1, v.2 ||| r.2)

/-- Point p of GLD: its row, written in ascending columns. -/
def gldPoint (s0 : State) (path : Path) (h : Handle) (f : Fmt) (wd wc : WinOp) (t : State) (p : Nat) : MRes State :=
  let xs := gridCoords s0 h wc p
  (seqRes (gridCol s0 path h xs.1 f) (List.range (h.gridL * h.gridF))).bind fun vs =>
    .ok ((vs.mapIdx fun j v => (j, v)).foldl (fun u (x : Nat × Nat × Flags) =>
      orVflags (writeCell u wd.desc (cell wd p x.1) x.2.1) x.2.2) (orVflags t xs.2))

/-- The spans of the first `m` columns of the rows `ps` of a window. -/
def rowSpans (w : WinOp) (ps : List Nat) (m : Nat) : List Span :=
  ps.flatMap fun o => (List.range m).map fun j => cellSpan w.desc (cell w o j)

/-- The features that GLD writes for `n` points cover a cell of the coordinates it reads (R52). -/
def gldOverlaps (h : Handle) (wd wc : WinOp) (n : Nat) : Bool :=
  spansMeet (rowSpans wd (List.range n) (h.gridL * h.gridF)) (rowSpans wc (List.range n) h.gridD)

/-- GLD stops with points done whose features cover no coordinate of one that is left (R21, R52). -/
def gldKeeps (s : State) (h : Handle) (wd wc : WinOp) (done left : List Nat) : Bool :=
  (boundTo s wc.num).isSome || !spansMeet (rowSpans wd done (h.gridL * h.gridF)) (rowSpans wc left h.gridD)

/-- The trap of a memory fault at point p (R261). -/
def gldTrap (wd : WinOp) (ovl : Bool) (cause : BitVec 8) (addr p vstart : Nat) : Trap :=
  { cause := cause, tval := BitVec.ofNat 64 addr, pos := .element wd.num wd.role ovl (cell wd p 0).1 p 0 wd.desc vstart }

/-- Element groups of a grid instruction: its elements are the points, so rows from P on hold none (R366). -/
def gridGroups (s : State) (w : WinOp) : Nat := (gridPoints s w - s.hart.vec.vstart) * rowGroups s w

/-- GLD (R261): an unordered instruction whose elements are points. -/
def execGld (g : BitVec 4) (d w : BitVec 6) (s : State) : Out :=
  let i := Instr.gld g d w
  let h := rh s g.toNat
  let wd := winOp s d 1
  let wc := winOp s w 2
  match gridChecks s i h wd wc true with
  | .error t => .next (takeTrap s t)
  | .ok ty =>
    if fenced s clsGRD || gridHeld s [wc] [wd] then .next (waitOn s .stall)
    else
      let f := match ty with | .flt f => f | .int _ _ => fmtF32
      let n := gridPoints s wd
      let p : Path := { s.hart.path s with quadOf := none, post := none }
      let run (r : State) (q : Path) : VRes := unorderedRun s (fun _ => true) n (gldPoint r q h f wd wc)
        (fun c a k b => gldTrap wd (gldOverlaps h wd wc n) c a k b) (gldKeeps s h wd wc)
      let v := classView s p clsGRD
      vecOut s (gridGroups s wd) ((match run v.1 v.2 with
        | .wait .stall => run s p
        | r => r).map fun t => gridPop t [wc])

/-! ## GSCAT (R262) -/

/-- The contributions of a point, in the order of level, corner and feature: gradient entry and value. -/
def gscatPoint (s : State) (h : Handle) (f : Fmt) (wg wc : WinOp) (p : Nat) : List (Nat × Nat) :=
  let xs := (gridCoords s h wc p).1
  (List.range h.gridL).flatMap fun l => (gridCorners h xs l).flatMap fun c =>
    (List.range h.gridF).map fun j =>
      let v := f.decodeIn (policyOf s.hart.vec.vmode) (gridElem s wg p (l * h.gridF + j))
      (h.gbase + (c.entry + j) * 4, (roundF32 (c.w.mul v).1).1)

/-- The points that a starting VSTART and CMASK leave. -/
def gscatPending (s : State) (n : Nat) : List Nat := pendingElems s n fun _ => true

/-- GSCAT (R262). From a VSTART at or above its points it is a command without contributions (log 132). -/
def execGscat (g : BitVec 4) (d w : BitVec 6) (c : BitVec 4) (s : State) : Out :=
  let i := Instr.gscat g d w c
  let h := rh s g.toNat
  let wg := winOp s d 1
  let wc := winOp s w 2
  match gridChecks s i h wg wc false with
  | .error t => .next (takeTrap s t)
  | .ok ty =>
    if cmdStalls s c.toNat || gridHeld s [wg, wc] [] then .next (waitOn s .stall)
    else
      let f := match ty with | .flt f => f | .int _ _ => fmtF32
      let ps := gscatPending s (gridPoints s wg)
      let adds := ps.flatMap (gscatPoint s h f wg wc)
      let nv := ps.foldl (fun fl p => fl ||| (gridCoords s h wc p).2) (0 : Flags)
      match scatContribs (fun k => placeOf s { s.hart.enginePath s with port := false } (adds.getD k (0, 0)).1 4 .store .fifoOnly)
          (fun k => (adds.getD k (0, 0)).1) (bankSum (.flt fmtF32)) (fun k => (adds.getD k (0, 0)).2) (List.range adds.length) with
      | .ok (parts, faults) =>
        let id := s.nextId
        let s1 := issueCmd s i c.toNat clsRED fun k => { k with units := faults.length }
        let s2 := faults.foldl (fun u x => poisonCounterOp u c.toNat x.2.1 x.2.2 (wordOf i) x.1 clsRED) s1
        let s3 := issueAdds s2 i 0x13#8 (some id) parts
        let s4 := orVflags (withVec s3 fun v => { v with cmask := 0 }) nv
        .next (vecEnd (gridPop s4 [wg, wc]) (gridGroups s wg))
      | .trap cause x => .next (takeTrap s (plainTrap cause (BitVec.ofNat 64 x)))
      | .wait x => .next (waitOn s x)

end Sys2Proof.Machine
end

