-- ==== Sys2Proof/Machine/Frames.lean ====
section
/-!
DEFINITION. The streams of the frame engines (R249): AV1 Main and HEVC Main and Main 10, with the profile, the level, the tools and
the quantiser that the rule imposes written into their headers. The syntax of the headers is that of the two standards (log 108);
what the rule leaves to the coder is open (log 14).
-/
namespace Sys2Proof.Machine

open Sys2Proof

/-! ## Fields of ENCF's block (R248) -/

def encfWidth (v : Nat) : Nat := blockField v 8 16
def encfHeight (v : Nat) : Nat := blockField v 10 16
def encfQp (v : Nat) : Nat := natBits v 8 8
def encfTen (v : Nat) : Bool := natBits v 0 2 == 2 || natBit v 2
def encfInter (v : Nat) : Bool := natBit v 3

/-! ## Bit strings -/

/-- An unsigned number in `n` bits, the highest first. -/
def bitsU (n v : Nat) : List Bool := (List.range n).map fun i => natBit v (n - 1 - i)

/-- A flag. -/
def bitF (b : Bool) : List Bool := [b]

/-- An unsigned Exp-Golomb number. -/
def bitsUe (v : Nat) : List Bool := let n := (v + 1).log2; bitsU n 0 ++ bitsU (n + 1) (v + 1)

/-- A signed one. -/
def bitsSe (v : Int) : List Bool := bitsUe (if 0 < v then 2 * v.toNat - 1 else 2 * (-v).toNat)

/-- Bits as bytes, the first the highest of its byte; the last byte is filled with zeros. -/
def bytesOfBits (bs : List Bool) : List Byte :=
  (List.range (ceilDiv bs.length 8)).map fun j =>
    BitVec.ofNat 8 ((List.range 8).foldl (fun v i => 2 * v + (if bs.getD (8 * j + i) false then 1 else 0)) 0)

/-- Bytes as bits. -/
def bitsOfBytes (xs : List Byte) : List Bool := xs.flatMap fun b => bitsU 8 b.toNat

/-- A header that ends with the stop bit. -/
def stopped (bs : List Bool) : List Byte := bytesOfBits (bs ++ [true])

/-- An unsigned number as leb128. -/
def leb128 : Nat → Nat → List Byte
  | 0, _ => []
  | n + 1, v => if v < 128 then [BitVec.ofNat 8 v] else BitVec.ofNat 8 (v % 128 + 128) :: leb128 n (v / 128)

/-- What the coder of a frame chooses: the engine, the block and the frame read (log 14). -/
structure FrameIn where
  e     : Nat
  block : List Byte
  input : List Byte

/-- A bit that the coder of the frame chooses. -/
def FrameIn.bit (f : FrameIn) (j : Nat) : Bool := Config.encfBit j f.e f.block f.input

/-- `n` such bits from number j on. -/
def FrameIn.bits (f : FrameIn) (j n : Nat) : List Bool := (List.range n).map fun i => f.bit (j + i)

/-- What follows the header of a unit. -/
def FrameIn.rest (f : FrameIn) (unit : Nat) : List Byte := Config.encfPayload unit f.e f.block f.input

/-! ## AV1 -/

/-- An OBU of type `t` in the low-overhead format: a header with a size field, the size, the payload. -/
def obu (t : Nat) (p : List Byte) : List Byte := BitVec.ofNat 8 (t * 8 + 2) :: leb128 10 p.length ++ p

/-- The first level that admits a picture: its number, with the samples, the width and the height that the level admits; else `top`. -/
def levelFor (top w h : Nat) : List (Nat × Nat × Nat × Nat) → Nat
  | [] => top
  | (n, s, mw, mh) :: t => if w * h ≤ s && w ≤ mw && h ≤ mh then n else levelFor top w h t

/-- seq_level_idx: the lowest that admits the picture size. -/
def av1Level (w h : Nat) : Nat :=
  levelFor 31 w h [(0, 147456, 2048, 1152), (1, 278784, 2816, 1584), (4, 665856, 4352, 2448), (5, 1065024, 5504, 3096),
    (8, 2359296, 6144, 3456), (12, 8912896, 8192, 4352), (16, 35651584, 16384, 8704)]

/-- The sequence header: seq_profile 0, the level, 64×64 superblocks, CDEF, and none of the tools that R249 leaves out: filter intra,
inter-intra and masked compound, warped motion, superres, loop restoration, film grain. 4:2:0. -/
def av1Sequence (v : Nat) : List Byte :=
  let w := encfWidth v
  let h := encfHeight v
  let lv := av1Level w h
  stopped (bitsU 3 0 ++ bitF false ++ bitF false ++ bitF false ++ bitF false ++ bitsU 5 0 ++ bitsU 12 0
    ++ bitsU 5 lv ++ (if 7 < lv then bitF false else [])
    ++ bitsU 4 12 ++ bitsU 4 12 ++ bitsU 13 (w - 1) ++ bitsU 13 (h - 1) ++ bitF false
    ++ bitF false ++ bitF false ++ bitF (Config.encfTool 0)
    ++ bitF false ++ bitF false ++ bitF false ++ bitF (Config.encfTool 1) ++ bitF false
    ++ bitF false ++ bitF false
    ++ bitF false ++ bitF true ++ bitF false
    ++ bitF (encfTen v) ++ bitF false ++ bitF false ++ bitF (Config.encfTool 2) ++ bitsU 2 0 ++ bitF false
    ++ bitF false)

/-- The logarithms of the numbers of tile columns, one for each run of 64 superblocks, and of tile rows, as few as the standard's
largest tile of 2,304 superblocks admits. -/
def av1TileLogs (v : Nat) : Nat × Nat :=
  let cols := ceilDiv (encfWidth v) 64
  let area := ceilDiv (cols * ceilDiv (encfHeight v) 64) 2304
  let c := if 64 < cols then 1 else 0
  (c, ((List.range 4).find? fun k => area ≤ 2 ^ (k + c)).getD 0)

/-- tile_info: uniform, and no more tiles than those. -/
def av1Tiles (v : Nat) : List Bool :=
  let (c, r) := av1TileLogs v
  let more (n k : Nat) : List Bool := if 2 ^ k < min (ceilDiv n 64) 64 then bitF false else []
  bitF true ++ more (encfWidth v) c ++ more (encfHeight v) r ++ (if 0 < c + r then bitsU (c + r) 0 ++ bitsU 2 3 else [])

/-- loop_filter_params: the levels and the sharpness are the coder's, and so are the deltas, one for each of the eight reference
frames and the two modes. -/
def av1Deblock (f : FrameIn) : List Bool :=
  let on := (f.bits 20 12).any id
  let delta (j : Nat) : List Bool := bitF (f.bit j) ++ if f.bit j then f.bits (j + 1) 7 else []
  f.bits 20 12 ++ (if on then f.bits 32 12 else []) ++ f.bits 44 3 ++ bitF (f.bit 47)
  ++ if f.bit 47 then bitF (f.bit 48) ++ (if f.bit 48 then (List.range 10).flatMap fun i => delta (50 + 8 * i) else []) else []

/-- cdef_params: the damping, and the strengths of one, two, four or eight sets. -/
def av1Cdef (f : FrameIn) : List Bool :=
  f.bits 140 4 ++ f.bits 144 (12 * 2 ^ ((if f.bit 142 then 2 else 0) + (if f.bit 143 then 1 else 0)))

/-- The rest of the frame header: deblocking and CDEF of a frame that is not lossless, and no loop restoration; transform sizes chosen by
block, since the largest, 64 by 64, is none of R249's; a single reference, no compound; no warped and no global motion. -/
def av1Tail (v : Nat) (f : FrameIn) : List Bool :=
  (if 0 < encfQp v then av1Deblock f ++ av1Cdef f ++ bitF true else [])
  ++ (if encfInter v then bitF false else []) ++ bitF (f.bit 6) ++ (if encfInter v then List.replicate 7 false else [])

/-- The frame header: a shown key frame, or an inter frame whose references are all one frame, without switchable motion modes;
base_q_idx = QP, no deltas, no quantiser matrices, no segmentation. -/
def av1Frame (v : Nat) (f : FrameIn) : List Bool :=
  let q := encfQp v
  let slot := (if f.bit 0 then 4 else 0) + (if f.bit 1 then 2 else 0) + (if f.bit 2 then 1 else 0)
  (if encfInter v then
    bitF false ++ bitsU 2 1 ++ bitF true ++ bitF true ++ bitF (f.bit 3) ++ bitF false
    ++ ((List.range 8).map fun j => f.bit (8 + j))
    ++ ((List.range 7).flatMap fun _ => bitsU 3 slot) ++ bitF false
    ++ bitF (f.bit 4) ++ bitF true ++ bitF false
  else bitF false ++ bitsU 2 0 ++ bitF true ++ bitF (f.bit 3) ++ bitF false ++ bitF false)
  ++ (if f.bit 3 then [] else bitF (f.bit 5)) ++ av1Tiles v
  ++ bitsU 8 q ++ bitF false ++ bitF false ++ bitF false ++ bitF false ++ bitF false
  ++ (if 0 < q then bitF false else []) ++ av1Tail v f

/-- One temporal unit of OBUs, with a sequence header on a key frame. The frame's header is byte aligned; the tile group of more than one
tile begins with a flag for all of them, and the tiles follow. -/
def av1Stream (v : Nat) (f : FrameIn) : List Byte :=
  obu 2 [] ++ (if encfInter v then [] else obu 1 (av1Sequence v))
  ++ obu 6 (bytesOfBits (av1Frame v f) ++ (if av1TileLogs v = (0, 0) then [] else [0]) ++ f.rest 6)

/-! ## HEVC -/

/-- The bytes of a NAL unit's payload, with emulation prevention; `z` zeros stand before. -/
def escaped : Nat → List Byte → List Byte
  | _, [] => []
  | z, b :: t =>
    if 2 ≤ z && b ≤ 3#8 then 3 :: b :: escaped (if b = 0#8 then 1 else 0) t
    else b :: escaped (if b = 0#8 then z + 1 else 0) t

/-- A NAL unit of type `t` in the byte stream format of Annex B. -/
def nalUnit (t : Nat) (p : List Byte) : List Byte := [0, 0, 0, 1, BitVec.ofNat 8 (t * 2), 1] ++ escaped 0 p

/-- The square root rounded down, of a number below 2^32. -/
def isqrt (n : Nat) : Nat := (List.range 16).foldl (fun r j => let t := r + 2 ^ (15 - j); if t * t ≤ n then t else r) 0

/-- general_level_idc: the lowest level that admits the picture size; 8.5 where none does. -/
def hevcLevel (w h : Nat) : Nat :=
  levelFor 255 w h ([(30, 36864), (60, 122880), (63, 245760), (90, 552960), (93, 983040), (120, 2228224), (150, 8912896),
    (180, 35651584)].map fun x => (x.1, x.2, isqrt (8 * x.2), isqrt (8 * x.2)))

/-- profile_tier_level: Main or Main 10, main tier, progressive frames. -/
def hevcProfile (v : Nat) : List Bool :=
  let ten := natBits v 0 2 == 2
  bitsU 2 0 ++ bitF false ++ bitsU 5 (if ten then 2 else 1)
  ++ ((List.range 32).map fun j => j == 2 || (j == 1 && !ten))
  ++ bitF true ++ bitF false ++ bitF false ++ bitF true ++ bitsU 44 0 ++ bitsU 8 (hevcLevel (encfWidth v) (encfHeight v))

/-- The VPS. -/
def hevcVps (v : Nat) : List Byte :=
  stopped (bitsU 4 0 ++ bitF true ++ bitF true ++ bitsU 6 0 ++ bitsU 3 0 ++ bitF true ++ bitsU 16 0xFFFF ++ hevcProfile v
    ++ bitF true ++ bitsUe 1 ++ bitsUe 0 ++ bitsUe 0 ++ bitsU 6 0 ++ bitsUe 0 ++ bitF false ++ bitF false)

/-- The SPS: 4:2:0, CU 8 to 64, TU 4 to 32, no scaling lists, no asymmetric partitions, SAO, no PCM. -/
def hevcSps (v : Nat) : List Byte :=
  let d := if natBits v 0 2 = 2 then 2 else 0
  stopped (bitsU 4 0 ++ bitsU 3 0 ++ bitF true ++ hevcProfile v ++ bitsUe 0 ++ bitsUe 1 ++ bitsUe (encfWidth v) ++ bitsUe (encfHeight v)
    ++ bitF false ++ bitsUe d ++ bitsUe d ++ bitsUe 4 ++ bitF true ++ bitsUe 1 ++ bitsUe 0 ++ bitsUe 0
    ++ bitsUe 0 ++ bitsUe 3 ++ bitsUe 0 ++ bitsUe 3 ++ bitsUe (if Config.encfTool 3 then 1 else 0) ++ bitsUe (if Config.encfTool 4 then 1 else 0)
    ++ bitF false ++ bitF false ++ bitF true ++ bitF false ++ bitsUe 0 ++ bitF false
    ++ bitF (Config.encfTool 5) ++ bitF (Config.encfTool 6) ++ bitF false ++ bitF false)

/-- The PPS: no transform skip, no QP deltas inside a picture, no tiles, no WPP, deblocking. -/
def hevcPps : List Byte :=
  stopped (bitsUe 0 ++ bitsUe 0 ++ bitF false ++ bitF false ++ bitsU 3 0 ++ bitF (Config.encfTool 7) ++ bitF false ++ bitsUe 0 ++ bitsUe 0
    ++ bitsSe 0 ++ bitF false ++ bitF false ++ bitF false ++ bitsSe 0 ++ bitsSe 0 ++ bitF false ++ bitF false ++ bitF false ++ bitF false
    ++ bitF false ++ bitF false ++ bitF true ++ bitF false ++ bitF false ++ bitF false ++ bitsUe 0 ++ bitF false ++ bitF false)

/-- The header of the one slice: I of an IDR, or P with one reference; slice QP = QP. -/
def hevcSlice (v : Nat) (f : FrameIn) : List Byte :=
  let inter := encfInter v
  let sao := [f.bit 0, f.bit 1]
  let mvp := Config.encfTool 5 && f.bit 2
  stopped (bitF true ++ (if inter then [] else bitF false) ++ bitsUe 0 ++ bitsUe (if inter then 1 else 2)
    ++ (if inter then
          ((List.range 8).map fun j => f.bit (8 + j)) ++ bitF false ++ bitsUe 1 ++ bitsUe 0 ++ bitsUe 0 ++ bitF true
          ++ (if Config.encfTool 5 then bitF mvp else [])
        else [])
    ++ sao ++ (if inter then bitF false ++ bitsUe 0 else [])
    ++ bitsSe ((encfQp v : Nat) - 26) ++ bitF (f.bit 3))

/-- One access unit: VPS, SPS and PPS on an IDR, then one slice. -/
def hevcStream (v : Nat) (f : FrameIn) : List Byte :=
  (if encfInter v then [] else nalUnit 32 (hevcVps v) ++ nalUnit 33 (hevcSps v) ++ nalUnit 34 hevcPps)
  ++ nalUnit (if encfInter v then 1 else 19) (hevcSlice v f ++ f.rest 19)

/-- The stream of a frame (R249). -/
def encfStream (e v : Nat) (block input : List Byte) : List Byte :=
  let f : FrameIn := { e := e, block := block, input := input }
  if natBits v 0 2 = 0 then av1Stream v f else hevcStream v f

end Sys2Proof.Machine
end

