-- ==== Sys2Proof/Machine/Engines.lean ====
section
/-!
DEFINITION. Collectives (R244 to R247), the frame engines (R248 to R250), the end of every engine command (R228 to R230,
R253, R254), bank adds (R216, R262) and stream refills (R222).
-/
namespace Sys2Proof.Machine

open Sys2Proof

/-! ## COLL -/

/-- Fields of COLL's block (R245). -/
def collSrc (v : Nat) : Nat := blockField v 0 64
def collDst (v : Nat) : Nat := blockField v 8 64
def collCount (v : Nat) : Nat := blockField v 16 32
def collNmod (v : Nat) : Nat := blockField v 20 16
def collRank (v : Nat) : Nat := blockField v 22 16
def collRoot (v : Nat) : Nat := blockField v 32 16

/-- PARAM_BAD of COLL (R245); `k` is the kind. -/
def collBad (k : BitVec 2) (v : Nat) : Bool :=
  collSrc v % 64 != 0 || collDst v % 64 != 0 || collCount v == 0 || decide (collNmod v < 2) || decide (256 < collNmod v)
  || decide (collNmod v ≤ collRank v) || decide (collNmod v ≤ collRoot v) || blockField v 34 48 != 0 || blockField v 44 160 != 0
  || (k == 1#2 && collCount v % collNmod v != 0)

/-- COLL (R244 to R246): a second command of its GROUP and SEQ on the module faults after issue; one issued while the module
freezes has timed out at once (R377). -/
def execColl (c : BitVec 4) (a : BitVec 5) (sw : BitVec 1) (t : BitVec 2) (o : BitVec 1) (k : BitVec 2) (s : State) : Out :=
  withBlock s a 8 fun s ws =>
    let v := natOfWords ws
    if collBad k v then .next (takeTrap s (plainTrap causeParamBad (rx s a)))
    else if cmdStalls s c.toNat then .next (waitOn s .stall)
    else
      let key := (blockField v 24 32, blockField v 28 32)
      let s1 := issueCmd s (.coll c a sw t o k) c.toNat clsCOL fun x => { x with block := bytesOfNat 64 v, addr := rx s a }
      let s2 := if s.colls.contains key then s1 else { s1 with colls := s1.colls ++ [key] }
      if s.colls.contains key || s.hub.snap != 0 then
        match cmdAt s2 s.nextId with
        | some x =>
          .next (advance (faultCmd s2 x (if s.colls.contains key then causeEngineFault else causeCollTimeout) (rx s a).toNat))
        | none => .next (advance s2)
      else .next (advance s2)

/-- TIMEOUT of COLL's block in ns: 0 means 10,000 us (R245). -/
def collLimit (v : Nat) : Nat := (if blockField v 40 32 = 0 then 10000 else blockField v 40 32) * 1000

/-- TIMEOUT has passed since the command's issue (R247). -/
def collLate (s : State) (k : Cmd) : Bool := decide (collLimit k.blk ≤ s.time - k.issued)

/-- The kind, operation and element type of a COLL command. -/
def collForm (i : Instr) : Option (Nat × Bool × Ty) :=
  match i with
  | .coll _ _ _ t o k =>
    some (k.toNat, o == 1#1, match t.toNat with | 0 => .flt fmtF32 | 1 => .flt fmtBF16 | _ => .int true 32)
  | _ => none

/-- The reduction of one element's contributions, in the order in which they are added (R246). -/
def collReduce (ty : Ty) (max : Bool) (xs : List Nat) : Nat :=
  match ty with
  | .int sg w =>
    match xs with
    | [] => 0
    | x :: t => t.foldl (fun a b => if max then (if intOf sg w a < intOf sg w b then b else a) else (a + b) % 2 ^ w) x
  | .flt f =>
    match xs.map f.decode with
    | [] => 0
    | x :: t => (rnd f .plain (t.foldl (fun a b => if max then (a.minmax true b).1 else r32 (a.add 0 b).1) x)).1

/-- The numbers 0 to n - 1, each once, in some order. -/
def isOrder (n : Nat) (xs : List Nat) : Bool := xs.length == n && (List.range n).all xs.contains

/-- The elements DST receives (R245). -/
def collResult (v k : Nat) (ty : Ty) (max : Bool) (parts : List (Nat × List Nat)) : List Nat :=
  let n := collCount v
  let of (r : Nat) : List Nat := match parts.find? (·.1 == r) with | some p => p.2 | none => []
  let reduced (i : Nat) : Nat := collReduce ty max (parts.map fun p => p.2.getD i 0)
  match k with
  | 0 => (List.range n).map reduced
  | 1 => (List.range (n / collNmod v)).map fun j => reduced (collRank v * (n / collNmod v) + j)
  | 2 => (List.range (collNmod v)).flatMap of
  | _ => of (collRoot v)

/-- The contributions with the module's own read from SRC; an engine's raw reads. -/
def collParts (s : State) (p : Path) (v k nb : Nat) (parts : List CollPart) : MRes (List (Nat × List Nat)) :=
  let given := parts.map fun x => (x.rank, x.elems.map fun e => e.toNat % 2 ^ (8 * nb))
  if k = 3 && collRank v ≠ collRoot v then .ok given
  else (seqRes (fun j => rawNat s p (collSrc v + j * nb) nb) (List.range (collCount v))).bind fun own =>
    .ok (given.map fun x => if x.1 = collRank v then (x.1, own) else x)

/-- Every contribution that counts has COUNT elements. -/
def collComplete (v k : Nat) (parts : List CollPart) : Bool :=
  isOrder (collNmod v) (parts.map (·.rank))
  && parts.all fun x => x.rank == collRank v || (k == 3 && x.rank != collRoot v) || x.elems.length == collCount v

/-- COLL_DELIVERY (R246, R247): the complete result is at the module. `parts` are the contributions in the order in which
they are added; those of the other modules come over a port that is up (R376). -/
def execCollDelivery (hid c : Nat) (parts : List CollPart) (s : State) : Out :=
  match focus s hid with
  | none => .next s
  | some t =>
    match cmdAt t c with
    | none => .next s
    | some k =>
      match collForm k.op with
      | none => .next s
      | some (kind, max, ty) =>
        if !depsDone t k.deps || !collComplete k.blk kind parts || collLate t k || !linkUp t then .next s
        else
          let p := t.hart.enginePath t
          let nb := ty.width / 8
          engOut s t k ((viaView t clsCOL fun r q => collParts r q k.blk kind nb parts).bind fun ps =>
            let ws := ((collResult k.blk kind ty max ps).mapIdx fun j x => elemWr (collDst k.blk + j * nb) 0 ty.width x).flatten
            (rawWrite t p ws (.ok ws)).bind fun u => .ok (doneCmd u k))

/-- The local command of a collective ends where `due` holds: its counter is poisoned, its DST untouched (R247). -/
def failColl (s : State) (hid c : Nat) (due : State → Cmd → Bool) : State :=
  match focus s hid with
  | none => s
  | some t =>
    match cmdAt t c with
    | none => s
    | some k => if (collForm k.op).isSome && due t k then faultCmd t k causeCollTimeout k.addr.toNat else s

/-- COLL_TIMEOUT (R247): TIMEOUT has passed since the command's issue. -/
def execCollTimeout (hid c : Nat) (s : State) : Out := .next (failColl s hid c collLate)

/-- A participant of the collective is lost (R247). -/
def collLost (s : State) (hid c : Nat) : State := failColl s hid c fun _ _ => true

/-! ## ENCF -/

/-- More fields of ENCF's block (R248). -/
def encfPitch (v : Nat) : Nat := blockField v 32 32
def encfSample (v : Nat) : Nat := if encfTen v then 2 else 1
def encfSbv (v : Nat) : Bool := natBit v 4
def encfCap (v : Nat) : Nat := blockField v 64 32
def encfBands (v : Nat) : Nat := ceilDiv (encfHeight v) 64

/-- PARAM_BAD of ENCF (R248). -/
def encfBad (v : Nat) : Bool :=
  let codec := natBits v 0 2
  let w := encfWidth v
  let h := encfHeight v
  natBits v 5 3 != 0 || natBits v 22 42 != 0 || blockField v 12 32 != 0 || blockField v 68 32 != 0 || blockField v 80 384 != 0
  || codec == 3 || (natBit v 2 && codec != 0)
  || w == 0 || decide (8192 < w) || w % 8 != 0 || h == 0 || decide (8192 < h) || h % 8 != 0
  || (codec != 0 && decide (51 < natBits v 8 8))
  || decide (encfPitch v < w * encfSample v) || encfPitch v % 64 != 0
  || [16, 24, 40, 48, 56, 72].any (fun o => blockField v o 64 % 64 != 0)
  || (encfInter v && blockField v 40 64 == 0) || encfCap v == 0

/-- ENCF (R248). -/
def execEncf (c : BitVec 4) (a : BitVec 5) (e : BitVec 4) (s : State) : Out := blockCmd s (.encf c a e) c a 16 clsENC encfBad

/-- Rows of a plane: `n` rows of `len` bytes from row `r0` on. -/
def planeRows (s : State) (p : Path) (base pitch len r0 n : Nat) : MRes (List Byte) :=
  (seqRes (fun j => loadBytes s p (base + (r0 + j) * pitch) len) (List.range n)).bind fun bs => .ok bs.flatten

/-- The luma rows of band b and the matching chroma rows. -/
def bandBytes (s : State) (p : Path) (v b : Nat) : MRes (List Byte) :=
  let len := encfWidth v * encfSample v
  let n := min 64 (encfHeight v - 64 * b)
  (planeRows s p (blockField v 16 64) (encfPitch v) len (64 * b) n).bind fun y =>
    (planeRows s p (blockField v 24 64) (encfPitch v) len (32 * b) (n / 2)).bind fun c => .ok (y ++ c)

/-- The places of RECON's samples: a Y plane, and at PITCH times HEIGHT its CbCr plane. -/
def reconPlaces (v : Nat) : List Nat :=
  (List.range (encfHeight v + encfHeight v / 2)).flatMap fun r =>
    (List.range (encfWidth v * encfSample v)).map fun x => blockField v 48 64 + r * encfPitch v + x

/-- The places of RECON and OUT get unspecified bytes, or keep what they hold, one by one (R250; log 14). -/
def encfScraps (s : State) (v : Nat) : State :=
  let places := reconPlaces v ++ (List.range (encfCap v)).map fun j => blockField v 56 64 + j
  let t := (places.mapIdx fun j a => (j, a)).foldl (fun u (x : Nat × Nat) =>
    let f := (Config.freeWord (s.freeIdx + x.1)).toNat
    let w : Wr := { va := x.2, mask := 0xFF, byte := f % 256 }
    if natBit f 8 then
      match engineWrite u (s.hart.enginePath s) [w] (.ok [w]) with
      | .ok u' => u'
      | _ => u
    else u) s
  { t with freeIdx := s.freeIdx + places.length }

/-- A command of ENCF. -/
def isEncf (k : Cmd) : Bool :=
  match k.op with
  | .encf _ _ _ => true
  | _ => false

/-- The block of an ENCF command; the bytes it has read follow it. -/
def encfBlock (k : Cmd) : Nat := natOfBytes (k.block.take 128)

/-- ENCF_BAND_READ (R250): the next band is read, once its barrier's count allows it. -/
def execEncfBandRead (hid c : Nat) (s : State) : Out :=
  match focus s hid with
  | none => .next s
  | some t =>
    match cmdAt t c with
    | none => .next s
    | some k =>
      let v := encfBlock k
      let b := sbGet t t.hart.who.serial (natBits v 16 6)
      if !isEncf k || !depsDone t k.deps || decide (encfBands v ≤ k.units) then .next s
      else if encfSbv v && decide (b.1.toNat < blockField v 36 32 + k.units + 1) then
        if b.2 then .next (faultCmd (encfScraps t v) k causeEngineFault k.addr.toNat) else .next s
      else engOut s t k ((viaView t clsENC fun r q => bandBytes r q v k.units).bind fun bs =>
        .ok (updCmd t k.id fun x => { x with units := x.units + 1, block := x.block ++ bs }))

/-- The reference frame, read for an inter frame. -/
def encfRef (s : State) (p : Path) (v : Nat) : MRes (List Byte) :=
  if encfInter v then
    planeRows s p (blockField v 40 64) (encfPitch v) (encfWidth v * encfSample v) 0 (encfHeight v + encfHeight v / 2)
  else .ok []

/-- What ENCF writes: RECON, OUT up to OUTCAP, and STAT (R250); the coded bytes are not the spec's (log 14). -/
def encfWrites (e v : Nat) (block input : List Byte) : List Wr :=
  let rs := reconPlaces v
  let out := encfStream e v block input
  let len := out.length
  let n := min len (encfCap v)
  (rs.mapIdx fun i a => ({ va := a, mask := 0xFF, byte := (Config.encfByte e block input i).toNat } : Wr))
  ++ ((out.take n).mapIdx fun j b => ({ va := blockField v 56 64 + j, mask := 0xFF, byte := b.toNat } : Wr))
  ++ elemWr (blockField v 72 64) 0 64 (n % 2 ^ 32 + (if encfCap v < len then 2 ^ 32 else 0))

/-- The end of an ENCF command, once every band has been read. -/
def encfEnd (s : State) (k : Cmd) (e : BitVec 4) : MRes State :=
  let p := s.hart.enginePath s
  let v := encfBlock k
  (viaView s clsENC fun r q => encfRef r q v).bind fun rf =>
    let ws := encfWrites e.toNat v (k.block.take 128) (k.block.drop 128 ++ rf)
    (rawWrite s p ws (.ok ws)).bind fun u => .ok (doneCmd u k)

/-! ## The end of a command -/

/-- A GSCAT ends when every bank add of it has performed; it has arrived only if no contribution faulted (R254, R262). -/
def gscatEnd (s : State) (k : Cmd) : State := if k.units = 0 then doneCmd s k else endCmd (errBound s k.sb) k

/-- ENGINE_COMMAND_END (R228, R230): the rest of a command's work is done, and its counter goes down. -/
def execEngineCommandEnd (hid c : Nat) (s : State) : Out :=
  match focus s hid with
  | none => .next s
  | some t =>
    match cmdAt t c with
    | none => .next s
    | some k =>
      if !depsDone t k.deps then .next s
      else match k.op with
        | .relay _ _ _ _ _ => .next (if relayDone t k then doneCmd t k else s)
        | .encf _ _ e => if k.units < encfBands (encfBlock k) then .next s else engOut s t k (encfEnd t k e)
        | .gscat _ _ _ _ => .next (if t.hart.eng.adds.any (·.cmd == some k.id) then s else gscatEnd t k)
        | .coll _ _ _ _ _ _ => .next s
        | _ => copyRest (copyFuel k) t k

/-- A cause an engine's fault may have (R228, R342, R344). -/
def engineCause (c : BitVec 8) : Bool :=
  let v := c.toNat
  (0x40 ≤ v && v ≤ 0x4C) || c == causeEngineFault || c == causeDecodeError || c == causeDataUe

/-- A fault of a fetch under way (R189): it fills what is left. -/
def faultFetch (s : State) (f : Fetch) (cause : BitVec 8) (addr : Nat) : State :=
  updFetch (errBound (poisonCounter s f.ctr addr (wordOf f.op) cause clsMAT) f.sb) f.id fun g => { g with faulted := true }

/-- The fault of a bank add (R216, R262): the errata entry with the partial, and the poison or the pending state. -/
def addFault (s : State) (x : BankAdd) (cause : BitVec 8) : State :=
  match x.cmd with
  | some id =>
    match cmdAt s id with
    | some k => updCmd (poisonCounterOp s k.ctr x.va x.part (wordOf x.op) cause clsRED) id fun y => { y with units := y.units + 1 }
    | none => errataPending s x.va x.part (wordOf x.op) cause clsRED
  | none => errataPending s x.va x.part (wordOf x.op) cause clsRED

/-- A bank add faults and is dropped. -/
def dropAdd (s : State) (x : BankAdd) (cause : BitVec 8) : State :=
  addFault (withEng s fun g => { g with adds := g.adds.filter (·.id != x.id) }) x cause

def putStream (s : State) (t : Stream) : State :=
  withEng s fun g => { g with streams := g.streams.map fun x => if x.id = t.id then t else x }

/-- A refill faults (R222): the counter is poisoned, and later pops do not wait. -/
def faultStream (s : State) (t : Stream) (cause : BitVec 8) (addr : Nat) : State :=
  putStream (poisonCounter s t.ctr addr (wordOf t.op) cause clsCPY) { t with faulted := true }

/-- A fault of what is no command and no fetch: a bank add, or a stream that still has points to read, whose refills are under way
only while its hart is not saved (R22). -/
def faultOther (s : State) (c : Nat) (cause : BitVec 8) (addr : Nat) : State :=
  match s.hart.eng.adds.find? (·.id == c), s.hart.eng.streams.find? (·.id == c) with
  | some x, _ => dropAdd s x cause
  | none, some t => if t.faulted || decide (t.points ≤ t.pos) || !s.hart.who.resident then s else faultStream s t cause addr
  | none, none => s

/-- ENGINE_COMMAND_FAULT (R228, R254): an engine meets a fault that the model does not derive (an uncorrectable error, a
remote access without response, a failed link, R279) at `addr`. `c` is the number of a command, fetch, stream or bank add;
of a GSCAT the first contribution under way is dropped. -/
def execEngineCommandFault (hid c : Nat) (cause : BitVec 8) (addr : BitVec 64) (s : State) : Out :=
  match focus s hid with
  | none => .next s
  | some t =>
    if !engineCause cause then .next s
    else match cmdAt t c, fetchAt t c with
      | some k, _ =>
        match k.op with
        | .gscat _ _ _ _ =>
          (match t.hart.eng.adds.find? (·.cmd == some k.id) with
          | some x => .next (dropAdd t x cause)
          | none => .next s)
        | .relay _ _ _ _ _ =>
          match t.relays.find? (·.cmd == k.id) with
          | some r => .next ((relayFault t r ((r.sheets.findIdx? (· != 2)).getD r.sheets.length) cause addr.toNat).getD s)
          | none => .next (faultCmd t k cause addr.toNat)
        | _ => .next (faultCmd t k cause addr.toNat)
      | none, some f => .next (if f.inQueue || f.faulted then s else faultFetch t f cause addr.toNat)
      | none, none => .next (faultOther t c cause addr.toNat)

/-! ## Bank adds (R216, R262) -/

/-- BANK_ADD (R216, R262): one atomic update of memory by a partial; one of a remote module goes over a port that is up (R376). -/
def execBankAdd (hid n : Nat) (s : State) : Out :=
  match focus s hid with
  | none => .next s
  | some t =>
    match t.hart.eng.adds.find? (·.id == n), t.hart.eng.adds.filter (·.id != n) with
    | none, _ => .next s
    | some x, rest =>
      if !depsDone t x.deps || (paRemote x.pa && !linkUp t) then .next s
      else
        let u := withEng t fun g => { g with adds := rest }
        let l := keyLoc x.pa
        match tyOfCode x.ty with
        | none => .next u
        | some ty =>
          if locPoisoned u l then .next (addFault u x causeDataUe)
          else
            let old := natOfBytes (locBytes u l (ty.width / 8))
            match putBytes u l none x.va (bytesOfNat (ty.width / 8) (rawValue u (identSpace u u.hart.who).asid x.va (ty.width / 8) (bankSum ty old x.part))) with
            | .ok r => .next r
            | .trap c _ => .next (addFault u x c)
            | .wait _ => .next s

/-! ## Stream refills (R222) -/

/-- The converted bits of point j of a walk: 0 outside the extents. -/
def refillPoint (s : State) (p : Path) (t : Stream) (ty : Ty) (j : Nat) : MRes Nat :=
  if !t.h.inside (t.point j) then .ok 0
  else (readPoint s p t.h (t.point j) ty).bind fun x => .ok (convPoint (policyOf t.vmode) ty x).1

/-- Up to `n` more points. -/
def refillMore (s : State) (p : Path) (ty : Ty) : Nat → Stream → MRes Stream
  | 0, t => .ok t
  | n + 1, t =>
    if t.points ≤ t.pos then .ok t
    else (refillPoint s p t ty t.pos).bind fun v => refillMore s p ty n { t with pos := t.pos + 1, buf := t.buf ++ [v] }

/-- STREAM_REFILL (R222): the streamer fills its buffer up to four strips of the window. None is under way once the hart is
saved (R22). -/
def execStreamRefill (hid w : Nat) (s : State) : Out :=
  match focus s hid with
  | none => .next s
  | some u =>
    match boundTo u w with
    | none => .next s
    | some t =>
      match modeTy t.vmode with
      | none => .next s
      | some ty =>
        if t.faulted || !depsDone u t.deps || !u.hart.who.resident then .next s
        else
          let strip := count (winOp u (BitVec.ofNat 6 w) 0).whole
          match viaView u clsCPY fun r q => refillMore r q ty (4 * strip - t.buf.length) t with
          | .ok t' => .next (putStream u t')
          | .trap c a => .next (faultStream u t c a)
          | .wait _ => .next s

end Sys2Proof.Machine
end

