-- ==== Sys2Proof/Machine/Waits.lean ====
section
/-!
DEFINITION. Counters (R229 to R233), stage barriers (R252), fences (R255, R256) and barriers (R257).
-/
namespace Sys2Proof.Machine

open Sys2Proof

/-- The test of the errata pending state that a fence or wait makes first (R233). -/
def checkPending (s : State) (k : Out) : Out :=
  match s.hart.eng.errPend with
  | some e => .next (takeTrap s (plainTrap causeCounterPoison e))
  | none => k

/-! ## Counters -/

/-- The condition that ends CWAIT (R231). -/
def cwaitEnds (c : Counter) (k : Nat) : Bool := decide (c.count.toNat < (if k = 0 then 1 else k)) || c.poison

/-- The park of CWAIT on counter `c` with limit k and TOL, and its end (R231). -/
def cwaitPark (s : State) (c k : Nat) (tol : Bool) : Out :=
  let x := rc s c
  if !cwaitEnds x k then .next (waitOn s .cwait)
  else if x.poison && !tol then .next (takeTrap s (plainTrap causeCounterPoison x.first))
  else .next (advance (dropStreams s))

def cwaitOn (s : State) (c k : Nat) (tol : Bool) : Out := checkPending s (cwaitPark s c k tol)

/-- CWAIT (R231). -/
def execCwait (c : BitVec 4) (k : BitVec 6) (s : State) : Out := cwaitOn s c.toNat k.toNat false

/-- CWAIT with k in a register (R231). -/
def execCwaitX (c : BitVec 4) (a : BitVec 5) (s : State) : Out :=
  cwaitOn s c.toNat (wBits (rx s a) 0 16) ((rx s a).getLsbD 63)

/-- A counter as CREAD returns it (R229). -/
def counterWord (c : Counter) : Word := (if c.poison then 0x8000000000000000#64 else 0#64) ||| c.count.setWidth 64

/-- CREAD (R232). -/
def execCread (c : BitVec 4) (a : BitVec 5) (s : State) : Out := setX s a (counterWord (rc s c.toNat))

/-- CREAD.CLR (R232). -/
def execCreadClr (c : BitVec 4) (a : BitVec 5) (s : State) : Out :=
  setX (wc s c.toNat { rc s c.toNat with poison := false }) a (counterWord (rc s c.toNat))

/-! ## Stage barriers (R252) -/

/-- SBARR (R252): the hart's earlier stores perform first. -/
def execSbarr (d a : BitVec 5) (n : BitVec 6) (s0 : State) : Out :=
  let s := drainAll s0
  let w := s.hart.who.serial
  let b := sbGet s w n.toNat
  let x := rx s a
  let nb : StageBar := if x.getLsbD 63 then (x.setWidth 32, false) else (b.1 + x.setWidth 32, b.2)
  setX (sbPut s w n.toNat nb) d (sbWord b)

/-- The condition that ends SBARW. -/
def sbarwEnds (b : StageBar) (k : Nat) : Bool := decide (k ≤ b.1.toNat) || b.2

/-- SBARW (R252). -/
def execSbarw (d a : BitVec 5) (n : BitVec 6) (s : State) : Out :=
  let b := sbGet s s.hart.who.serial n.toNat
  if sbarwEnds b (wBits (rx s a) 0 32) then setX (dropStreams s) d (sbWord b) else .next (waitOn s .sbarw)

/-- SBIND (R252): it replaces an unused binding of the same counter; those of other counters stay. -/
def execSbind (c : BitVec 4) (n : BitVec 6) (s : State) : Out :=
  .next (advance (withEng s fun g => { g with sbind := (c.toNat, n.toNat) :: g.sbind.filter (·.1 ≠ c.toNat) }))

/-! ## Fences -/

/-- The stores of the streams in a mask perform (R255). -/
def drainOf (mask : BitVec 8) (s : State) : State :=
  let t := if mask.getLsbD clsS then drain s false else s
  if mask.getLsbD clsV then drain t true else t

/-- Accesses of the classes in a mask see memory as it is from now on. -/
def dropViews (mask : BitVec 8) (s : State) : State :=
  let w := s.hart.weak
  { s with hart := { s.hart with weak := { w with
    viewS := if mask.getLsbD clsS then none else w.viewS
    viewV := if mask.getLsbD clsV then none else w.viewV
    viewE := w.viewE.filter fun v => !mask.getLsbD v.1 } } }

/-- The hart's outstanding accesses of the classes in a mask (R255): of a stream, those that have not performed. -/
def outstandingOf (h : Hart) (mask : BitVec 8) : List Nat :=
  ((h.weak.late.filter fun l => mask.getLsbD (if vectorOp l.op then clsV else clsS)).map (·.id))
  ++ ((h.eng.cmds.filter fun k => mask.getLsbD (cmdClass k.op)).map (·.id))
  ++ (if mask.getLsbD clsRED then h.eng.adds.map (·.id) else [])
  ++ (if mask.getLsbD clsMAT then h.mat.fetches.map (·.id) else [])

/-- The order that a FENCEX with both masks set makes: the earlier stores of its streams perform, later accesses of its classes
see memory as it is, and wait for what is outstanding of the earlier classes (R255). -/
def fenceOrder (b a : BitVec 8) (s0 : State) : State :=
  let s := dropViews a (drainOf b s0)
  let before := outstandingOf s.hart b
  if before.isEmpty then s
  else withEng s fun g =>
    { g with fences := (g.fences.filter fun f => f.before.any (outstanding s.hart).contains) ++ [{ before := before, after := a }] }

/-- FENCEX (R255); with either mask zero it orders nothing (R99). -/
def execFencex (b a : BitVec 8) (s : State) : Out :=
  checkPending s (.next (advance (if b = 0#8 || a = 0#8 then s else fenceOrder b a s)))

/-- VFENCE (R257): the vector stores of the hart perform. -/
def execVfence (_sc : BitVec 3) (s : State) : Out := checkPending s (.next (advance (dropStreams (drain s true))))

/-! ## Barriers (R257) -/

/-- The hart shares the instance of scope `sc` with `w` (R9). -/
def sameInstance (sc : Nat) (w v : Ident) : Bool :=
  match sc with
  | 0 => w.id == v.id
  | 1 => w.die == v.die && w.quad == v.quad && w.core == v.core
  | 2 => w.die == v.die && w.quad == v.quad
  | 3 => w.die == v.die
  | _ => true

/-- The pod rendezvous identifier of a launch; 0 for none. -/
def podidOf (s : State) (serial : Nat) : Nat :=
  match launchAt s serial with
  | some l => l.desc.podid
  | none => 0

/-- The hart `v` takes part in the barriers of `w` at scope `sc` (R257). -/
def takesPart (s : State) (sc : Nat) (w : Ident) (v : Hart) : Bool :=
  if inGang w.serial w.gang v then decide (w.gscope ≤ sc) || sameInstance sc w v.who
  else sc == 5 && w.podid != 0 && !v.who.dispatch && v.status != .absent && v.who.gang == w.gang && podidOf s v.who.serial == w.podid

/-- The arrivals of a hart at a scope's barrier. -/
def arrivals (h : Hart) (sc : Nat) : Nat := h.eng.arrived.toList.getD sc 0

/-- A launch with the hart's pod rendezvous identifier has not started the hart's gang yet. -/
def podGangMissing (s : State) (w : Ident) : Bool :=
  s.sched.launches.any fun l => l.desc.podid == w.podid && !l.aborted && decide (w.gang < l.desc.count) && !l.gangs.any (·.index == w.gang)

/-- Every participant has arrived in the phase of the hart's last arrival (R257, R134). -/
def barrierOpen (s : State) (sc : Nat) : Bool :=
  let w := s.hart.who
  let mine := arrivals s.hart sc
  s.others.all (fun v => !takesPart s sc w v || hartOver v || decide (mine ≤ arrivals v sc))
  && (sc != 5 || w.podid == 0 || (!podGangMissing s w && decide (mine ≤ tabGet 0 s.sched.podPeers w.podid)))

/-- An arrival at the barrier of a scope, after the hart's earlier stores (R257, R273). -/
def arriveBar (s : State) (sc : Nat) : State :=
  withEng (drainAll s) fun g => { g with arrived := Vector.ofFn fun (i : Fin 6) => if i.val = sc then g.arrived.get i + 1 else g.arrived.get i }

/-- BARA (R257). -/
def execBara (sc : BitVec 3) (s : State) : Out := checkPending s (.next (advance (arriveBar s sc.toNat)))

/-- The park of BARW: with no earlier BARA it returns at once. -/
def barwPark (s : State) (sc : Nat) : Out :=
  if arrivals s.hart sc = 0 || barrierOpen s sc then .next (advance (dropStreams s)) else .next (waitOn s .barw)

/-- BARW (R257). -/
def execBarw (sc : BitVec 3) (s : State) : Out := checkPending s (barwPark s sc.toNat)

/-- The wait half of BAR. -/
def barPark (s : State) (sc : Nat) : Out :=
  if barrierOpen s sc then .next (advance (withEng (dropStreams s) fun g => { g with barWait := none })) else .next (waitOn s .barw)

/-- BAR (R257): it arrives once, and waits until every participant has. -/
def execBar (sc : BitVec 3) (s : State) : Out :=
  checkPending s (barPark (withEng (arriveBar s sc.toNat) fun g => { g with barWait := some sc.toNat }) sc.toNat)

end Sys2Proof.Machine
end

