-- ==== Sys2Proof/Machine/Image.lean ====
section
/-!
DEFINITION. The context image of a hart: its fixed part (R347), its variable part (R348), its CRC-32C, and the checks of a restore
(R350). Where the spec gives a field's size and not the places inside it, log 24 says what the model takes.
-/
namespace Sys2Proof.Machine

open Sys2Proof

/-! ## CRC-32C -/

/-- One bit of CRC-32C, low bit first. -/
def crcBit (c : Nat) : Nat := c / 2 ^^^ c % 2 * 0x82F63B78

/-- One byte of it. -/
def crcByte (c : Nat) (b : Byte) : Nat := (List.range 8).foldl (fun x _ => crcBit x) (c ^^^ b.toNat)

/-- A fold over the bytes of an image, each result worked out before the next. -/
def foldBytes (f : Nat → Byte → Nat) : Nat → List Byte → Nat
  | c, [] => c
  | c, b :: bs =>
    match f c b with
    | 0 => foldBytes f 0 bs
    | n + 1 => foldBytes f (n + 1) bs

/-- CRC-32C of bytes (log 24). -/
def crc32c (bs : List Byte) : Nat := foldBytes crcByte 0xFFFFFFFF bs ^^^ 0xFFFFFFFF

/-! ## Parts -/

/-- Bytes followed by zeros up to `n`, of which no more than `n` count. -/
def fieldOf (n : Nat) (bs : List Byte) : List Byte := bs.take n ++ List.replicate (n - bs.length) 0

/-- Words of 8 bytes. -/
def wordBytes (ws : List Word) : List Byte := ws.flatMap fun w => bytesOfNat 8 w.toNat

/-- An item of the variable part: up to a boundary of 64 bytes. -/
def itemOf (bs : List Byte) : List Byte := fieldOf (ceilDiv bs.length 64 * 64) bs

/-- WAIT (R347). A hart that waits for anything else performs its instruction again. -/
def waitCode : Status → Nat
  | .waiting .vwait => 1
  | .waiting .cwait => 2
  | .waiting .sbarw => 3
  | .waiting .launchW => 4
  | .waiting .barw => 5
  | .inScall _ _ => 6
  | .waiting (.fifo _) => 7
  | .waiting .stall => 8
  | _ => 0

/-- The number of the handle register that a stream was bound from. -/
def streamHandle (t : Stream) : Nat :=
  match t.op with
  | .strm h _ _ _ _ => h.toNat
  | .strmx h _ _ _ => h.toNat
  | _ => 0

/-- The element width of a bound window. -/
def streamEw (t : Stream) : Nat := match modeTy t.vmode with | some ty => ty.width | none => 8

/-- Elements of `ew` bits, packed. -/
def packedBytes (ew : Nat) (vs : List Nat) : List Byte := bytesOfNat (ceilDiv (vs.length * ew) 8) (packElems ew vs)

/-- The 128 bytes of a stream: window, handle number and counter; start, counts and steps; the next pop; the bytes buffered. -/
def streamBytes (t : Stream) : List Byte :=
  fieldOf 128 (fieldOf 8 (bytesOfNat 1 t.win ++ bytesOfNat 1 (streamHandle t) ++ bytesOfNat 1 t.ctr)
    ++ fieldOf 16 (t.start.flatMap (bytesOfNat 4)) ++ fieldOf 16 (t.counts.flatMap (bytesOfNat 4))
    ++ fieldOf 32 (t.steps.flatMap fun x => bytesOfNat 2 (x % 65536).toNat)
    ++ bytesOfNat 8 (t.pos - t.buf.length) ++ bytesOfNat 8 (packedBytes (streamEw t) t.buf).length)

/-- The 256 bytes of a matrix-queue entry: the word, its captured descriptors, handles, X values and VMODE, and its next k. -/
def entryBytes (h : Hart) (e : MEntry) : List Byte :=
  let f := h.mat.fetches.find? (·.id == e.fetch)
  let hs := match f with | some f => [f.h, f.hs, f.hd].flatMap fun x => wordBytes x.dw.toList | none => []
  let xs := match f with | some f => f.c.flatMap (bytesOfNat 4) | none => []
  fieldOf 256 (bytesOfNat 8 (wordOf e.op).toNat ++ wordBytes [e.wa, e.wb] ++ fieldOf 192 hs ++ fieldOf 16 xs ++ wordBytes [e.vmode]
    ++ bytesOfNat 8 e.k)

/-- The scale plane of a claimed slot: (MVL/16) times MVL bytes. -/
def slotPlane (m : MatState) (slot : Nat) : List Byte :=
  let n := mvlLen m.mvl
  let row := slot / max 1 (mvlSpb m.mvl) * n
  let col := slot % max 1 (mvlSpb m.mvl) * n
  (List.range (n / 16)).flatMap fun q => (List.range n).map fun c => tabGet 127#8 m.plane ((row / 16 + q) * 1024 + col + c)

/-- The items of matrix mode (R348); the planes of all claimed slots are one item, and every entry of the queue counts (log 146). -/
def matrixItems (h : Hart) : List Byte :=
  let m := h.mat
  let n := mvlLen m.mvl
  if n = 0 then []
  else
    itemOf ((List.range (mvlTiles m.mvl * n * n)).flatMap fun k => bytesOfNat 4 (tabGet 0#32 m.acc k).toNat)
    ++ itemOf (bytesOfNat 128 (m.claimed.foldl (fun v k => v ||| 2 ^ k) 0))
    ++ itemOf (((List.range (mvlSlots m.mvl)).filter m.claimed.contains).flatMap (slotPlane m))
    ++ itemOf (bytesOfNat 8 m.mq.length ++ m.mq.flatMap (entryBytes h))

/-- The bytes of a flag vector, bit n for the nth. -/
def bitsNat (bs : List Bool) : Nat := (bs.mapIdx fun i b => if b then 2 ^ i else 0).sum

/-! ## The image -/

/-- The first 0x42 bytes, with the CRC and the size given. Of the unused SBIND bindings the latest is shown (log 24). -/
def imageHead (h : Hart) (size crc : Nat) : List Byte :=
  let w := h.who
  bytesOfNat 4 0x4B435849 ++ bytesOfNat 2 1 ++ bytesOfNat 1 w.shape
  ++ bytesOfNat 1 (bitsNat [h.mat.mvl != 0, h.eng.errPend.isSome, w.degr])
  ++ bytesOfNat 4 size ++ bytesOfNat 2 w.grows ++ bytesOfNat 2 (grbOf w.shape)
  ++ bytesOfNat 4 w.serial ++ bytesOfNat 2 w.rank ++ bytesOfNat 2 0
  ++ bytesOfNat 1 (waitCode h.status) ++ bytesOfNat 3 0 ++ bytesOfNat 4 crc
  ++ wordBytes [w.troot, w.ctxown] ++ wordBytes [h.eng.errPend.getD 0]
  ++ bytesOfNat 8 (match h.eng.sbind.head? with | some (c, n) => 2 ^ 15 + n % 64 * 16 + c % 16 | none => 0)
  ++ bytesOfNat 2 (bitsNat (h.h.toList.map (·.valid)))

/-- The registers from 0x100 to 0x13FF, read as the program reads them. -/
def imageRegs (s : State) : List Byte :=
  let h := s.hart
  let csr (k : Nat) : Word := csrGet s (BitVec.ofNat 12 k)
  wordBytes ((List.range 32).map fun r => rx s (BitVec.ofNat 5 r))
  ++ fieldOf 256 (wordBytes (h.pc :: ([0, 1, 2, 3, 4, 5, 6, 7, 8, 9, 0x40, 0x41, 0x42, 0x43, 0x44, 0x45, 0x22].map csr)))
  ++ wordBytes ((List.range 16).map fun k => csr (0x10 + k))
  ++ wordBytes (h.ev.toList.map (·.setWidth 64)) ++ wordBytes h.evsel.toList
  ++ wordBytes h.vec.w.toList ++ (h.vec.m.toList.flatMap fun m => bytesOfNat 128 m.toNat)
  ++ (h.h.toList.flatMap fun x => wordBytes x.dw.toList)
  ++ (h.c.toList.flatMap fun c => wordBytes [counterWord c, c.first])
  ++ fieldOf 256 (match h.eng.launchRec with | some (_, ws) => wordBytes ws | none => [])
  ++ fieldOf 512 (h.eng.streams.flatMap streamBytes)

/-- The variable part, from 0x1400 on. -/
def imageItems (h : Hart) : List Byte :=
  let g := grbOf h.who.shape
  itemOf ((List.range h.who.grows).flatMap fun r => cellsAt h.vec.galley (r * 512) g)
  ++ matrixItems h
  ++ (h.h.toList.flatMap fun x => if x.valid && x.kind == kindGrid then itemOf (wordBytes x.levels) else [])
  ++ (h.eng.streams.flatMap fun t => itemOf (packedBytes (streamEw t) t.buf))

/-- The context image of the hart (R347, R348). -/
def imageOf (s : State) : List Byte :=
  let rest := imageRegs s ++ imageItems s.hart
  let img (crc : Nat) : List Byte := fieldOf 0x100 (imageHead s.hart (foldBytes (fun n _ => n + 1) 0x100 rest) crc) ++ rest
  img (crc32c (img 0))

/-- The check of a restore (R350): MAGIC, VERSION, GRB against the core, and the CRC, whose own bytes count as zeros. -/
def imageGood (img : List Byte) (shape : Nat) : Bool :=
  let at_ (o n : Nat) : Nat := natOfBytes ((img.drop o).take n)
  at_ 0 4 == 0x4B435849 && at_ 4 2 == 1 && at_ 0x0E 2 == grbOf shape
  && at_ 0x1C 4 == crc32c (img.take 0x1C ++ [0, 0, 0, 0] ++ img.drop 0x20)

/-- The image of a saved hart. -/
def imageAt (s : State) (hid : Nat) : List Byte := tabGet [] s.images hid

/-- The hub writes the hart's image (R349). -/
def saveImage (s : State) : State := { s with images := tabSet [] s.images s.hart.who.id (imageOf s) }

/-- A saved hart has changed: so has its image, where that is sound. -/
def resaveImage (s : State) : State := if imageGood (imageAt s s.hart.who.id) s.hart.who.shape then saveImage s else s

/-- The images of these harts are needed no more. -/
def dropImages (s : State) (p : Nat → Bool) : State := { s with images := s.images.filter fun x => !p x.1 }

/-- A byte of a sound image changes. -/
def damageImage (s : State) (hid off : Nat) (b : Byte) : State :=
  let img := imageAt s hid
  match (allHarts s).find? (·.who.id == hid) with
  | none => s
  | some h => if imageGood img h.who.shape then { s with images := tabSet [] s.images hid (img.set off b) } else s

end Sys2Proof.Machine
end

