-- ==== Sys2Proof/Machine/Launches.lean ====
section
/-!
DEFINITION. Launch records and their checks (R10, R31, R311, R312, R353), LAUNCH and LAUNCH.W (R30 to R32, R135, R310),
the completion word (R15 to R17, R313), and pre-emption up to the saved context (R12, R18, R21 to R23, R349).
-/
namespace Sys2Proof.Machine

open Sys2Proof

/-! ## Records (R311) -/

/-- The bits of a record's double words that hold fields. -/
def recMasks : List Word :=
  [0x00FFFFFFFFFFFFFF#64, 0x00FFFFFFFFFFFFFF#64, 0x00FFFFFFFFFFFFFF#64, 0xFFFFFFFFFFFFFFFF#64, 0x07373FFFFFFFFFFF#64,
   0x017F3F07FFFF03FF#64, 0xFFFFFFFF00001FFF#64, 0x00000000FFFFFFFF#64]

/-- A reserved field is nonzero. -/
def recReserved (ws : List Word) : Bool := (ws.zip recMasks).any fun p => p.1 &&& ~~~p.2 != 0

/-- The fields of a record. -/
def recOf (ws : List Word) : LaunchRec :=
  let d (n lo k : Nat) : Nat := wBits (ws.getD n 0) lo k
  { entry := d 0 0 56, args := d 1 0 56, done := d 2 0 56, deadline := d 3 0 64, cls := d 4 56 3, shape := d 4 52 2,
    scope := d 4 48 3, gsize := d 4 32 14, count := d 4 0 32, irq := d 5 56 1 == 1, sbNum := d 5 48 7, sbFirst := d 5 40 6,
    accb := d 5 16 19, rows := d 5 0 10, podid := d 6 32 32, sessv := d 6 12 1 == 1, session := d 6 0 12, est := d 7 0 32 }

/-! ## Cores, scope instances, partitions -/

/-- Cores in one instance of a gang scope (R9). -/
def coresPer (sc : Nat) : Nat := match sc with | 1 => 1 | 2 => 4 | 3 => 64 | _ => 1024

/-- Instances of a gang scope on the module. -/
def instCount (sc : Nat) : Nat := 1024 / coresPer sc

/-- The cores of an instance; a core's number is die * 64 + quad * 4 + core. -/
def instCores (sc inst : Nat) : List Nat := (List.range (coresPer sc)).map fun j => inst * coresPer sc + j

def coreAt (s : State) (c : Nat) : CoreState := tabGet CoreState.init s.cores c

def setCore (s : State) (c : Nat) (v : CoreState) : State := { s with cores := tabSet CoreState.init s.cores c v }

def dieAt (s : State) (d : Nat) : DieState := tabGet DieState.init s.dies d

def setDie (s : State) (d : Nat) (v : DieState) : State := { s with dies := tabSet DieState.init s.dies d v }

/-- The core can host harts of this shape (R8, R393, R384). -/
def coreServes (s : State) (shape c : Nat) : Bool :=
  !(coreAt s c).out && !(dieAt s (c / 64)).tripped && !((coreAt s c).degraded && shape == 3)

/-- The harts an instance can ever hold (R31). -/
def instCap (s : State) (sc shape inst : Nat) : Nat := ((instCores sc inst).filter (coreServes s shape)).length * 2 ^ shape

/-- PARTn and VFMAPf at reset (R351). -/
def partInit : Word := 0x0000000100000000#64
def vfmapInit : Word := 1#64

def partReg (s : State) (n : Nat) : Word := tabGet partInit s.hub.parts n
def vfmapReg (s : State) (f : Nat) : Word := tabGet vfmapInit s.hub.vfmaps f

def partEn (w : Word) : Bool := w.getLsbD 16
def partDies (w : Word) : Nat := wBits w 0 16
def partSlice (w : Word) : Nat := wBits w 32 16

/-- The partition a virtual function runs in (R351). -/
def fnPart (s : State) (f : Nat) : Option Nat :=
  if f = 0 then none
  else
    let v := vfmapReg s f
    if v.getLsbD 15 && partEn (partReg s (wBits v 8 4)) then some (wBits v 8 4) else none

/-- The dies of a function (R353), as a mask. -/
def fnDies (s : State) (f : Nat) : Nat :=
  if f = 0 then (List.range 16).foldl (fun m d =>
    if (List.range 16).any fun n => partEn (partReg s n) && natBit (partDies (partReg s n)) d then m else m + 2 ^ d) 0
  else match fnPart s f with
    | some n => partDies (partReg s n)
    | none => 0

/-- The quads in which a session has pinned banks; a quad's number is die * 16 + quad. -/
def sessionQuads (s : State) (x : Nat) : List Nat := s.banks.filterMap fun p => if p.2.session = some x then some (p.1 / 64) else none

/-- The session has lost a bank to retirement (R370). -/
def sessionLost (s : State) (x : Nat) : Bool := s.banks.any fun p => p.2.session == some x && p.2.retired

/-! ## The test of a record (R31, R312) -/

/-- What makes a record malformed, but for its translations. -/
def recStatic (s : State) (f maxClass : Nat) (ws : List Word) : Bool :=
  let r := recOf ws
  recReserved ws || decide (maxClass < r.cls)
  || !(decide (1 ≤ r.scope) && decide (r.scope ≤ 4)) || r.gsize == 0 || decide (coresPer r.scope * 2 ^ r.shape < r.gsize)
  || !(List.range (instCount r.scope)).any (fun i => decide (r.gsize ≤ instCap s r.scope r.shape i))
  || r.count == 0 || r.rows % 4 != 0 || decide (r.rows < 4) || decide (512 < r.rows)
  || decide (262144 / 2 ^ r.shape < r.accb) || r.entry % 4 != 0 || r.done % 8 != 0
  || decide (64 < r.sbFirst + r.sbNum) || (r.sessv && r.sbNum != 0)
  || (r.sessv && (decide (2 < r.scope) || sessionLost s r.session
      || !(sessionQuads s r.session).any (fun q => f == 0 || natBit (fnDies s f) (q / 16))))

/-- A record is malformed (R31): its static limits, an entry that is no executable page, a completion word in a remote
module. A migrating entry waits, and so does a migrating page of the completion word (log 110). -/
def recBad (s : State) (sp : Space) (f maxClass : Nat) (ws : List Word) : MRes Bool :=
  let r := recOf ws
  if recStatic s f maxClass ws || decide (0xFE ≤ r.entry / 2 ^ 48) then .ok true
  else match lookup s sp r.entry with
    | .migrating => .wait .migration
    | .leaf w _ =>
      if !leafX w || leafDev w then .ok true
      else if 0xFE ≤ r.done / 2 ^ 48 then .ok false
      else match lookup s sp r.done with
        | .migrating => .wait .migration
        | .leaf v lg => .ok (paRemote (leafFrame v + r.done % 2 ^ lg))
        | _ => .ok false
    | _ => .ok true

/-! ## LAUNCH -/

/-- A serial number no pending launch has, from `n` on (R14): the next one up that is free (log 109). -/
def freshSerial (s : State) : Nat → Nat → Nat
  | 0, n => n % 2 ^ 32
  | k + 1, n => if (launchAt s (n % 2 ^ 32)).isSome then freshSerial s k (n + 1) else n % 2 ^ 32

/-- Steps 1 and 2 of a reset of the function have been taken (R358). -/
def fnQuits (s : State) (f : Nat) : Bool := (fnAt s f).reset && !(f == 0 && s.hub.pfPend)

/-- An accepted record takes an entry of the pending-launch store (R313, R332). While its function is being reset the launch
is aborted like the function's others (R358). -/
def enqueue (s : State) (ws : List Word) : State :=
  let w := s.hart.who
  let n := freshSerial s s.sched.launches.length s.sched.nextSerial
  let l : Launch :=
    { desc := recOf ws, serial := n, queue := w.queue, fn := w.fn, troot := w.troot, ctxown := w.ctxown, sbs := [], gangs := [],
      started := 0, gdone := 0, aborted := fnQuits s w.fn, cause := 0, quiet := fnQuits s w.fn, enqAt := s.time,
      lastAt := s.time, aged := 0, debug := false, ccache := [], icache := [] }
  { s with sched := { s.sched with launches := s.sched.launches ++ [l], nextSerial := (n + 1) % 2 ^ 32 } }

/-- The pending-launch store is full (R314). -/
def storeFull (s : State) : Bool := decide (65536 ≤ s.sched.launches.length)

def setLaunchRec (s : State) (r : Option (Bool × List Word)) : State := withEng s fun g => { g with launchRec := r }

/-- LAUNCH or LAUNCH.W (`wt`) once its record is known to be well formed (R30, R314). -/
def launchRoom (s : State) (d : BitVec 5) (wt : Bool) (ws : List Word) : Out :=
  if storeFull s then
    if wt then .next (waitOn (setLaunchRec s (some (true, ws))) .launchW) else setX (setLaunchRec s none) d 1
  else setX (enqueue (setLaunchRec s none) ws) d 0

/-- The highest class a record may name (R31, R310). -/
def launchMaxClass (s : State) : Nat := if s.hart.who.dispatch then qMaxClass (queueAt s s.hart.who.queue) else s.hart.who.cls

/-- The test of the record that LAUNCH has read (R31, R310). -/
def launchTest (s : State) (d a : BitVec 5) (wt : Bool) (ws : List Word) : Out :=
  match recBad s (identSpace s s.hart.who) s.hart.who.fn (launchMaxClass s) ws with
  | .ok true =>
    let t := setLaunchRec s none
    if s.hart.who.dispatch then .next (takeTrap t (plainTrap causeLaunchBad (rx s a))) else setX t d 2
  | .ok false => launchRoom s d wt ws
  | .wait x => .next (waitOn (setLaunchRec s (some (false, ws))) x)
  | .trap _ _ => .next s

/-- LAUNCH and LAUNCH.W (R135): the record is read once. -/
def launchRun (s : State) (d a : BitVec 5) (wt : Bool) : Out :=
  match s.hart.eng.launchRec with
  | some (true, ws) => launchRoom s d wt ws
  | some (false, ws) => launchTest s d a wt ws
  | none =>
    let s := syncScalar s
    if (rx s a).toNat % 64 ≠ 0 then .next (takeTrap s (plainTrap causeMisalign (rx s a)))
    else if fenced s clsS then .next (waitOn s .stall)
    else loadOut s (loadWords s (s.hart.path s) (rx s a).toNat 8) (launchTest s d a wt)

/-- LAUNCH (R30, R135). -/
def execLaunch (d a : BitVec 5) (s : State) : Out := launchRun s d a false

/-- LAUNCH.W (R30, R135): it waits for room. -/
def execLaunchW (d a : BitVec 5) (s : State) : Out := launchRun s d a true

/-! ## The completion word -/

/-- The hart belongs to the launch. -/
def ofLaunch (serial : Nat) (h : Hart) : Bool := !h.who.dispatch && h.who.serial == serial && h.status != .absent

/-- Nothing the hart has issued is under way: engine commands, bank adds, fetches that have left the queue, stores and
loads. -/
def drained (h : Hart) : Bool :=
  h.eng.cmds.isEmpty && h.eng.adds.isEmpty && h.mat.fetches.all (·.inQueue)
  && h.weak.postS.isEmpty && h.weak.postV.isEmpty && h.weak.late.isEmpty

/-- The launch is over: no gang will start, every started one has ended, and its engine commands have drained. -/
def launchOver (s : State) (l : Launch) : Bool :=
  (l.aborted || decide (l.desc.count ≤ l.started)) && l.gangs.all (fun g => g.status == .ended)
  && ((allHarts s).filter (ofLaunch l.serial)).all drained

/-- The completion word (R16). -/
def completionWord (s : State) (l : Launch) : Nat :=
  l.gdone * 2 ^ 32 + (if l.desc.deadline ≠ 0 && decide (l.desc.deadline < s.time) then 2 ^ 16 else 0)
  + (if l.aborted then l.cause.toNat * 256 + 2 else 1)

/-- The harts that remain when those of a launch, or of an ended program, are forgotten. -/
def dropHarts (s : State) (p : Hart → Bool) : State :=
  let u := dropImages s fun id => (allHarts s).any fun h => p h && h.who.id == id
  match (allHarts s).filter fun h => !p h with
  | [] => { u with hart := Hart.blank, others := [] }
  | h :: t => { u with hart := h, others := t }

/-- The launch's entry is freed (R313). -/
def freeLaunch (s : State) (l : Launch) : State :=
  dropHarts { s with sched := { s.sched with launches := s.sched.launches.filter fun x => x.serial ≠ l.serial } } (ofLaunch l.serial)

/-- The interrupt a record requests (R313). -/
def launchIrq (s : State) (l : Launch) : State :=
  if l.desc.irq && !l.quiet then sendMsix s (qFunc (queueAt s l.queue)) (l.queue % 64) else s

/-- COMPLETION_WORD (R15 to R17): one aligned store through the function's translation, or a KIND 5 record if it faults. -/
def execCompletionWord (serial : Nat) (s : State) : Out :=
  match launchAt s serial with
  | none => .next s
  | some l =>
    if !launchOver s l then .next s
    else match storeNat s (fnPath s l.fn) l.desc.done 8 (completionWord s l) .fifoOnly with
      | .ok t => .next (launchIrq (freeLaunch t l) l)
      | .trap c _ =>
        let t := writeEvent s l.fn (eventBytes 5 c 0xFFFF l.serial (BitVec.ofNat 64 l.desc.done) 0 0 0 s.time (wBits l.ctxown 0 10))
        .next (launchIrq (freeLaunch t l) l)
      | .wait _ => .next s

/-! ## Pre-emption -/

/-- A gang is asked to stop as a unit (R12). -/
def requestStop (s : State) (serial g : Nat) : State :=
  mapHarts (fun h => if inGang serial g h && !hartOver h then { h with stopReq := true } else h)
    (updGang s serial g fun x => { x with stop := true })

/-! ## Lane groups (R7, R8, R370, R393) -/

/-- The number of a colophon record: KIND, DIE (16 for the hub), STRUCT and INDEX, as COLSEL selects it. KIND 6 holds what the
colophon records and COLSEL cannot select: losses of a port, Kwator (INDEX port) and CXL (INDEX 32 + port). -/
def coloKey (kind die st ix : Nat) : Nat := ((kind * 32 + die) * 256 + st) * 65536 + ix

/-- A count is added to a record. -/
def coloAdd (s : State) (key n : Nat) : State :=
  { s with hub := { s.hub with colo := tabSet 0 s.hub.colo key (tabGet 0 s.hub.colo key + n) } }

/-- The hart holds a slot of a core. -/
def onCore (c : Nat) (h : Hart) : Bool := !h.who.dispatch && h.who.resident && h.status != .absent && coreOf h.who == c

/-- The gangs with a resident hart on a core. -/
def gangsOn (s : State) (c : Nat) : List (Nat × Nat) :=
  (((allHarts s).filter (onCore c)).map fun h => (h.who.serial, h.who.gang)).eraseDups

/-- A KIND 3 record (R345). -/
def laneRecord (s : State) (c grp : Nat) (degr out : Bool) : State :=
  let w := { Ident.zero with die := c / 64, quad := c / 4 % 16, core := c % 4 }
  let lane := 4 * grp + (if degr then 256 else 0) + (if out then 512 else 0)
  writeEvent s 0 (eventBytes 3 causeLaneRetired lane 0 0 0 (hartIdWord w) 0 s.time 0)

/-- A group of a core is retired: the first failure takes the spare, the second degrades the core, more are taken over while
at least four groups work; then the core is out of service. The gangs on it are asked to stop. A failure of the spare group
itself counts like any other, although the spec speaks only of groups that it replaces (log 111). -/
def retireGroup (s : State) (core grp : Nat) : State :=
  let c := coreAt s core
  let n := c.failed.length + 1
  let out := decide (5 < n)
  let s1 := setCore s core { c with failed := c.failed ++ [grp], degraded := decide (2 ≤ n), out := out, pending := c.pending.filter (· ≠ grp) }
  let s2 := if n = 1 then mapHarts (fun h => if onCore core h then { h with sameCore := true } else h) s1 else s1
  let s3 := (gangsOn s2 core).foldl (fun t g => requestStop t g.1 g.2) s2
  let ix := if n = 2 then 1 else if out then 3 else 0
  laneRecord (coloAdd s3 (coloKey 3 (core / 64) 0 ix) 1) core grp (n == 2) out

/-- Every group that waits for its core's next pre-emption point is retired (R370). -/
def retirePending (s : State) (core : Nat) : State := (coreAt s core).pending.foldl (fun t g => retireGroup t core g) s

/-- A group of a core is to be retired: at once where no hart is on the core, else at the core's next pre-emption point, for
which the gangs on it are asked to stop. -/
def failGroup (s : State) (core grp : Nat) : State :=
  let c := coreAt s core
  if decide (1024 ≤ core) || decide (9 ≤ grp) || c.out || c.failed.contains grp || c.pending.contains grp then s
  else if (gangsOn s core).isEmpty then retireGroup s core grp
  else (gangsOn s core).foldl (fun t g => requestStop t g.1 g.2) (setCore s core { c with pending := c.pending ++ [grp] })

/-- A matrix instruction is under way that completes before the hart stops (R200). -/
def midMatrix (h : Hart) : Bool :=
  match h.mat.mq with
  | [] => false
  | e :: _ =>
    e.started && (match e.op with
      | .mma _ _ _ => false
      | .mmasp _ _ _ => false
      | _ => true)

/-- A pod-remote access of the hart is in flight, or has its response and has not performed (R21, R377). -/
def remoteOpen (h : Hart) : Bool := h.status == .waiting .remote || h.remote.isSome

/-- PREEMPTION_POINT_REACHED (R21, R18): a hart asked to stop is between two instructions; a pod-remote access has
its response and performs, or traps, first. Its stores perform. A hart of an aborted launch does not go on. The groups of its core that wait
for this point are retired (R370). -/
def execPreemptionPointReached (hid : Nat) (s : State) : Out :=
  match focus s hid with
  | none => .next s
  | some t =>
    let h := t.hart
    let ab := launchAborted t h.who.serial
    if !h.stopReq || h.who.dispatch || hartOver h || midMatrix h || !h.weak.late.isEmpty || remoteOpen h then .next s
    else if ab then .next (settleHart { t with hart := { h with status := .halted, stopReq := false, stopped := false } })
    else if h.stopped || !h.who.resident then .next s
    else
      let u := drainAll t
      .next (retirePending { u with hart := { u.hart with stopped := true } } (coreOf h.who))

/-- CONTEXT_SAVE (R349, R22, R23): once a stopped hart's engine commands have drained, the hub writes its image and its resources
are freed. The hart's record keeps what the image says (log 24); links break (R217). -/
def execContextSave (hid : Nat) (s : State) : Out :=
  match focus s hid with
  | none => .next s
  | some t =>
    let h := t.hart
    if !h.stopped || !h.who.resident || !drained h || midMatrix h || launchAborted t h.who.serial then .next s
    else
      let g := { h with who := { h.who with resident := false }, weak := Weak.calm, pins := none
                        eng := { h.eng with link := h.eng.link.map fun ls => ls.map fun p => (p.1, false) } }
      .next (settleGang (saveImage { t with hart := g }) h.who.serial h.who.gang)

end Sys2Proof.Machine
end

