-- ==== Sys2Proof/Machine/Wakes.lean ====
section
/-!
DEFINITION. The ends of waits: the parks of R20, accesses that wait (R204, R227, R337, R376), the supervisor's answer to
SCALL (R129, R340), a debugger (R130), and words that are no instruction (R101).
-/
namespace Sys2Proof.Machine

open Sys2Proof

/-- WORD_NOT_INSTRUCTION (R101, steps 1 to 3): the hart's word `w` traps with TVAL := the word. -/
def execWordNotInstruction (e : BadWord) (w : BitVec 32) (s : State) : Out :=
  let cause := match e with
    | .illegalOp => causeIllegalOp
    | .illegalFn => causeIllegalFn
    | .mbzSet => causeMbzSet
  .next (takeTrap s (plainTrap cause (w.setWidth 64)))

/-- The instruction at the hart's pc. -/
def instrAt (s : State) : Option Instr :=
  match fetchWord s with
  | .ok w => (decodeWord s.hart.who.dispatch w).toOption
  | _ => none

/-- A hart that holds a core, or a dispatch hart, and has not been stopped: it may go on. -/
def active (h : Hart) : Bool := (h.who.resident || h.who.dispatch) && !h.stopped

/-- The hart goes on; it performs its instruction again. -/
def setRunning (s : State) : State := { s with hart := { s.hart with status := .running } }

/-- A parked hart tests its condition; `f` performs its instruction from the park on. Nothing changes while it does not
hold. Where the instruction at its pc is no such wait any more, it goes on there. -/
def wake (s : State) (hid : Nat) (w : Wait) (f : State → Instr → Option Out) : Out :=
  match focus s hid with
  | none => .next s
  | some t =>
    if !active t.hart || t.hart.status != .waiting w then .next s
    else match (instrAt t).bind (f t) with
      | none => .next (setRunning t)
      | some (.next u) => if u.hart.status == .waiting w && u.hart.who.id == hid then .next s else .next u
      | some r => r

/-- VWAIT_WAKE (R220). -/
def execVwaitWake (hid : Nat) (s : State) : Out :=
  wake s hid .vwait fun t i =>
    match i with
    | .vwait d a b e c => some (execVwait d a b e c t)
    | _ => none

/-- CWAIT_WAKE (R231). -/
def execCwaitWake (hid : Nat) (s : State) : Out :=
  wake s hid .cwait fun t i =>
    match i with
    | .cwait c k => some (cwaitPark t c.toNat k.toNat false)
    | .cwaitX c a => some (cwaitPark t c.toNat (wBits (rx t a) 0 16) ((rx t a).getLsbD 63))
    | _ => none

/-- SBARW_WAKE (R252). -/
def execSbarwWake (hid : Nat) (s : State) : Out :=
  wake s hid .sbarw fun t i =>
    match i with
    | .sbarw d a n => some (execSbarw d a n t)
    | _ => none

/-- BARW_WAKE (R257). -/
def execBarwWake (hid : Nat) (s : State) : Out :=
  wake s hid .barw fun t i =>
    match i with
    | .barw sc => some (barwPark t sc.toNat)
    | .bar sc => some (barPark t sc.toNat)
    | _ => none

/-- LAUNCH_W_WAKE (R30, R135): the captured record is enqueued. -/
def execLaunchWWake (hid : Nat) (s : State) : Out :=
  wake s hid .launchW fun t i =>
    match i with
    | .launchW d a => some (execLaunchW d a t)
    | _ => none

/-- A hart that waits for `w` goes on and performs its access or its dispatch again. -/
def goOn (s : State) (hid : Nat) (w : Wait) : Out :=
  match focus s hid with
  | none => .next s
  | some t => if active t.hart && t.hart.status == .waiting w then .next (setRunning t) else .next s

/-- FIFO_ACCESS_WAKE (R204). While the bank's mode is being changed, the hart goes on in its own turn (R205). -/
def execFifoAccessWake (hid : Nat) (s : State) : Out :=
  match focus s hid with
  | none => .next s
  | some t =>
    match t.hart.status with
    | .waiting (.fifo key) => if (bankAt t key).changing.isSome then .next s else goOn s hid (.fifo key)
    | _ => .next s

/-- DISPATCH_STALL_END (R227, R182). -/
def execDispatchStallEnd (hid : Nat) (s : State) : Out := goOn s hid .stall

/-- MIGRATION_REWALK (R337). -/
def execMigrationRewalk (hid : Nat) (s : State) : Out := goOn s hid .migration

/-- What becomes of a pod-remote access under way; the hart goes on with it. -/
def endRemote (s : State) (hid : Nat) (ok : Bool) (due : Hart → Bool) : Out :=
  match focus s hid with
  | none => .next s
  | some t =>
    if t.hart.status == .waiting .remote && t.hart.remote == none && due t.hart then
      .next (setRunning { t with hart := { t.hart with remote := some ok } })
    else .next s

/-- REMOTE_TIMEOUT (R376): 200 ms have passed since the access was issued; it faults when the hart goes on with it. -/
def execRemoteTimeout (hid : Nat) (s : State) : Out :=
  endRemote s hid false fun h => decide (200000000 ≤ s.time - h.waitFrom)

/-- REMOTE_ACCESS_RESPONSE (R21, R376): the access completes; its response comes over a port that is up, within 200 ms. -/
def execRemoteAccessResponse (hid : Nat) (s : State) : Out :=
  endRemote s hid true fun h => decide (s.time - h.waitFrom < 200000000) && linkUp s

/-! ## SCALL (R340) -/

/-- Every bit set: the answer -1. -/
def minusOne : Word := BitVec.allOnes 64

/-- LOG: the bytes, if they can be read. A page under migration makes the service wait (R337). -/
def scallLog (s : State) : Option (State × Word) :=
  let n := (rx s 5).toNat
  if n = 0 || 256 < n then some (s, minusOne)
  else match loadBytes s { s.hart.path s with remote := some true, port := true } (rx s 4).toNat n with
    | .ok bs =>
      let body := (bs.take 48) ++ List.replicate (48 - bs.length) 0
      let head := bytesOfNat 1 4 ++ [causeSyscall] ++ bytesOfNat 2 0xFFFF ++ bytesOfNat 4 s.hart.who.serial ++ bytesOfNat 8 0
      some (writeEvent s s.hart.who.fn (head ++ body), 0)
    | .trap _ _ => some (s, minusOne)
    | .wait _ => none

/-- PAGEINFO: bits [17:0] of the leaf that maps an address; it waits for a page under migration (R337). -/
def scallPageinfo (s : State) (va : Nat) : Option Word :=
  if 2 ^ 56 ≤ va || 0xFE ≤ va / 2 ^ 48 then some minusOne
  else match lookup s (identSpace s s.hart.who) va with
    | .leaf w _ => some (BitVec.ofNat 64 (wBits w 0 18))
    | .migrating => none
    | _ => some minusOne

/-- The supervisor's service: the state it leaves and its result; none while it waits. -/
def scallService (s : State) (n : Word) : Option (State × Word) :=
  match n.toNat with
  | 0 => some (s, 1)
  | 1 => scallLog s
  | 2 => some (s, (fnAt s s.hart.who.fn).errHead)
  | 3 => (scallPageinfo s (rx s 4).toNat).map fun v => (s, v)
  | _ => some (s, minusOne)

/-- SCALL_ANSWER (R129, R340): the result, and the hart goes on at pc + 4. A saved hart gets it in its image (R349). -/
def execScallAnswer (hid : Nat) (s : State) : Out :=
  match focus s hid with
  | none => .next s
  | some t =>
    match t.hart.status with
    | .inScall d a =>
      (match scallService t (rx t a) with
      | some r =>
        let u := advance (wx r.1 d r.2)
        .next (if u.hart.who.resident || u.hart.who.dispatch then u else resaveImage u)
      | none => .next s)
    | _ => .next s

/-- DEBUGGER_RESUME (R130): the debugger sets TEPC, and the hart goes on there. -/
def execDebuggerResume (hid : Nat) (pc : BitVec 64) (s : State) : Out :=
  match focus s hid with
  | none => .next s
  | some t =>
    if t.hart.status != .atBreak then .next s
    else .next (setRunning { t with hart := { t.hart with
      pc := tepcOf pc, trap := { t.hart.trap with tepc := tepcOf pc } } })

end Sys2Proof.Machine
end

