-- ==== Sys2Proof/Machine/Caches.lean ====
section
/-!
DEFINITION. The quad caches, the die caches and the TLB events (R2, R202, R204, R334, R360, R361, R367): which lines an
instruction and an engine's access touch, what an event counter counts of each, and which lines the caches hold then. What they
hold changes nothing else.
-/
namespace Sys2Proof.Machine

open Sys2Proof

/-! ## Lines -/

/-- The set of a quad cache in which an address falls (R204). -/
def cacheSet (va : Nat) : Nat := natBits va 6 12

/-- The mode of the bank is being changed: accesses to it wait until it has (R205), and meet nothing that it held. -/
def wayChanging (s : State) (key : Nat) : Bool := (bankAt s key).changing.isSome

/-- The banks of a quad that are ways of its cache (R204): none that is retired, or whose mode is being changed (R205). -/
def quadWays (s : State) (q : Nat) : List Nat :=
  (List.range 64).filter fun w =>
    let b := bankAt s (q * 64 + w)
    b.mode == .cache && !b.retired && !wayChanging s (q * 64 + w)

/-- The die whose HBM holds a line (R326). -/
def homeDie (line : Nat) : Nat := line / 2 ^ 31

/-- The lines of a die cache: 96 MiB (R2). -/
def dieLines : Nat := 1572864

/-- The line is in a quad's cache, in a set of it, or, for none, in the die cache that is its home (R202). -/
def CacheLine.at_ (l : CacheLine) (quad : Option Nat) (set line : Nat) : Bool := l.quad == quad && l.set == set && l.line == line

/-- The owner tag of a line in a cache (R361). A way whose mode is being changed gives no hit: it is written back and invalidated
before an access to it goes on (R205). -/
def lineOwner (s : State) (quad : Option Nat) (set line : Nat) : Option Nat :=
  (s.lines.find? fun l => l.at_ quad set line && !(match quad with | some q => wayChanging s (q * 64 + l.way) | none => false)).map (·.own)

/-- A line leaves a cache, from every set of it; where it leaves its die cache, the links on it break (R217). -/
def dropLine (s : State) (quad : Option Nat) (line : Nat) : State :=
  let t := { s with lines := s.lines.filter fun l => !(l.quad == quad && l.line == line) }
  if quad.isNone && s.lines.any (fun l => l.quad.isNone && l.line == line) then breakLine line none t else t

/-- The lines without the last of those that `p` admits, which is the oldest. -/
def dropOldest (p : CacheLine → Bool) (xs : List CacheLine) : List CacheLine :=
  match (xs.filter p).getLast? with
  | some l => xs.erase l
  | none => xs

/-- The oldest line of a die cache that is full (log 119). -/
def dieVictim (s : State) (line : Nat) : Option Nat :=
  let mine (l : CacheLine) : Bool := l.quad.isNone && homeDie l.line == homeDie line
  if dieLines ≤ s.lines.countP mine then ((s.lines.filter mine).getLast?).map (·.line) else none

/-- A line comes to be in the die cache that is its home; where that is full, its oldest line leaves it. -/
def fillDie (s : State) (line own : Nat) : State :=
  let t := match dieVictim s line with | some v => dropLine s none v | none => s
  { t with lines := { quad := none, set := 0, way := 0, line := line, own := own } :: t.lines }

/-- A line comes to be in a set of a quad's cache, in a free way of `ways`, else in that of the set's oldest line. -/
def fillSet (xs : List CacheLine) (q set : Nat) (ways : List Nat) (line own : Nat) : List CacheLine :=
  let mine (l : CacheLine) : Bool := l.quad == some q && l.set == set
  let new (w : Nat) : CacheLine := { quad := some q, set := set, way := w, line := line, own := own }
  match ways.find? (fun w => !xs.any fun l => mine l && l.way == w), (xs.filter mine).getLast? with
  | some w, _ => new w :: xs
  | none, some l => new l.way :: dropOldest mine xs
  | none, none => xs

/-- A line comes to be in a cache, tagged with a domain. A quad's cache without ways takes none (R204). -/
def fillLine (s : State) (quad : Option Nat) (set line own : Nat) : State :=
  let t := { s with lines := s.lines.filter fun l => !l.at_ quad set line }
  match quad with
  | none => fillDie t line own
  | some q => { t with lines := fillSet t.lines q set (quadWays s q) line own }

/-- One level of the caches: a hit counts where the line's tag is the context's domain, a miss where the leaf's is (R361). A quad
cache without ways is passed by (R204). -/
def cacheLevel (s : State) (quad : Option Nat) (set line own hit : Nat) : State × Bool :=
  let me := wBits s.hart.who.ctxown 0 10
  let none_ := match quad with | some q => (quadWays s q).isEmpty | none => false
  match lineOwner s quad set line with
  | some o => (if o = me then evCount hit 1 s else s, true)
  | none =>
    if none_ then (s, false)
    else (fillLine (if own = me then evCount (hit + 1) 1 s else s) quad set line own, false)

/-- The quad whose cache serves a hart; a dispatch hart, on the hub, has none. -/
def cacheQuad (w : Ident) : Option Nat := if w.dispatch then none else some (coreOf w / 4)

/-- The hart touches a line (R360, R367): its quad's cache, and on a miss the line's die cache. A line of the CXL tier has its home
at the hub, in no die cache (R202). -/
def touchLine (s : State) (va : Nat) : State :=
  if !translated va then s
  else match lookup s (identSpace s s.hart.who) va with
    | .leaf w lg =>
      let pa := leafFrame w + va % 2 ^ lg
      if leafDev w || paRemote pa then s
      else
        let q := match cacheQuad s.hart.who with
          | some q => cacheLevel s (some q) (cacheSet va) (pa / 64) (leafOwn w) 0x10
          | none => (s, false)
        if q.2 || !paHbm pa then q.1 else (cacheLevel q.1 none 0 (pa / 64) (leafOwn w) 0x12).1
    | _ => s

/-- The hart translates an address (R334, R360): its core's TLB, on a miss its quad's, and then a walk. -/
def touchPage (s : State) (va : Nat) : State :=
  let sp := identSpace s s.hart.who
  match sp.core with
  | none => s
  | some c =>
    if !translated va || (tlbIn s (.core c) sp.asid va).isSome then s
    else
      let t := evCount 0x20 1 s
      if (tlbIn s (.quad (c / 4)) sp.asid va).isSome then t else evCount 0x21 1 t

/-- The distinct 64-byte lines of spans of virtual addresses. -/
def spanLines (xs : List (Nat × Nat)) : List Nat :=
  (xs.flatMap fun x => if x.2 = 0 then [] else (List.range ((x.1 + x.2 - 1) / 64 - x.1 / 64 + 1)).map (x.1 / 64 + ·)).eraseDups

/-- The lines and pages of spans, once each. -/
def touchSpans (s : State) (xs : List (Nat × Nat)) : State :=
  let ls := spanLines xs
  let ps := (ls.map (· / 1024)).eraseDups
  ls.foldl (fun t l => touchLine t (l * 64)) (ps.foldl (fun t p => touchPage t (p * 65536)) s)

/-- The hart's quad cache, or the home of the line, prefetches the line at an address: only from a page that is valid, readable,
with NP = 0 and DEV = 0 (R338), and never a remote one. It is not counted (R367). -/
def prefetchLine (va : Nat) (quad : Bool) (s : State) : State :=
  if !translated va then s
  else match lookup s (identSpace s s.hart.who) va with
    | .leaf w lg =>
      let pa := leafFrame w + va % 2 ^ lg
      if !leafR w || leafNp w || leafDev w || paRemote pa then s
      else match quad, cacheQuad s.hart.who with
        | true, some q => if (lineOwner s (some q) (cacheSet va) (pa / 64)).isSome then s else fillLine s (some q) (cacheSet va) (pa / 64) (leafOwn w)
        | true, none => s
        | false, _ =>
          if !paHbm pa || (lineOwner s none 0 (pa / 64)).isSome then s else fillLine s none 0 (pa / 64) (leafOwn w)
    | _ => s

/-! ## What an instruction touches -/

/-- The address offset and the bytes of a scalar load or store with one (R112, R115). -/
def offsetAccess : Instr → Option (BitVec 5 × BitVec 11 × Nat)
  | .ldb _ a im => some (a, im, 1)
  | .ldbn _ a im => some (a, im, 1)
  | .stb _ a im => some (a, im, 1)
  | .ldh _ a im => some (a, im, 2)
  | .ldhn _ a im => some (a, im, 2)
  | .sth _ a im => some (a, im, 2)
  | .ldw _ a im => some (a, im, 4)
  | .ldwn _ a im => some (a, im, 4)
  | .stw _ a im => some (a, im, 4)
  | .ldd _ a im => some (a, im, 8)
  | .std _ a im => some (a, im, 8)
  | .ldc _ a im => some (a, im, 8)
  | _ => none

/-- What an instruction of the scalar stream, or one that moves a block, touches when it ends in `t`: addresses and bytes. -/
def scalarSpans (s t : State) (i : Instr) : List (Nat × Nat) :=
  let block (a : BitVec 5) (n : Nat) : List (Nat × Nat) := [((rx s a).toNat, n)]
  let levels (h : BitVec 4) : List (Nat × Nat) :=
    let g := rh t h.toNat
    if g.isA kindGrid then [(g.lvt, 8 * g.gridL)] else []
  match offsetAccess i with
  | some (a, im, n) => [(scalarAddr s a im n, n)]
  | none =>
    match i with
    | .amo _ a _ e _ _ _ _ => block a (if e = 1#1 then 8 else 4)
    | .vwait _ a _ e _ => block a (if e = 1#1 then 8 else 4)
    | .hld h a => block a 64 ++ levels h
    | .hset h n _ => if n = 0#4 then levels h else []
    | .hst _ a => block a 64
    | .launch _ a => block a 64
    | .launchW _ a => block a 64
    | .strmx _ _ a _ => block a 64
    | .copyBlock _ a => block a 64
    | .qcopyBlock _ a => block a 64
    | .coll _ a _ _ _ _ => block a 64
    | .encf _ a _ => block a 128
    | .relay _ _ _ b _ => if t.relays.length = s.relays.length + 1 && t.relays.head?.any (·.failed.isNone) then block b 64 else []
    | .wsave d a b => block b (8 * (winRange d a).length)
    | .wload d a b => block b (8 * (winRange d a).length)
    | .wspill a b => let w := winOp s a 1; block b (16 + frameBytes (wEw w.desc) (frameCount w))
    | .wfill d b => let w := winOp t d 0; block b (16 + frameBytes (wEw w.desc) (frameCount w))
    | _ => []

/-- The instruction reads a block of parameters, a descriptor or a record before it tests what that says. -/
def readsBlock (i : Instr) : Bool :=
  match i with
  | .hld _ _ => true
  | .launch _ _ => true
  | .launchW _ _ => true
  | .strmx _ _ _ _ => true
  | .copyBlock _ _ => true
  | .qcopyBlock _ _ => true
  | .coll _ _ _ _ _ _ => true
  | .encf _ _ _ => true
  | _ => false

/-- A cause of a memory fault: of an access that is not made, or DATA_UE. -/
def accessCause (c : Nat) : Bool := decide (0x40 ≤ c) && decide (c ≤ 0x4C) || c == causeDataUe.toNat

/-- Of spans accessed in double words one after the other, what comes before the one at `x`, which faults; with it where `ue` says that
it has been accessed. None where no span holds `x`. -/
def spansBefore (x : Nat) (ue : Bool) : List (Nat × Nat) → Option (List (Nat × Nat))
  | [] => none
  | p :: t =>
    let d := addr64 ((x : Int) - p.1)
    if d < p.2 then some [(p.1, d / 8 * 8 + if ue then 8 else 0)] else (spansBefore x ue t).map (p :: ·)

/-- What an instruction of `scalarSpans` that traps in `t` has touched: the double words before the one that faults, or all of a block
that it has read and then refused. -/
def trapSpans (s t : State) (i : Instr) : List (Nat × Nat) :=
  let c := wBits t.hart.trap.tcause 0 8
  let xs := match i with
    | .hld _ a => [((rx s a).toNat, 64)]
    | _ => scalarSpans s t i
  let all := if readsBlock i then xs else []
  if c = causeHandleBad.toNat || c = causeParamBad.toNat || c = causeLaunchBad.toNat then all
  else if accessCause c then (spansBefore t.hart.trap.tval.toNat (c == causeDataUe.toNat) xs).getD all
  else []

/-- The element, and its page's scale byte where there is one, that an access to a point of a tensor touches. -/
def pointSpans (s : State) (p : Path) (h : Handle) (pt : Point) (k : AccKind) : List (Nat × Nat) :=
  if !h.inside pt then []
  else match (redirect s p h pt).bind fun l => findPoint s p h l pt k with
    | .ok x => (x.va, elemBytes h.ebits) :: (x.scaleWr 0).map fun w => (w.va, 1)
    | _ => []

/-- An instruction that started in `s` has completed in `t`. -/
def completedIn (s t : State) : Bool := t.hart.trap == s.hart.trap && t.hart.pc == s.hart.pc + 4

/-- The elements of a vector instruction over data window `w` that have performed when it leaves off in `t`. -/
def doneElems (s t : State) (w : WinOp) (un : Bool) : List Nat :=
  if stageOff s then [] else performedElems s t w un (if completedIn s t then none else some t.hart.vec.vstart)

/-- The points of a grid instruction that have performed. -/
def donePoints (s t : State) (n : Nat) : List Nat :=
  let left := if completedIn s t then [] else pendingElems t n fun _ => true
  (pendingElems s n fun _ => true).filter fun p => !left.contains p

/-- The parameters that GLD reads for a point. -/
def paramSpans (s : State) (h : Handle) (wc : WinOp) (p : Nat) : List (Nat × Nat) :=
  let n := (gridFmt h).width / 8
  (List.range h.gridL).flatMap fun l => (gridCorners h (gridCoords s h wc p).1 l).map fun c => (h.base + c.entry * n, h.gridF * n)

/-- What an instruction of the vector stream that started in `s` touches, of the elements that `el` gives for its data window. -/
def elementSpans (s t : State) (i : Instr) (el : WinOp → Bool → List Nat) (pts : Nat → List Nat) : List (Nat × Nat) :=
  let data (w : BitVec 6) (un : Bool) (va : Nat → Nat) : List (Nat × Nat) :=
    let d := winOp s w 0
    (el d un).map fun k => (va k, elemBytes (wEw d.desc))
  let unit (a : BitVec 5) (w : BitVec 6) : List (Nat × Nat) :=
    data w false fun k => (unitAddr (rx s a) (wEw (winOp s w 0).desc) k).1
  let index (d a : BitVec 6) (b : BitVec 5) (un : Bool) : List (Nat × Nat) := data d un (gathAddr s (rx s b) (winOp s a 1))
  let tile (h : BitVec 4) (a b : BitVec 5) (w : BitVec 6) (k : AccKind) : List (Nat × Nat) :=
    let d := winOp s w 0
    (el d false).flatMap fun j => pointSpans s (s.hart.path s) (rh s h.toNat) (tilePoint (coords (rx s a) (rx s b)) d j) k
  match i with
  | .ldv a w => unit a w
  | .stv a w => unit a w
  | .lds a b w => data w false (strideAddr (rx s a) (rx s b))
  | .sts a b w => data w false (strideAddr (rx s a) (rx s b))
  | .ldt h a b w => tile h a b w .load
  | .stt h a b w => tile h a b w .store
  | .gath d a b => index d a b true
  | .scat d a b => index d a b true
  | .glink d a b => index d a b false
  | .scond d a b =>
    let wd := winOp s d 0
    ((el wd false).filter fun k => (rm t 0).getLsbD k).map fun k => (gathAddr s (rx s b) (winOp s a 1) k, elemBytes (wEw wd.desc))
  | .vamo d a b _ _ _ => index d a b true
  | .vamoOrd d a b _ _ _ => index d a b false
  | .gld g d w => (pts (gridPoints s (winOp s d 1))).flatMap fun p => paramSpans s (rh s g.toNat) (winOp s w 2) p
  | _ => []

/-- What an instruction of the vector stream has touched that started in `s` and left off in `t`. -/
def vectorSpans (s t : State) (i : Instr) : List (Nat × Nat) := elementSpans s t i (doneElems s t) (donePoints s t)

/-! ## Counting -/

/-- A write of an event counter, which no event code counts (R365). -/
def writesCounter (i : Instr) : Bool :=
  match i with
  | .csrw _ n => csrIsEv n
  | .csrs _ n => csrIsEv n
  | .csrc _ n => csrIsEv n
  | _ => false

/-- The events of an instruction that started in `s` and left `t`, its fetch's translation among them. One that waits has none. -/
def touched (s t : State) (i : Instr) : State :=
  let waits := match t.hart.status with | .waiting _ => true | _ => false
  if waits || writesCounter i then t
  else
    let u := if s.hart.icache.any (·.1 == s.hart.pc.toNat) then t else touchPage t s.hart.pc.toNat
    touchSpans u ((if t.hart.trap == s.hart.trap then scalarSpans s t i else trapSpans s t i) ++ vectorSpans s t i)

/-- The outcome of an instruction with those events. -/
def withEvents (s : State) (i : Instr) (o : Out) : Out :=
  match o with
  | .next t => .next (touched s t i)
  | r => r

/-! ## What an engine's access touches -/

/-- The places of a list of writes. -/
def writeSpans (r : MRes (List Wr)) : List (Nat × Nat) :=
  match r with
  | .ok ws => ws.map fun w => (w.va, 1)
  | _ => []

/-- What item j of a copy reads. -/
def copySources (s : State) (p : Path) (k : Cmd) (per j : Nat) : List (Nat × Nat) :=
  let v := k.blk
  match k.op with
  | .copy _ _ _ _ _ => pointSpans s p k.hs (rasterPoint k.hs j) .load
  | .copyBlock _ _ => [((copyBytePair v (16 * j)).1, 16)]
  | .qcopy _ _ _ _ _ _ =>
    let b := 4096 / per
    (List.range b).flatMap fun n => pointSpans s p k.hs (rasterPoint k.hs (j * b + n)) .load
  | .qcopyBlock _ _ =>
    let b := blockField v 30 8
    match tyOfCode (BitVec.ofNat 8 (blockField v 28 8)) with
    | some t => [(blockField v 0 64 + j * b * (t.width / 8), b * (t.width / 8))]
    | none => []
  | _ => []

/-- A step that led from `s` to `t` met a fault of an engine of the hart, which has its errata entry (R228). -/
def faultedIn (s t : State) : Bool := (fnAt s s.hart.who.fn).errHead != (fnAt t s.hart.who.fn).errHead

/-- Of spans that an engine reads in order, those that it has accessed when one faults. -/
def readsMade (s : State) (p : Path) : List (Nat × Nat) → List (Nat × Nat)
  | [] => []
  | x :: t =>
    match loadBytes s p x.1 x.2 with
    | .ok _ => x :: readsMade s p t
    | .trap c _ => if c = causeDataUe then [x] else []
    | .wait _ => []

/-- What a copy's next unit touches: what its items read and write, or, of a unit that faults, what it has read before the fault, since
it writes nothing (log 6). With it, whether the unit is written. -/
def unitSpans (s : State) (p : Path) (k : Cmd) (pl : Plan) : List (Nat × Nat) × Bool :=
  let src (j : Nat) : List (Nat × Nat) := copySources s p k pl.per j
  let good (j : Nat) : Bool := match pl.item j with | .ok _ => true | _ => false
  let js := unitItems k pl
  match (gatherWr pl.item js).bind fun ws => engineWrite s p ws (gatherWr pl.item (List.range pl.total)) with
  | .ok _ => (js.flatMap fun j => src j ++ writeSpans (pl.item j), true)
  | _ => ((js.takeWhile good).flatMap src ++ readsMade s p (((js.dropWhile good).take 1).flatMap src), false)

/-- What a copy touches in at most `n` units, from the next one on, up to one that faults. -/
def copySpans (s : State) (p : Path) (pl : Plan) : Nat → Cmd → List (Nat × Nat)
  | 0, _ => []
  | n + 1, k =>
    let x := unitSpans s p k pl
    if pl.total ≤ k.units * pl.per then [] else if x.2 then x.1 ++ copySpans s p pl n { k with units := k.units + 1 } else x.1

/-- The same, once its plan is made. -/
def planSpans (s : State) (k : Cmd) (n : Nat) : List (Nat × Nat) :=
  let p := s.hart.enginePath s
  match copyPlan s p k with
  | .ok pl => copySpans s p pl n k
  | _ => []

/-- Rows of a plane. -/
def rowsSpans (base pitch len r0 n : Nat) : List (Nat × Nat) := (List.range n).map fun j => (base + (r0 + j) * pitch, len)

/-- What ENCF reads for its next band, once that barrier's count, and no ERR of it, lets it read. -/
def bandSpans (s : State) (k : Cmd) : List (Nat × Nat) :=
  let v := encfBlock k
  let len := encfWidth v * encfSample v
  let n := min 64 (encfHeight v - 64 * k.units)
  if encfSbv v && decide ((sbGet s s.hart.who.serial (natBits v 16 6)).1.toNat < blockField v 36 32 + k.units + 1) then []
  else readsMade s (s.hart.enginePath s) (rowsSpans (blockField v 16 64) (encfPitch v) len (64 * k.units) n
    ++ rowsSpans (blockField v 24 64) (encfPitch v) len (32 * k.units) (n / 2))

/-- What ENCF touches at its end: the reference it reads, and, unless it faults, RECON, OUT and STAT. -/
def encfSpans (s t : State) (k : Cmd) (e : BitVec 4) : List (Nat × Nat) :=
  let v := encfBlock k
  let len := encfWidth v * encfSample v
  let rows := encfHeight v + encfHeight v / 2
  let n := match loadNat t (t.hart.enginePath s) (blockField v 72 64) 4 .fifoOnly with | .ok x => x | _ => 0
  (if encfInter v then readsMade s (s.hart.enginePath s) (rowsSpans (blockField v 40 64) (encfPitch v) len 0 rows) else [])
  ++ match encfEnd s k e with
    | .ok _ => rowsSpans (blockField v 48 64) (encfPitch v) len 0 rows ++ [(blockField v 56 64, n), (blockField v 72 64, 8)]
    | _ => []

/-- What a COLL command touches when its result is delivered: its source, and, if that delivery is what leaves `t`, its destination. -/
def collSpans (s t : State) (k : Cmd) : List (Nat × Nat) :=
  let v := k.blk
  match collForm k.op with
  | none => []
  | some (kind, _, ty) =>
    let nb := ty.width / 8
    let out := if kind = 1 then collCount v / collNmod v else if kind = 2 then collNmod v * collCount v else collCount v
    (if kind = 3 && collRank v ≠ collRoot v then []
      else readsMade s (s.hart.enginePath s) ((List.range (collCount v)).map fun j => (collSrc v + j * nb, nb)))
    ++ if faultedIn s t then [] else [(collDst v, out * nb)]

/-- What the delta of a point reads (R209). -/
def deltaSpans (s : State) (p : Path) (h : Handle) (pt : Point) : List (Nat × Nat) :=
  let d0 := pt.d0.toNat
  let d1 := pt.d1.toNat
  let at_ := h.base + pt.d2.toNat * h.str2 + pt.d3.toNat * h.str3 + 8 * (d1 / 32 * h.ld + d0 / 32)
  match rawNat s p at_ 8 with
  | .ok e =>
    if e = 0 || e / 2 ^ 56 ≠ 0 then [(at_, 8)]
    else match rawNat s p e 2 with
      | .ok n => if 1024 < n then [(at_, 8), (e, 2)] else [(at_, 8), (e, 2 + 2 * n + ceilDiv (n * h.ebits) 8)]
      | _ => [(at_, 8)]
  | _ => []

/-- What the next row of a fetch reads, up to a cell that faults. -/
def fetchSpans (s : State) (f : Fetch) : List (Nat × Nat) :=
  let p := s.hart.enginePath s
  let good (i : Nat) : Bool := match fetchElem s p f (fetchTy f) f.row i 0 with | .ok _ => true | _ => false
  if f.faulted then []
  else ((List.range (innerOf f.win)).takeWhile good).flatMap fun i =>
    let pt := fetchPoint f f.row i
    if !f.h.inside pt then []
    else pointSpans s p f.h pt .load
      ++ (if f.scale = 2 then pointSpans s p f.hs { pt with d0 := ((pt.d0.toNat / f.hs.blk : Nat) : Int) } .load else [])
      ++ (if f.delta then deltaSpans s p f.hd pt else [])

/-- What a refill has read that left the stream with more points than before, or that met a fault. -/
def refillSpans (s t : State) (w : Nat) : List (Nat × Nat) :=
  match boundTo s w, boundTo t w, modeTy ((boundTo s w).elim 0 (·.vmode)) with
  | some a, some b, some ty =>
    let p := s.hart.enginePath s
    let good (j : Nat) : Bool := match refillPoint s p a ty j with | .ok _ => true | _ => false
    let js := if b.faulted && !a.faulted then ((List.range (a.points - a.pos)).map (a.pos + ·)).takeWhile good
      else (List.range (b.pos - a.pos)).map (a.pos + ·)
    js.flatMap fun j => pointSpans s p a.h (a.point j) .load
  | _, _, _ => []

/-- What a conversion touches for a sheet that becomes MOVING, or NEW, in `t`: its byte of the map, and its points. Of one that faults
it has read the old points up to the fault. -/
def sheetSpans (s t : State) (r : Relay) (state : Nat) : List (Nat × Nat) :=
  let p := s.hart.enginePath s
  match r.sheets.findIdx? (· == state) with
  | none => []
  | some j =>
    let old : Layout := { tag := r.h.otag, base := r.h.base, ld := r.oldLd }
    let pts := (sheetPoints r.h j).map fun pt => (pointVa s p r.h old pt, elemBytes r.h.ebits)
    let moved := if state = 0 then [] else pts ++ writeSpans (sheetWr s p r j)
    match t.relays.find? (·.id == r.id) with
    | some u => if u.sheets.getD j 0 = state + 1 then (r.h.smap + 64 + j / 4, 1) :: moved else if state = 0 then [] else readsMade s p pts
    | none => []

/-- A step of the module by `f`, with the lines and pages that its accesses for a hart touch: `spans` says which, from the states
before and after it as that hart sees them. -/
def touching (hid : Nat) (spans : State → State → List (Nat × Nat)) (f : State → Out) (s : State) : Out :=
  match f s with
  | .next t =>
    if t = s then .next t
    else match focus s hid, focus t hid with
      | some a, some b => .next (touchSpans b (spans a b))
      | _, _ => .next t
  | r => r

/-- What a command of the hart touches. -/
def cmdSpans (c : Nat) (f : State → State → Cmd → List (Nat × Nat)) (s t : State) : List (Nat × Nat) :=
  match cmdAt s c with
  | some k => f s t k
  | none => []

/-- COPY_UNIT_ARRIVAL with what it touches. -/
def stepUnit (hid c : Nat) : State → Out := touching hid (cmdSpans c fun s _ k => planSpans s k 1) (execCopyUnitArrival hid c)

/-- ENGINE_COMMAND_END with what it touches. -/
def stepEnd (hid c : Nat) : State → Out :=
  touching hid (cmdSpans c fun s t k =>
    match k.op with
    | .encf _ _ e => encfSpans s t k e
    | _ => if isCopy k then planSpans s k (copyFuel k) else [])
    (execEngineCommandEnd hid c)

/-- ENCF_BAND_READ with what it touches. -/
def stepBand (hid c : Nat) : State → Out := touching hid (cmdSpans c fun s _ k => bandSpans s k) (execEncfBandRead hid c)

/-- COLL_DELIVERY with what it touches. -/
def stepDelivery (hid c : Nat) (parts : List CollPart) : State → Out :=
  touching hid (cmdSpans c fun s t k => collSpans s t k) (execCollDelivery hid c parts)

/-- MFETCH_ROW_VALID with what it touches. -/
def stepRow (hid f : Nat) : State → Out :=
  touching hid (fun s _ => match fetchAt s f with | some k => fetchSpans s k | none => []) (execMfetchRowValid hid f)

/-- STREAM_REFILL with what it touches. -/
def stepRefill (hid w : Nat) : State → Out := touching hid (fun s t => refillSpans s t w) (execStreamRefill hid w)

/-- BANK_ADD with what it touches. -/
def stepAdd (hid n : Nat) : State → Out :=
  touching hid (fun s _ =>
    match s.hart.eng.adds.find? (·.id == n) with
    | some x => [(x.va, match tyOfCode x.ty with | some ty => ty.width / 8 | none => 0)]
    | none => []) (execBankAdd hid n)

/-- A step of a conversion on its next sheet of a state, for the hart that has issued it. -/
def stepSheet (r state : Nat) (f : State → Out) (s : State) : Out :=
  match s.relays.find? (·.id == r) with
  | some x => touching x.hid (fun a b => sheetSpans a b x state) f s
  | none => f s

/-- SHEET_MOVING and SHEET_NEW with what they touch. -/
def stepMoving (r : Nat) : State → Out := stepSheet r 0 (execSheetMoving r)
def stepNew (r : Nat) : State → Out := stepSheet r 1 (execSheetNew r)

/-- The wake of a VWAIT or a LAUNCH.W, whose accesses are made then. -/
def stepVwait (hid : Nat) : State → Out :=
  touching hid (fun s t => match instrAt s with | some (.vwait d a b e c) => scalarSpans s t (.vwait d a b e c) | _ => [])
    (execVwaitWake hid)
def stepLaunchW (hid : Nat) : State → Out :=
  touching hid (fun s t => match instrAt s with | some (.launchW d a) => scalarSpans s t (.launchW d a) | _ => [])
    (execLaunchWWake hid)

end Sys2Proof.Machine
end

