-- ==== Sys2Proof/Machine/Distributor.lean ====
section
/-!
DEFINITION. The distributor: candidates and their order (R24, R25, R27, R29, R317, R318), where a gang fits (R5, R6, R8,
R11, R12, R28, R311, R315, R350, R353), starting and resuming a gang (R13, R14, R316, R350), and pre-emption by the
scheduler (R26, R318 to R321, R354 to R356).
-/
namespace Sys2Proof.Machine

open Sys2Proof

/-! ## Turns (R354) -/

/-- The functions of a partition, ascending. -/
def partFns (s : State) (n : Nat) : List Nat := (List.range 65).filter fun f => fnPart s f == some n

/-- The functions' turn in a partition, while one has begun. -/
def turnAt (s : State) (n : Nat) : Option Turn := (s.sched.turns.find? (·.1 == n)).map (·.2)

def setTurn (s : State) (n : Nat) (t : Turn) : State :=
  { s with sched := { s.sched with turns := (n, t) :: s.sched.turns.filter fun p => p.1 ≠ n } }

/-- Gangs of function f may be placed now: its partition's only function, or the one whose turn it is (R353, R354). -/
def turnOk (s : State) (f : Nat) : Bool :=
  match fnPart s f with
  | none => true
  | some n =>
    match partFns s n with
    | [_] => true
    | _ =>
      match turnAt s n with
      | some t => t.fn == f && t.into.isNone
      | none => false

/-- The dies on which gangs of function f may be placed now. -/
def placeDies (s : State) (f : Nat) : Nat := if turnOk s f then fnDies s f else 0

/-! ## Candidates -/

/-- A gang that waits for residency: the lowest unstarted one of its launch, or one on the resume queue. -/
structure Cand where
  l      : Launch
  gang   : Nat
  resume : Bool
  e      : Nat
deriving DecidableEq, Repr

/-- Steps of 10 ms. -/
def agingSteps (ns : Nat) : Nat := ns / 10000000

/-- Every raise that is due has been made (R317). -/
def ageAll (s : State) : State :=
  { s with sched := { s.sched with launches := s.sched.launches.map fun l =>
      { l with
        aged := agingSteps (s.time - max l.enqAt l.lastAt)
        gangs := l.gangs.map fun g => if g.status == .preempted then { g with aged := agingSteps (s.time - g.preAt) } else g } } }

/-- Every earlier launch of the session has written its completion word (R29). -/
def sessionTurn (s : State) (l : Launch) : Bool :=
  !l.desc.sessv || (match s.sched.launches.find? fun x => x.desc.sessv && x.desc.session == l.desc.session with
    | some x => x.serial == l.serial
    | none => true)

/-- The launch has an unstarted gang that may start (R24, R29). -/
def mayStart (s : State) (l : Launch) : Bool := !l.aborted && decide (l.started < l.desc.count) && sessionTurn s l

/-- The lowest unstarted gang of a launch, with its effective class (R317). -/
def startCand (l : Launch) : Cand := { l := l, gang := l.started, resume := false, e := min 7 (l.desc.cls + l.aged) }

/-- Unstarted candidates, in enqueue order. -/
def startCands (s : State) : List Cand := (s.sched.launches.filter (mayStart s)).map startCand

/-- Every unstarted gang that waits, one that R29 holds back too. -/
def waitingStarts (s : State) : List Cand :=
  (s.sched.launches.filter fun l => !l.aborted && decide (l.started < l.desc.count)).map startCand

/-- The greatest of a list of numbers and `n`. -/
def maxOf (n : Nat) (xs : List Nat) : Nat := xs.foldl max n

/-- The effective class of the gangs of a launch on the resume queue (R317). -/
def resumeClass (s : State) (l : Launch) : Nat :=
  let own := (l.gangs.filter fun g => g.status == .preempted).map fun g => min 7 (l.desc.cls + g.aged)
  let others := ((waitingStarts s).filter fun c => c.l.fn == l.fn && decide (c.l.desc.cls ≤ l.desc.cls)).map (·.e)
  maxOf 0 (own ++ others)

/-- The lowest pre-empted gang of a launch: no higher one resumes before it (R25). -/
def lowestResume (l : Launch) : Option Nat :=
  ((l.gangs.filter fun g => g.status == .preempted).map (·.index)).foldl (fun b g =>
    match b with | none => some g | some k => some (min k g)) none

/-- Candidates on the resume queue. -/
def resumeCands (s : State) : List Cand :=
  (s.sched.launches.filter fun l => !l.aborted).filterMap fun l =>
    (lowestResume l).map fun g => { l := l, gang := g, resume := true, e := resumeClass s l }

/-- A launch's place in the order of enqueueing. -/
def enqOrder (s : State) (l : Launch) : Nat := (s.sched.launches.findIdx? (·.serial == l.serial)).getD 0

/-- DEADLINE with 0 counted as last. -/
def deadlineKey (l : Launch) : Nat := if l.desc.deadline = 0 then 2 ^ 64 else l.desc.deadline

/-- The place of a candidate in the order of R318: the lexicographically least comes first. -/
def candKey (s : State) (c : Cand) : List Nat :=
  (7 - c.e) ::
  (if c.resume then [0, deadlineKey c.l, c.l.serial, c.gang]
   else if c.l.desc.deadline ≠ 0 then [1, c.l.desc.deadline, enqOrder s c.l]
   else [2, (c.l.queue + 64 - (tabGet (0, 0) s.sched.rr c.l.fn).1 % 64) % 64, enqOrder s c.l])

/-- Lexicographic order. -/
def lexLt : List Nat → List Nat → Bool
  | a :: t, b :: u => decide (a < b) || (a == b && lexLt t u)
  | [], _ :: _ => true
  | _, [] => false

/-- Insertion into a list sorted by keys, after equal ones. -/
def insertBy {α : Type} (key : α → List Nat) (x : α) : List α → List α
  | [] => [x]
  | y :: t => if lexLt (key x) (key y) then x :: y :: t else y :: insertBy key x t

def sortBy {α : Type} (key : α → List Nat) (xs : List α) : List α := xs.foldr (insertBy key) []

/-- The candidates in the order of R318: those of functions whose turn it is, on dies they have (R353 to R356). -/
def candidates (s : State) : List Cand :=
  sortBy (candKey s) ((resumeCands s ++ startCands s).filter fun c => placeDies s c.l.fn != 0)

/-- The candidate is the first of its function: R318 compares gangs of one function only (R356). -/
def leads (s : State) (c : Cand) : Bool := (candidates s).find? (fun x => x.l.fn == c.l.fn) == some c

/-! ## Where a gang fits -/

/-- A core and a hart slot of it. -/
abbrev Place := Nat × Nat

/-- The hart occupies a slot of a core; `ex` says which gangs are left out. -/
def occupies (ex : Nat → Nat → Bool) (h : Hart) : Bool :=
  !h.who.dispatch && h.who.resident && h.status != .absent && !ex h.who.serial h.who.gang

/-- Free slots of a core for harts of a shape (R5, R6, R315). -/
def freeSlots (s : State) (ex : Nat → Nat → Bool) (shape c : Nat) : List Place :=
  let on := (allHarts s).filter fun h => occupies ex h && coreOf h.who == c
  if !coreServes s shape c then []
  else
    let all := (List.range (2 ^ shape)).map fun j => (c, j)
    match on with
    | [] => all
    | h :: _ => if h.who.shape = shape then all.filter fun p => !on.any (fun h => h.who.slot == p.2) else []

/-- The banks a gang needs in a quad are free, or, for a gang that holds banks, held by it (R311, R315). Pre-emption of a
gang frees none. -/
def quadBanksOk (s : State) (c : Cand) (q : Nat) : Bool :=
  (List.range c.l.desc.sbNum).all fun j =>
    let b := bankAt s (q * 64 + c.l.desc.sbFirst + j)
    if c.resume then b.holder == some (c.l.serial, c.gang)
    else (b.mode == .scratch || b.mode == .scratchz) && b.session.isNone && !b.retired && b.changing.isNone && b.holder.isNone

/-- The slots of an instance that a candidate may use (R28, R353). -/
def poolOf (s : State) (ex : Nat → Nat → Bool) (c : Cand) (inst : Nat) : List Place :=
  let quads := if c.l.desc.sessv then some (sessionQuads s c.l.desc.session) else none
  (instCores c.l.desc.scope inst).flatMap fun k =>
    if natBit (placeDies s c.l.fn) (k / 64) && (match quads with | some qs => qs.contains (k / 4) | none => true)
      && quadBanksOk s c (k / 4) then freeSlots s ex c.l.desc.shape k
    else []

/-- The harts of a gang that go on, by rank. -/
def gangRanks (s : State) (c : Cand) : List Hart :=
  sortBy (fun h => [h.who.rank]) ((gangHarts s c.l.serial c.gang).filter fun h => !hartOver h)

/-- Hart h may resume at a place: a core of the degraded state it entered on (R8, R350); after a remap, its own core (R7). -/
def placeSuits (s : State) (h : Hart) (p : Place) : Bool :=
  (coreAt s p.1).degraded == h.who.degr
  && (!h.sameCore || p.1 == coreOf h.who || (coreAt s (coreOf h.who)).degraded != h.who.degr || (coreAt s (coreOf h.who)).out)

/-- A place for each hart, the first that suits it. -/
def assign (s : State) : List Hart → List Place → Option (List Place)
  | [], _ => some []
  | h :: t, ps =>
    match ps.find? (placeSuits s h) with
    | none => none
    | some p => (assign s t (ps.filter (· ≠ p))).map (p :: ·)

/-- An instance that R318 keeps free for the first candidate, against one of its function of equal or lower class. -/
def keptFree (s : State) (c : Cand) (k : Nat) : Bool :=
  s.sched.blocked.any fun x =>
    match (candidates s).find? fun b => b.l.serial == x.1 && b.gang == x.2.1 with
    | none => false
    | some b => b.l.fn == c.l.fn && !(c.l.serial == x.1 && c.gang == x.2.1) && decide (c.e ≤ b.e)
        && (instCores b.l.desc.scope x.2.2).contains k

/-- The instances a candidate may take: a gang that holds banks has one (R311). -/
def instsOf (s : State) (c : Cand) : List Nat :=
  match c.resume && c.l.desc.sbNum != 0, gangAt s c.l.serial c.gang with
  | true, some g => [g.inst]
  | _, _ => List.range (instCount c.l.desc.scope)

/-- Where a candidate fits in an instance, by the first places that serve. -/
def fitIn (s : State) (ex : Nat → Nat → Bool) (c : Cand) (inst : Nat) : Option (List Place) :=
  let pool := (poolOf s ex c inst).filter fun p => !keptFree s c p.1
  if c.resume then assign s (gangRanks s c) pool
  else if c.l.desc.gsize ≤ pool.length then some (pool.take c.l.desc.gsize) else none

def noGang : Nat → Nat → Bool := fun _ _ => false

/-- The first instance in which a candidate fits, and where. -/
def fitAny (s : State) (ex : Nat → Nat → Bool) (c : Cand) : Option (Nat × List Place) :=
  (instsOf s c).findSome? fun i => (fitIn s ex c i).map fun ps => (i, ps)

/-- The places are in strictly ascending order of core and slot (R11). -/
def placesRise : List Place → Bool
  | a :: b :: t => lexLt [a.1, a.2] [b.1, b.2] && placesRise (b :: t)
  | _ => true

/-- Another choice of places that the distributor may make: free ones of one instance, by rank. -/
def placesOk (s : State) (c : Cand) (inst : Nat) (ps : List Place) : Bool :=
  let pool := (poolOf s noGang c inst).filter fun p => !keptFree s c p.1
  (instsOf s c).contains inst && ps.all pool.contains
  && (if c.resume then
        ps.eraseDups.length == ps.length && ps.length == (gangRanks s c).length
        && ((gangRanks s c).zip ps).all fun x => placeSuits s x.1 x.2
      else ps.length == c.l.desc.gsize && placesRise ps)

/-! ## Starting and resuming a gang -/

/-- The banks a gang holds in the quads it occupies (R311). -/
def holdBanks (s : State) (c : Cand) (ps : List Place) : State :=
  ((ps.map fun p => p.1 / 4).eraseDups).foldl (fun t q =>
    (List.range c.l.desc.sbNum).foldl (fun u j =>
      let k := q * 64 + c.l.desc.sbFirst + j
      setBank u k { bankAt u k with holder := some (c.l.serial, c.gang) }) t) s

/-- A hart's identity with a placement (R14). -/
def placedAt (w : Ident) (p : Place) : Ident :=
  { w with die := p.1 / 64, quad := p.1 / 4 % 16, core := p.1 % 4, slot := p.2, resident := true }

/-- A hart at its first instruction (R13). Its fetch and its constant path may hold what its launch's harts have taken since
the launch started (R276). -/
def entryHart (s : State) (c : Cand) (rank : Nat) (p : Place) : Hart :=
  let r := c.l.desc
  let w : Ident :=
    { Ident.zero with
      id := s.nextId + rank, queue := c.l.queue, fn := c.l.fn, serial := c.l.serial, gang := c.gang, rank := rank
      gcount := r.count, gsize := r.gsize, gscope := r.scope, cls := r.cls, sessv := r.sessv, session := r.session
      podid := r.podid, sbFirst := r.sbFirst, sbNum := r.sbNum, shape := r.shape, degr := (coreAt s p.1).degraded
      grows := r.rows, accb := r.accb, troot := c.l.troot, ctxown := c.l.ctxown }
  { Hart.blank with
    who := placedAt w p, status := .running, pc := BitVec.ofNat 64 r.entry
    x := Hart.blank.x.set 1 (BitVec.ofNat 64 r.args), ccache := c.l.ccache, icache := c.l.icache }

/-- The round robin of function f after a placement of a launch of queue q (R318, R356). -/
def roundRobin (s : State) (f q : Nat) : State :=
  let at_ := tabGet (0, 0) s.sched.rr f
  let used := (if at_.1 = q then at_.2 else 0) + 1
  let v := if qWeight (queueAt s q) ≤ used then ((q + 1) % 64, 0) else (q, used)
  { s with sched := { s.sched with rr := tabSet (0, 0) s.sched.rr f v } }

/-! ## Dusk-queue work (R322) -/

/-- Places of a gang or of Dusk-queue work of one shape against Dusk-queue work: a slot in common, or a core in another shape. -/
def duskMeets (shape : Nat) (ps : List Place) (j : DuskJob) : Bool :=
  ps.any fun p => j.places.any fun q => q.1 == p.1 && (q.2 == p.2 || j.shape != shape)

/-- Dusk-queue work is pre-empted at once where a gang of users needs its residency. -/
def yieldDusk (s : State) (shape : Nat) (ps : List Place) : State :=
  { s with sched := { s.sched with dusk := s.sched.dusk.map fun j => if duskMeets shape ps j then { j with places := [] } else j } }

/-- What a placement ends: the reservation of R318 for it, and its time unplaced. -/
def notePlaced (s : State) (c : Cand) : State :=
  { s with sched := { s.sched with
    blocked := s.sched.blocked.filter fun x => !(x.1 == c.l.serial && x.2.1 == c.gang)
    unplaced := s.sched.unplaced.filter fun p => p.1 ≠ (c.l.serial, c.gang) } }

/-- GANG_START (R11, R13, R24): every hart of the lowest unstarted gang at its place. -/
def startGang (s : State) (c : Cand) (inst : Nat) (ps : List Place) : State :=
  let g : Gang := { index := c.gang, status := .placed, inst := inst, placeAt := s.time, preAt := 0, aged := 0, stop := false }
  let s1 := { s with others := s.others ++ ps.mapIdx (entryHart s c), nextId := s.nextId + ps.length }
  let s2 := updLaunch s1 c.l.serial fun l =>
    { l with gangs := l.gangs ++ [g], started := l.started + 1, lastAt := s.time, aged := 0 }
  let s3 := yieldDusk (holdBanks (notePlaced s2 c) c ps) c.l.desc.shape ps
  if c.l.desc.deadline = 0 then roundRobin s3 c.l.fn c.l.queue else s3

/-- A saved hart at its new place; the restore counts one pre-emption (R350, R360). A hart that an abort has asked to stop
stays asked (R18). -/
def restoreHart (s : State) (hid : Nat) (p : Place) : State :=
  match focus s hid with
  | none => s
  | some t =>
    let h := t.hart
    let t1 := { t with hart := { h with
      who := placedAt h.who p, stopped := false, sameCore := false, world := false } }
    let t2 := evCount 0x0009 1 (dropImages t1 (· == hid))
    match lookup t2 (identSpace t2 t2.hart.who) t2.hart.pc.toNat with
    | .invalid => takeTrap t2 (plainTrap causeFetchGone t2.hart.pc)
    | _ => t2

/-- CONTEXT_RESTORE of a gang (R12, R350): every hart is placed before any goes on. -/
def resumeGang (s : State) (c : Cand) (inst : Nat) (ps : List Place) : State :=
  let s1 := updGang s c.l.serial c.gang fun g =>
    { g with status := .placed, placeAt := s.time, aged := 0, inst := if c.l.desc.sbNum = 0 then inst else g.inst }
  let s2 := updLaunch s1 c.l.serial fun l => { l with lastAt := s.time, aged := 0 }
  (((gangRanks s c).map (·.who.id)).zip ps).foldl (fun t x => restoreHart t x.1 x.2) (yieldDusk (notePlaced s2 c) c.l.desc.shape ps)

/-- The module places gangs: it is ready, and it is not being frozen or frozen (R325, R377). -/
def placing (s : State) : Bool := s.hub.ready && s.hub.snap == 0

/-- The candidates found not to fit: since when (R318, R320). -/
def noteUnplaced (s : State) (cs : List Cand) : State :=
  let all := (candidates s).map fun c => (c.l.serial, c.gang)
  let old := s.sched.unplaced.filter fun p => all.contains p.1
  let new := (cs.map fun c => (c.l.serial, c.gang)).filter fun k => !old.any (·.1 == k)
  { s with sched := { s.sched with
    unplaced := old ++ new.map (·, s.time)
    blocked := s.sched.blocked.filter fun x => all.contains (x.1, x.2.1) } }

/-- The candidates before the first that fits, and that one with where it fits. -/
def firstFit (s : State) : List Cand → List Cand × Option (Cand × Nat × List Place)
  | [] => ([], none)
  | c :: t =>
    match fitAny s noGang c with
    | some f => ([], some (c, f))
    | none => let r := firstFit s t; (c :: r.1, r.2)

/-- No candidate of a user can use the place. -/
def duskFree (s : State) (p : Place) : Bool :=
  (candidates s).all fun c => (instsOf s c).all fun i => (fitIn s noGang c i).isNone || !(poolOf s noGang c i).contains p

/-- Dusk-queue work takes free residency that no candidate of a user can use (R322). -/
def duskPlace (s : State) (n : Nat) (kind : DuskKind) (shape : Nat) (ps : List Place) : State :=
  let s1 := ageAll s
  let rest := s.sched.dusk.filter fun j => j.num ≠ n
  if placing s && s.sched.reserved.isNone && decide (shape < 4) && !ps.isEmpty && ps.eraseDups.length == ps.length
      && !(s.sched.dusk.any fun j => j.num == n && !j.places.isEmpty)
      && ps.all (fun p => (freeSlots s noGang shape p.1).contains p && duskFree s1 p) && !rest.any (duskMeets shape ps) then
    { s with sched := { s.sched with dusk := { num := n, kind := kind, shape := shape, places := ps } :: rest } }
  else s

/-- Dusk-queue work of a kind is resident. -/
def duskRuns (s : State) (kind : DuskKind) : Bool := s.sched.dusk.any fun j => j.kind == kind && !j.places.isEmpty

/-- FREE_COUNT_REPORT (R315, R316, R318): the distributor offers the free residency in the order of R318 and reserves the
places of the first candidate that fits: `places`, where they serve it, else the first that do. -/
def execFreeCountReport (_die : Nat) (places : List (Nat × Nat)) (s : State) : Out :=
  if !placing s || s.sched.reserved.isSome then .next s
  else
    let s1 := ageAll s
    let r := firstFit s1 (candidates s1)
    let s2 := noteUnplaced s1 r.1
    match r.2 with
    | none => .next s2
    | some (c, i, ps) =>
      let j := match places with
        | p :: _ => p.1 / coresPer c.l.desc.scope
        | [] => i
      let pick := if !places.isEmpty && placesOk s1 c j places then (j, places) else (i, ps)
      .next { s2 with sched := { s2.sched with
        reserved := some { serial := c.l.serial, gang := c.gang, inst := pick.1, places := pick.2 } } }

/-- The image of every hart of a gang on the resume queue passes its check (R350). -/
def imagesGood (s : State) (c : Cand) : Bool := (gangRanks s c).all fun h => imageGood (imageAt s h.who.id) h.who.shape

/-- PLACEMENT_CONFIRM (R11, R12, R316, R350): the die agents confirm or refuse. A resumed gang needs every image to pass its check;
`image` says that the hub can read them. -/
def execPlacementConfirm (ok image : Bool) (s : State) : Out :=
  match s.sched.reserved with
  | none => .next s
  | some r =>
    let s1 := { s with sched := { s.sched with reserved := none } }
    match (candidates s1).find? fun c => c.l.serial == r.serial && c.gang == r.gang with
    | none => .next s1
    | some c =>
      if !ok || !placing s1 || !placesOk s1 c r.inst r.places then .next s1
      else if !c.resume then .next (startGang s1 c r.inst r.places)
      else if image && imagesGood s1 c then .next (resumeGang s1 c r.inst r.places)
      else .next (abortLaunch s1 r.serial causeDataUe)

/-! ## Pre-emption by the scheduler -/

/-- AGING (R317): a waiting gang has waited another 10 ms. -/
def execAging (serial g : Nat) (s : State) : Out :=
  match launchAt s serial with
  | none => .next s
  | some l =>
    match gangAt s serial g with
    | some x =>
      if x.status == .preempted && decide (x.aged < agingSteps (s.time - x.preAt)) then
        .next (updGang s serial g fun y => { y with aged := y.aged + 1 })
      else .next s
    | none =>
      if g = l.started && decide (l.started < l.desc.count) && decide (l.aged < agingSteps (s.time - max l.enqAt l.lastAt)) then
        .next (updLaunch s serial fun y => { y with aged := y.aged + 1 })
      else .next s

/-- The condition of R26 and R321 on a running gang. -/
def mayYield (s : State) (serial g : Nat) : Bool :=
  match launchAt s serial, gangAt s serial g with
  | some l, some x =>
    let live := (gangHarts s serial g).filter fun h => !hartOver h
    x.status == .placed && !x.stop && !l.aborted && !live.isEmpty && live.all parked && live.any yielding
    && ((resumeCands s).filter fun c => c.l.serial == serial).any fun c => (fitAny s noGang c).isNone
  | _, _ => false

/-- GANG_YIELD (R26). -/
def execGangYield (serial g : Nat) (s : State) : Out := if mayYield s serial g then .next (requestStop s serial g) else .next s

/-- The time since which a candidate has been unplaceable. -/
def unplacedFor (s : State) (c : Cand) : Nat :=
  match s.sched.unplaced.find? (·.1 == (c.l.serial, c.gang)) with
  | some p => s.time - p.2
  | none => 0

/-- The harts a candidate places. -/
def candSize (s : State) (c : Cand) : Nat := if c.resume then (gangRanks s c).length else c.l.desc.gsize

/-- The further free slots that a candidate needs in an instance. -/
def slotsMissing (s : State) (c : Cand) (inst : Nat) : Nat :=
  let pool := poolOf s noGang c inst
  if !c.resume then c.l.desc.gsize - pool.length
  else
    let hs := gangRanks s c
    let miss (b : Bool) : Nat := hs.countP (fun h => h.who.degr == b) - pool.countP (fun p => (coreAt s p.1).degraded == b)
    miss true + miss false

/-- An instance of the least measure. -/
def leastInst (insts : List Nat) (f : Nat → Nat) (i : Nat) : Bool := insts.contains i && insts.all fun j => decide (f i ≤ f j)

/-- The first candidate of its function has been unplaceable for 1 ms, and needs the fewest further slots in `inst`. -/
def ripe (s : State) (inst : Nat) (c : Cand) : Bool :=
  leads s c && (fitAny s noGang c).isNone && decide (1000000 ≤ unplacedFor s c)
  && leastInst (instsOf s c) (slotsMissing s c) inst
  && !s.sched.blocked.any fun x => x.1 == c.l.serial && x.2.1 == c.gang

/-- UNPLACEABLE_RESERVATION (R318): the instance is kept free for the candidate. -/
def execUnplaceableReservation (inst : Nat) (s : State) : Out :=
  let s1 := ageAll s
  match (candidates s1).find? (ripe s1 inst) with
  | some c =>
    if placing s then .next { s1 with sched := { s1.sched with blocked := s1.sched.blocked ++ [(c.l.serial, c.gang, inst)] } }
    else .next s
  | none => .next s

/-- A gang that runs and has not been asked to stop. -/
def runningGang (g : Gang) : Bool := g.status == .placed && !g.stop

/-- The order in which victims are taken (R319). -/
def victimKey (v : Launch × Gang) : List Nat :=
  [v.1.desc.cls, if v.1.desc.deadline = 0 then 0 else 1, 2 ^ 64 - v.1.desc.deadline, 2 ^ 64 - v.2.placeAt % 2 ^ 64,
   2 ^ 32 - v.2.index, v.1.serial]

/-- The running gangs that `ok` admits, in the order of R319. -/
def victimsBy (s : State) (ok : Launch → Gang → Bool) : List (Launch × Gang) :=
  sortBy victimKey (s.sched.launches.flatMap fun l =>
    (l.gangs.filter fun g => runningGang g && ok l g).map fun g => (l, g))

/-- A gang has a hart on one of these cores. -/
def gangOn (s : State) (cores : List Nat) (l : Launch) (g : Gang) : Bool :=
  (gangHarts s l.serial g.index).any fun h => h.who.resident && cores.contains (coreOf h.who)

/-- Gangs that are on their way out. -/
def leaving (s : State) (n g : Nat) : Bool :=
  match gangAt s n g with
  | some x => x.stop
  | none => false

/-- Gangs of a list, or on their way out. -/
def outOf (s : State) (vs : List (Launch × Gang)) (n g : Nat) : Bool :=
  leaving s n g || vs.any fun v => v.1.serial == n && v.2.index == g

/-- The fewest gangs, from the front of a list, whose leaving lets a candidate fit in an instance. -/
def victimPrefix (s : State) (c : Cand) (inst : Nat) : List (Launch × Gang) → List (Launch × Gang) → Option (List (Launch × Gang))
  | took, rest =>
    if (fitIn s (outOf s took) c inst).isSome then some took
    else match rest with
      | [] => none
      | v :: t => victimPrefix s c inst (took ++ [v]) t

/-- Victims that the candidate can do without stay, the last taken first. -/
def dropNeedless (s : State) (c : Cand) (inst : Nat) : List (Launch × Gang) → List (Launch × Gang) → List (Launch × Gang)
  | [], kept => kept
  | v :: t, kept =>
    if (fitIn s (outOf s (t ++ kept)) c inst).isSome then dropNeedless s c inst t kept else dropNeedless s c inst t (v :: kept)

/-- The victims of a critical launch in an instance (R319). -/
def criticalVictims (s : State) (c : Cand) (inst : Nat) : Option (List (Launch × Gang)) :=
  let vs := victimsBy s fun l g =>
    decide (l.desc.cls < c.l.desc.cls) && l.fn == c.l.fn && gangOn s (instCores c.l.desc.scope inst) l g
  (victimPrefix s c inst [] vs).map fun took => dropNeedless s c inst took.reverse []

/-- The number of victims an instance needs; one that cannot serve needs more than any. -/
def victimCount (s : State) (c : Cand) (inst : Nat) : Nat :=
  match criticalVictims s c inst with
  | some vs => vs.length
  | none => 2 ^ 32

/-- The launch is critical, but for the free counts (R319). -/
def critical (s : State) (l : Launch) : Bool :=
  let unended := l.desc.count - l.gangs.countP fun g => g.status == .ended
  l.desc.deadline != 0 && l.desc.est != 0
  && decide (l.desc.deadline * l.desc.count ≤ s.time * l.desc.count + l.desc.est * 1000 * unended + 200000 * l.desc.count)

/-- CRITICAL_LAUNCH (R319): the gangs of lower class that the next candidate of a critical launch needs out of the way are
asked to stop, in an instance that needs the fewest. -/
def execCriticalLaunch (serial inst : Nat) (s : State) : Out :=
  let s1 := ageAll s
  match (candidates s1).find? (·.l.serial == serial) with
  | none => .next s
  | some c =>
    if !placing s || !critical s1 c.l || (fitAny s1 noGang c).isSome || (fitAny s1 (leaving s1) c).isSome then .next s
    else match leastInst (instsOf s1 c) (victimCount s1 c) inst, criticalVictims s1 c inst with
      | true, some vs => .next (vs.foldl (fun t v => requestStop t v.1.serial v.2.index) s1)
      | _, _ => .next s

/-- TIME_SHARE_PREEMPT (R320, R321, R356): a candidate unplaceable for 10 ms pre-empts the first gang, in the order of
R319, of class at most E that has run for 10 ms on dies the candidate may use. -/
def execTimeSharePreempt (serial g vserial vg : Nat) (s : State) : Out :=
  let s1 := ageAll s
  match (candidates s1).find? fun c => c.l.serial == serial && c.gang == g with
  | none => .next s
  | some c =>
    let cores := (List.range 1024).filter fun k => natBit (placeDies s1 c.l.fn) (k / 64)
    let vs := victimsBy s1 fun l x =>
      decide (l.desc.cls ≤ c.e) && decide (10000000 ≤ s1.time - x.placeAt) && l.fn == c.l.fn
      && (c.resume || l.serial != c.l.serial) && gangOn s1 cores l x
    if !placing s || (fitAny s1 noGang c).isSome || (fitAny s1 (leaving s1) c).isSome
      || !decide (10000000 ≤ unplacedFor s1 c) then .next s
    else match vs with
      | v :: _ => if v.1.serial = vserial && v.2.index = vg then .next (requestStop s1 vserial vg) else .next s
      | [] => .next s

/-! ## World switches (R354, R355) -/

/-- The function has a candidate, a running gang or a gang on the resume queue (R354). -/
def hasWork (s : State) (f : Nat) : Bool :=
  s.sched.launches.any fun l => l.fn == f && (mayStart s l || l.gangs.any fun g => g.status != .ended)

/-- The next function of a partition with work, after `f` in ascending order and round. -/
def nextFn (s : State) (n f : Nat) : Option Nat :=
  let fs := partFns s n
  ((fs.filter (f < ·)) ++ fs.filter (· ≤ f)).find? (hasWork s)

/-- TURNS of a function. -/
def turnsOf (s : State) (f : Nat) : Nat := max 1 (wBits (vfmapReg s f) 0 8)

/-- A running gang of another function than f is in the partition. -/
def othersRun (s : State) (f n : Nat) : Bool :=
  (allHarts s).any fun h => occupies noGang h && h.who.fn != f && natBit (partDies (partReg s n)) h.who.die

/-- A gang is asked to stop for a world switch (R355, R359). -/
def requestSwitch (s : State) (serial g : Nat) : State :=
  mapHarts (fun h => if inGang serial g h && !hartOver h then { h with world := true } else h) (requestStop s serial g)

/-- Every running gang of another function than f in the partition is asked to stop. -/
def stopOthers (s : State) (f n : Nat) : State :=
  let gs := s.sched.launches.flatMap fun l => (l.gangs.filter fun g =>
    g.status == .placed && l.fn != f && gangOn s ((List.range 1024).filter fun k => natBit (partDies (partReg s n)) (k / 64)) l g).map
      fun g => (l.serial, g.index)
  gs.foldl (fun t x => requestSwitch t x.1 x.2) s

/-- The function's turn begins. -/
def beginTurn (s : State) (n f left : Nat) : State := setTurn s n { fn := f, left := left, since := s.time, into := none }

/-- The turn goes to function f: at once where no other function's gang runs in the partition, else once those that do
have been saved (R355). `f0` is the function whose turn it was. -/
def switchTo (s : State) (n f0 f : Nat) : State :=
  if othersRun s f n then stopOthers (setTurn s n { fn := f0, left := 0, since := s.time, into := some f }) f n
  else beginTurn s n f (turnsOf s f)

/-- WORLD_SWITCH (R354, R355): a turn begins or ends in a partition. If the next turn is another function's, the gangs of
the outgoing one are asked to stop; once they are saved, the incoming function's turn begins, if it still has work there. The
same where a function of which gangs run has come into the partition. -/
def execWorldSwitch (part : Nat) (s : State) : Out :=
  if !partEn (partReg s part) || (partFns s part).length < 2 then .next s
  else match turnAt s part with
    | none =>
      match nextFn s part 0 with
      | some f => if placing s then .next (switchTo s part f f) else .next s
      | none => .next s
    | some t =>
      match t.into with
      | some f =>
        if fnPart s f == some part && hasWork s f then
          (if othersRun s f part then .next s else .next (beginTurn s part f (turnsOf s f)))
        else match nextFn s part f with
          | some g => .next (switchTo s part t.fn g)
          | none => .next s
      | none =>
        if !placing s then .next s
        else if othersRun s t.fn part then .next (switchTo s part t.fn t.fn)
        else if s.time < t.since + partSlice (partReg s part) * 100000 then .next s
        else if 1 < t.left && hasWork s t.fn && fnPart s t.fn == some part then
          .next (beginTurn s part t.fn (t.left - 1))
        else match nextFn s part t.fn with
          | none => .next s
          | some f => .next (switchTo s part t.fn f)

end Sys2Proof.Machine
end

