-- ==== Sys2Proof/Machine/Fleet.lean ====
section
/-!
DEFINITION. Reliability, pod links, snapshot, firmware, attestation and power (R7, R8, R393, R305, R344, R345, R369 to
R384), bring-up (R325), and requests of pod peers (R279, R346, R376).
-/
namespace Sys2Proof.Machine

open Sys2Proof

/-! ## The colophon (R371) -/

/-- The structures of R371 that a die, or the hub, has. -/
def hasStruct (die st : Nat) : Bool := if die = 16 then decide (7 ≤ st) && decide (st ≤ 9) else decide (die < 16) && decide (st ≤ 6)

/-- The bucket of a count of corrected errors in an hour. -/
def errorBucket (n : Nat) : Nat := if n = 0 then 0 else min 15 (n.log2 + 1)

/-- The current hour of operation is over: it is added to one bucket of every structure, and the next one begins (R371). -/
def closeHour (s : State) : State :=
  let all := (pairs 17 10).filter fun p => hasStruct p.1 p.2
  let t := all.foldl (fun u p => coloAdd u (coloKey 1 p.1 p.2 (errorBucket (tabGet 0 s.hub.coloHour (p.1 * 16 + p.2)))) 1) s
  { t with hub := { t.hub with coloHour := [], hourSecs := s.hub.hourSecs - 3600 } }

/-- Hours of operation that are over are recorded. -/
def closeHours (s : State) : State := (List.range (s.hub.hourSecs / 3600)).foldl (fun t _ => closeHour t) s

/-- A corrected error of a structure in the current hour. -/
def coloError (s : State) (die st : Nat) : State :=
  let t := closeHours s
  let k := die * 16 + st
  { t with hub := { t.hub with coloHour := tabSet 0 t.hub.coloHour k (tabGet 0 t.hub.coloHour k + 1) } }

/-- The current counts, those of the current hour among them, go to the non-volatile store (R373). -/
def coloFlush (s : State) : State :=
  { s with hub := { s.hub with coloNv := s.hub.colo, hourNv := s.hub.coloHour, hourNvSecs := s.hub.hourSecs } }

/-- A corrected residue error of a lane group: with more than 64 in a rolling hour the group is retired (R370). -/
def residueError (s : State) (core grp : Nat) : State :=
  let c := coreAt s core
  let now := (grp, s.time) :: c.residue.filter fun e => decide (s.time < e.2 + 3600000000000)
  let s1 := setCore s core { c with residue := now }
  if 64 < now.countP (·.1 == grp) then failGroup s1 core grp else s1

/-- CORRECTED_ERROR (R369): counted under its die and structure; one of lane residue names its core on the die and its
group. -/
def execCorrectedError (die : Nat) (x : ErrorSite) (s : State) : Out :=
  let st := x.struct
  let core := x.core
  let grp := x.group
  if !hasStruct die st || (st == 2 && (decide (64 ≤ core) || decide (9 ≤ grp))) then .next s
  else .next (if st = 2 then residueError (coloError s die 2) (die * 64 + core) grp else coloError s die st)

/-- COLOPHON_FLUSH (R373): the Dusk-queue work that flushes the colophon does so, and ends. -/
def execColophonFlush (s : State) : Out :=
  if !duskRuns s .flush then .next s
  else
    let t := coloFlush s
    .next { t with sched := { t.sched with dusk := t.sched.dusk.filter fun j => j.kind != .flush || j.places.isEmpty } }

/-- COLOPHON_HOUR (R371): after 3,600 operating seconds an hour is added to one bucket of every structure. -/
def execColophonHour (s : State) : Out := if s.hub.hourSecs < 3600 then .next s else .next (closeHour s)

/-- The bin of a temperature (R371). -/
def tempBin (t : Nat) : Nat := if t < 40 then 0 else if 110 ≤ t then 15 else (t - 35) / 5

/-- The arithmetic clocks are lowered for power, or a die's for temperature (R384). -/
def coldClocks (s : State) : Bool := s.hub.pwrSteps != 0
def hotClocks (s : State) : Bool := (List.range 16).any fun d => (dieAt s d).hot || (dieAt s d).heat != 0

/-- What `secs` seconds add to the colophon: operating seconds, of the current hour too, those throttled for power and for
temperature, and each die's time at its temperature. -/
def coloSeconds (s : State) (secs : Nat) : State :=
  if secs = 0 then s
  else
    let t1 := coloAdd { s with hub := { s.hub with hourSecs := s.hub.hourSecs + secs } } (coloKey 5 0 0 4) secs
    let t2 := if coldClocks s then coloAdd t1 (coloKey 5 0 0 1) secs else t1
    let t3 := if hotClocks s then coloAdd t2 (coloKey 5 0 0 2) secs else t2
    (List.range 16).foldl (fun u d => coloAdd u (coloKey 2 d 0 (tempBin (dieAt s d).temp)) secs) t3

/-- TIME goes on, with the seconds that begin. -/
def passSpan (s : State) (ns : Nat) : State :=
  { coloSeconds s ((s.time + ns) / 1000000000 - s.time / 1000000000) with time := s.time + ns }

/-- Ten minutes (R373). -/
def flushPeriod : Nat := 600000000000

/-- The stores of the hart that are 2 µs old perform, with those before them (R268). -/
def drainOld (s : State) (vec : Bool) : State :=
  if (s.hart.weak.posted vec).any fun x => decide (x.since + 2000 ≤ s.time) then drain s vec else s

/-- Every hart's stores that are 2 µs old perform. -/
def drainOldAll (s : State) : State :=
  let home := s.hart.who.id
  let t := ((allHarts s).map (·.who.id)).foldl (fun u id =>
    match focus u id with
    | some v => drainOld (drainOld v false) true
    | none => u) s
  (focus t home).getD t

/-- Device time passes. Every ten minutes of operation the colophon is flushed (R373). -/
def passTime (s : State) (ns : Nat) : State :=
  let n := s.hub.sinceFlush + ns
  let mark := n / flushPeriod * flushPeriod - s.hub.sinceFlush
  let t0 := if n < flushPeriod then passSpan s ns else passSpan (coloFlush (passSpan s mark)) (ns - mark)
  let t := { t0 with hub := { t0.hub with sinceFlush := n % flushPeriod } }
  if (allHarts t).all fun h => h.weak == Weak.calm then t else drainOldAll t

/-- Resident Dusk-queue work ends (R322); a translation that fails is reported in the colophon (R298, R371). -/
def duskEnd (s : State) (num : Nat) (failed : Bool) : State :=
  match s.sched.dusk.find? fun j => j.num == num && !j.places.isEmpty with
  | none => s
  | some j =>
    let t := { s with sched := { s.sched with dusk := s.sched.dusk.filter fun x => x.num ≠ num } }
    if failed && j.kind == .translator then coloAdd t (coloKey 5 0 0 5) 1 else t

/-! ## Lane groups and banks (R7, R8, R370, R393) -/

/-- LANE_GROUP_FAILURE (R7, R8, R370, R393): the group is retired at the next pre-emption point of its core. -/
def execLaneGroupFailure (core grp : Nat) (s : State) : Out := .next (failGroup s core grp)

/-- A core without a hart has reached a pre-emption point: its groups that wait for it are retired (R370). -/
def retireIdle (s : State) (core : Nat) : State := if (gangsOn s core).isEmpty then retirePending s core else s

/-- The lines that a quad cache holds in the way of a bank are gone (R204, R205). -/
def dropWay (s : State) (key : Nat) : State := { s with lines := s.lines.filter fun l => !(l.quad == some (key / 64) && l.way == key % 64) }

/-- BANK_RETIREMENT (R370): the bank is not free any more, and its contents are lost to every access. -/
def execBankRetirement (die quad bank : Nat) (s : State) : Out :=
  if 16 ≤ die || 16 ≤ quad || 64 ≤ bank then .next s
  else
    let k := bankKey die quad bank
    if (bankAt s k).retired then .next s
    else .next (coloAdd (dropWay (setBank s k { bankAt s k with retired := true, changing := none }) k) (coloKey 3 die 0 2) 1)

/-- OWNMAP of a domain: the function a charge goes to (R344). -/
def ownerFn (s : State) (dom : Nat) : Nat :=
  let w := tabGet 0#64 s.hub.ownmap dom
  if dom != 0 && w.getLsbD 7 then wBits w 0 7 else 0

/-- The owner domain of an evicted line: its owner tag (R361), of the die cache if that holds it, else of a bank that does; of a
line in no cache of the record the event names it. -/
def lineDomain (s : State) (line dom : Nat) : Nat :=
  let at_ := s.lines.filter fun x => x.line == line
  match at_.find? (·.quad.isNone), at_.head? with
  | some x, _ => x.own
  | none, some x => x.own
  | none, none => dom

/-- EVICTION_DATA_ERROR (R344): the line leaves the caches and is written to memory with a poison mark, and its owner domain is
charged. -/
def execEvictionDataError (pa dom : Nat) (s : State) : Out :=
  let line := pa / 64
  if 2 ^ 52 ≤ pa then .next s
  else
    let d := lineDomain s line dom
    let s1 := breakLine line none { s with
      lines := s.lines.filter fun x => x.line != line
      poison := if s.poison.contains line then s.poison else s.poison ++ [line] }
    .next (writeEvent s1 (ownerFn s1 d) (eventBytes 2 causeDataUe 0xFFFF 0 (BitVec.ofNat 64 (line * 64)) 0 0 0 s.time d))

/-! ## Links (R374, R375, R305) -/

def setPort (s : State) (p : Nat) (v : Port) : State := { s with hub := { s.hub with ports := tabSet Port.init s.hub.ports p v } }

/-- A change of a port's STATE: EV, and vector 0 of the physical function. -/
def portState (s : State) (p st : Nat) (lanes : BitVec 4) : State :=
  sendMsix (setPort s p { portAt s p with state := st, ev := true, lanes := lanes }) 0 0

/-- A port enters training. -/
def portTrain (s : State) (p : Nat) : State :=
  let s1 := portState s p 1 0
  coloAdd (setPort s1 p { portAt s1 p with retrains := ((portAt s1 p).retrains + 1) % 65536, replays := 0 }) (coloKey 4 0 0 p) 1

/-- Events counted for every resident context. -/
def evCountAll (code n : Nat) (s : State) : State :=
  let home := s.hart.who.id
  let t := ((allHarts s).map (·.who.id)).foldl (fun u id => match focus u id with | some v => evCount code n v | none => u) s
  (focus t home).getD t

/-- An up link goes down, and the port starts training at once. -/
def linkFalls (s : State) (port : Nat) : State := portTrain (coloAdd (portState s port 0 0) (coloKey 6 0 0 port) 1) port

/-- FLIT_REPLAY (R375): a flit of an up link fails its check and is sent again; after the eighth time in a row the link is
down. -/
def execFlitReplay (port : Nat) (s : State) : Out :=
  let p := portAt s port
  if portUp p then
    let t := evCountAll 0x0032 1 (coloError (setPort s port { p with replays := p.replays + 1 }) 16 7)
    .next (if 8 ≤ p.replays + 1 then linkFalls t port else t)
  else .next s

/-- A flit passes its check: the replays in a row are over (R375). -/
def flitGood (s : State) (port : Nat) : State := if portUp (portAt s port) then setPort s port { portAt s port with replays := 0 } else s

/-- LINK_DOWN (R375): a link from which nothing has come for 1 ms goes down, and the port starts training at once. -/
def execLinkDown (port : Nat) (s : State) : Out :=
  let p := portAt s port
  if decide (32 ≤ port) || p.state = 1 || p.state = 4 then .next s
  else if p.state = 0 then .next (portTrain s port)
  else .next (linkFalls s port)

/-- The two lowest lanes of a set. -/
def lowLanes (l : BitVec 4) : BitVec 4 :=
  let on := (List.range 4).filter l.getLsbD
  BitVec.ofNat 4 ((on.take 2).foldl (fun v j => v + 2 ^ j) 0)

/-- LINK_TRAINING_END (R375): up on four lanes, up at half rate on two, or failed. -/
def execLinkTrainingEnd (port : Nat) (lanes : BitVec 4) (s : State) : Out :=
  let n := (List.range 4).countP lanes.getLsbD
  if (portAt s port).state ≠ 1 then .next s
  else if n = 4 then .next (portState s port 2 lanes)
  else if 2 ≤ n then .next (portState s port 3 (lowLanes lanes))
  else .next (portState s port 4 0)

/-- A failed port is written (R374). -/
def portRetry (s : State) (p : Nat) : State := if (portAt s p).state = 4 then portTrain s p else s

/-- CXL_LINK_LOSS (R305): the interleave set leaves service. -/
def execCxlLinkLoss (port : Nat) (s : State) : Out :=
  if port < 8 && s.hub.cxlUp.getLsbD port then
    .next (coloAdd { s with hub := { s.hub with cxlUp := 0 } } (coloKey 6 0 0 (32 + port)) 1)
  else .next s

/-- The violation log takes an entry (R346). -/
def logViolation (s : State) (src kind : Nat) (addr : Word) : State :=
  let v : Violation := { addr := addr, src := src, kind := kind, time := s.time / 1000 % 2 ^ 32 }
  let n := s.hub.violHead % 64
  { s with hub := { s.hub with
    viol := if n < s.hub.viol.length then s.hub.viol.set n v else s.hub.viol ++ [v], violHead := s.hub.violHead + 1 } }

/-- The new value of a peer's atomic (R218, R219). -/
def peerAtomValue (a : PeerAtom) (w m v : Nat) : Nat :=
  if a.op = 7 then (amoFadd (if w = 64 then fmtF64 else fmtF32) (policyOf a.fcsr) m v).1
  else if a.op = 8 then (if m = a.old.toNat % 2 ^ w then v else m)
  else amoValue a.op a.sg w m v

/-- PEER_ACCESS (R279, R346, R376): a request that has come over a port that is up is discarded by age at this module's die cache,
refused, or performed. -/
def execPeerAccess (q : PeerReq) (s : State) : Out :=
  let lo := wBits s.hub.podexp 0 16 * 2 ^ 30
  let hi := wBits s.hub.podexp 32 16 * 2 ^ 30
  if !linkUp s || 190 ≤ q.age then .next s
  else if !(q.size == 1 || q.size == 2 || q.size == 4 || q.size == 8) || q.pa % q.size != 0 then .next s
  else if q.pa < lo || hi < q.pa + q.size then .next (logViolation s (0x100 + q.rank) 3 (BitVec.ofNat 64 q.pa))
  else match q.data with
    | none => .next s
    | some v =>
      if !q.page then .next (logViolation s (0x100 + q.rank) 4 (BitVec.ofNat 64 q.pa))
      else
        let old := readPaNat s q.pa q.size
        let new := match q.atom with
          | none => v.toNat
          | some a => peerAtomValue a (8 * q.size) old (v.toNat % 2 ^ (8 * q.size))
        if q.atom.isSome && s.poison.contains (q.pa / 64) then .next s
        else .next (breakLine (q.pa / 64) none { s with mem := cellsPut s.mem q.pa (bytesOfNat q.size new) })

/-! ## Freeze and thaw (R377) -/

/-- Every COLL of a hart that is not complete is treated as timed out. -/
def failColls (hid : Nat) (s : State) : State :=
  match focus s hid with
  | none => s
  | some t => (t.hart.eng.cmds.filter fun k => (collForm k.op).isSome).foldl (fun u k => faultCmd u k causeCollTimeout k.addr.toNat) t

/-- The gangs that run. -/
def placedGangs (s : State) : List (Nat × Nat) :=
  s.sched.launches.flatMap fun l => (l.gangs.filter fun g => g.status == .placed).map fun g => (l.serial, g.index)

/-- FREEZE: placement stops, every running gang is asked to stop, and COLLs end. -/
def freezeModule (s : State) : State :=
  if s.hub.snap = 1 || s.hub.snap = 2 then s
  else
    let s1 := { s with hub := { s.hub with snap := 1 }, sched := { s.sched with reserved := none } }
    let s2 := (placedGangs s1).foldl (fun t g => requestStop t g.1 g.2) s1
    let home := s.hart.who.id
    let s3 := ((allHarts s2).map (·.who.id)).foldl (fun t id => failColls id t) s2
    (focus s3 home).getD s3

/-- THAW of a frozen module: it thaws; while freezing the thaw takes effect at frozen. -/
def thawModule (s : State) : State :=
  if s.hub.snap = 2 then { s with hub := { s.hub with snap := 3 } }
  else if s.hub.snap = 1 then { s with hub := { s.hub with thawPend := true } }
  else s

/-- The module has thawed: dispatch, placement and turns restart (R377). -/
def thawEnd (s : State) : State := if s.hub.snap = 3 then { s with hub := { s.hub with snap := 0 } } else s

/-- FREEZE_COMPLETE (R377, R383): every gang is saved, every mode change is done, and no dispatch hart has an access to a
remote module under way. An orderly power-off flushes the colophon. -/
def execFreezeComplete (s : State) : Out :=
  if s.hub.snap ≠ 1 || !(placedGangs s).isEmpty || s.banks.any (fun p => p.2.changing.isSome)
    || (allHarts s).any (fun h => h.who.dispatch && (h.status == .waiting .remote || h.remote.isSome)) then .next s
  else
    let s1 := if s.hub.offPend then coloFlush s else s
    .next { s1 with hub := { s1.hub with snap := if s.hub.thawPend then 3 else 2, thawPend := false } }

/-! ## Firmware and attestation (R379 to R381) -/

/-- Magic and length are valid: a header of 16 bytes, the body, and a signature of 384. -/
def imageShape (img : List Byte) : Bool :=
  natOfBytes (img.take 4) == 0x4D594657 && img.length == 16 + natOfBytes ((img.drop 8).take 4) + 384
  && natOfBytes ((img.drop 12).take 4) == 0

def imageVersion (img : List Byte) : Nat := natOfBytes ((img.drop 4).take 4)

/-- The three tests of R379. -/
def imageOk (s : State) (img : List Byte) : Bool :=
  Config.fwSignatureOk img && decide (s.hub.sec.rollback ≤ imageVersion img) && imageShape img

/-- SHA-256 of an image. -/
def digest (img : List Byte) : List Word := (List.range 4).map (Config.sha256 img)

def withSec (s : State) (f : Security → Security) : State := { s with hub := { s.hub with sec := f s.hub.sec } }

/-- FIRMWARE_VERIFIED (R379, R325 step 1): slot A, else slot B, else neither; then only the staging path is left. -/
def execFirmwareVerified (s : State) : Out :=
  if s.hub.step ≠ 0 || s.hub.sec.booted.isSome || s.hub.sec.failed then .next s
  else
    let take (n : Nat) (img : List Byte) : State :=
      let t := withSec s fun c => { c with booted := some n, measured := [digest img] }
      { t with hub := { t.hub with step := 1 } }
    let a := s.hub.sec.slots[0]
    let b := s.hub.sec.slots[1]
    .next (if imageOk s a then take 0 a else if imageOk s b then take 1 b else withSec s fun c => { c with failed := true })

/-- The image in the staging window: as long as its header says. -/
def stagedImage (s : State) : List Byte :=
  let n := natOfBytes (cellsAt s.hub.sec.stage 8 4)
  if 16 + n + 384 ≤ 8388608 then cellsAt s.hub.sec.stage 0 (16 + n + 384) else []

/-- A firmware operation is asked for (R380); one at a time. -/
def fwRequest (s : State) (op : Nat) : State :=
  if s.hub.sec.fwRes = 1 || !(op == 1 || op == 2) then s else withSec s fun c => { c with fwRes := 1, fwOp := op }

/-- FW_OPERATION_DONE (R380). -/
def execFwOperationDone (s : State) : Out :=
  let c := s.hub.sec
  if c.fwRes ≠ 1 then .next s
  else if c.fwOp = 1 then
    let img := stagedImage s
    if !imageOk s img then .next (withSec s fun c => { c with fwRes := 2 })
    else .next (withSec s fun c => { c with
      fwRes := 0
      slots := if c.booted = some 0 then c.slots.set 1 img else c.slots.set 0 img })
  else match c.booted with
    | none => .next (withSec s fun c => { c with fwRes := 2 })
    | some n =>
      let v := imageVersion (c.slots.toList.getD n [])
      if 64 ≤ c.rollback || 64 < v then .next (withSec s fun c => { c with fwRes := 2 })
      else .next (withSec s fun c => { c with fwRes := 0, rollback := max c.rollback v })

/-- An attestation report is asked for (R381). -/
def attestRequest (s : State) : State := if s.hub.sec.attRes = 1 then s else withSec s fun c => { c with attRes := 1 }

/-- The signed part of a report (R381). -/
def reportBody (s : State) : List Byte :=
  let c := s.hub.sec
  let ms := (c.measured.flatMap fun m => m.flatMap fun w => bytesOfNat 8 w.toNat)
  bytesOfNat 4 0x4D594154 ++ bytesOfNat 2 1 ++ bytesOfNat 2 c.measured.length ++ bytesOfNat 16 Config.moduleSerial.toNat
  ++ bytesOfNat 4 c.rollback ++ bytesOfNat 4 0 ++ (c.nonce.toList.flatMap fun w => bytesOfNat 8 w.toNat) ++ bytesOfNat 8 s.time
  ++ (ms ++ List.replicate (256 - ms.length) 0) ++ List.replicate 56 0

/-- ATTESTATION_DONE (R381). -/
def execAttestationDone (s : State) : Out :=
  if s.hub.sec.attRes ≠ 1 then .next s
  else .next (withSec s fun c => { c with attRes := 0, report := reportBody s ++ (List.range 384).map (Config.attSign (reportBody s)) })

/-! ## Power (R383, R384) -/

/-- A write of PWRCAP. OFF freezes the module, or finds it frozen and flushes the colophon at once. -/
def powerWrite (s : State) (v : Word) : State :=
  let cap := min 12000 (max 3000 (wBits v 0 16))
  let s1 := { s with hub := { s.hub with pwrCap := cap } }
  if !v.getLsbD 16 then s1
  else
    let s2 := { s1 with hub := { s1.hub with offPend := true } }
    if s.hub.snap = 2 then coloFlush s2 else freezeModule s2

/-- A number of clock steps, one more or one less; 12 lower the clock from 1.8 GHz to 600 MHz. -/
def stepBy (down : Bool) (n : Nat) : Nat := if down then min 12 (n + 1) else n - 1

/-- A die's arithmetic clock, in units of 100 MHz: lowered for power on every die together, and for temperature on its own. -/
def aclkOf (s : State) (die : Nat) : Nat := max 6 (18 - s.hub.pwrSteps - (dieAt s die).heat)

/-- PWRSTAT.THR: for temperature where both hold (log 113). -/
def throttleOf (s : State) : Nat := if hotClocks s then 2 else if coldClocks s then 1 else 0

/-- POWER_THROTTLE (R384): the 1 ms average, and one step of the clock of every die together. -/
def execPowerThrottle (watts : Nat) (s : State) : Out :=
  .next { s with hub := { s.hub with watts := watts % 65536, pwrSteps := stepBy (decide (s.hub.pwrCap < watts)) s.hub.pwrSteps } }

/-- A die's hottest sensor: past 95 °C the die is hot until it is below 95 °C again; and since when it has been above 105 °C. -/
def sensed (s : State) (die temp : Nat) : DieState :=
  let d := dieAt s die
  { d with
    temp := temp
    hot := if 95 < temp then true else if temp < 95 then false else d.hot
    above := if 105 < temp then some (d.above.getD s.time) else none }

/-- THERMAL_THROTTLE (R384): the sensor, and one step of the die's own clock. -/
def execThermalThrottle (die temp : Nat) (s : State) : Out :=
  if 16 ≤ die then .next s
  else
    let d := sensed s die (temp % 256)
    .next (setDie s die { d with heat := stepBy d.hot d.heat })

/-- The die has been above 105 °C for 1 ms. -/
def tripDue (s : State) (die : Nat) : Bool :=
  match (dieAt s die).above with
  | some t => decide (t + 1000000 ≤ s.time)
  | none => false

/-- THERMAL_TRIP (R384): the die's harts, and Dusk-queue work there, stop without being saved, its launches abort, and it leaves
service. -/
def execThermalTrip (die : Nat) (s : State) : Out :=
  if decide (16 ≤ die) || (dieAt s die).tripped || !tripDue s die then .next s
  else
    let on (h : Hart) : Bool := occupies noGang h && h.who.die == die
    let gs := (((allHarts s).filter on).map fun h => (h.who.serial, h.who.gang)).eraseDups
    let s1 := setDie s die { dieAt s die with tripped := true }
    let s2 := gs.foldl (fun t g => abortLaunch t g.1 causeDataUe) s1
    let s3 := mapHarts (fun h => if on h then
      { h with status := if hartOver h then h.status else .halted, stopReq := false, stopped := false
               who := { h.who with resident := false } } else h) s2
    let s4 := gs.foldl (fun t g => settleGang t g.1 g.2) s3
    let s5 := { s4 with sched := { s4.sched with dusk := s4.sched.dusk.filter fun j => !j.places.any fun p => p.1 / 64 == die } }
    .next (coloFlush (coloAdd s5 (coloKey 5 0 0 3) 1))

/-! ## Reset and bring-up (R325, R373) -/

/-- What is left after every volatile state has gone: the colophon `colo` with its current hour (its counts and its
seconds), the firmware slots and the rollback counter. The free-value counter and the numbers go on. -/
def afterReset (s : State) (colo hour : List (Nat × Nat)) (secs since : Nat) : State :=
  { State.reset with
    nextId := s.nextId, freeIdx := s.freeIdx, agenda := s.agenda
    hub := { Hub.init with
      colo := colo, coloHour := hour, hourSecs := secs, sinceFlush := since
      coloNv := s.hub.coloNv, hourNv := s.hub.hourNv, hourNvSecs := s.hub.hourNvSecs
      sec := { Security.init with slots := s.hub.sec.slots, rollback := s.hub.sec.rollback } } }

/-- MODULE_RESET (R325): the boot ROM starts; a module without power comes back. -/
def execModuleReset (s : State) : Out :=
  let t := afterReset s s.hub.colo s.hub.coloHour s.hub.hourSecs s.hub.sinceFlush
  .next (if s.power then t else coloAdd t (coloKey 5 0 0 0) 1)

/-- POWER_LOSS (R373): counts that were not flushed, and all state, are lost. -/
def execPowerLoss (s : State) : Out := .next { afterReset s s.hub.coloNv s.hub.hourNv s.hub.hourNvSecs 0 with power := false }

/-- A step of R325 after the one before it. -/
def bringUp (s : State) (n : Nat) (f : State → State) : Out :=
  if s.hub.step + 1 ≠ n then .next s else .next (f { s with hub := { s.hub with step := n } })

/-- PCIE_LINK_TRAINED (R325 step 2). -/
def execPcieLinkTrained (s : State) : Out := bringUp s 2 id

/-- HBM_TRAINED (R325 step 3): TIME starts at 0. -/
def execHbmTrained (s : State) : Out := bringUp s 3 fun t => { t with time := 0 }

/-- CXL_ENUMERATED (R325 step 4, R305): the ports in service and the capacity found; 1, 2, 4 or 8 ports make the set. -/
def execCxlEnumerated (up : BitVec 8) (cap : Nat) (s : State) : Out :=
  let n := (List.range 8).countP up.getLsbD
  let ok := (n == 1 || n == 2 || n == 4 || n == 8) && decide (cap ≤ n * 2 ^ 41)
  bringUp s 4 fun t => if ok then { t with hub := { t.hub with cxlUp := up, cxlCap := cap } } else t

/-- The die-agent and frame-engine images that the booted firmware verifies before step 5 (R379). -/
def agentImages (s : State) : List (List Byte) :=
  match s.hub.sec.booted with
  | some n => Config.agentImages (s.hub.sec.slots.toList.getD n [])
  | none => []

/-- DIES_RELEASED (R325 steps 5 and 6, R379): the images of the dies have verified, and are recorded; HUBSTAT.READY := 1.
While one does not verify, the dies are not released (log 114). -/
def execDiesReleased (s : State) : Out :=
  if s.hub.step == 4 && !(agentImages s).all (imageOk s) then .next s
  else bringUp s 5 fun t =>
    let u := withSec t fun c => { c with measured := (c.measured ++ (agentImages s).map digest).take 8 }
    { u with hub := { u.hub with step := 6, ready := true } }

end Sys2Proof.Machine
end

