-- ==== Sys2Proof/Machine/Host.lean ====
section
/-!
DEFINITION. The host: the registers of BAR0 (R303, R307, R323, R325, R333, R336, R341, R344, R346, R351, R352, R357, R364,
R372, R374, R377, R380, R381, R383), the aperture of BAR2 (R304), posted programs (R306 to R309), sessions and bank modes
(R205, R323, R324), translation changes (R333, R336, R337), and function resets (R358).
-/
namespace Sys2Proof.Machine

open Sys2Proof

/-! ## The registers of BAR0 -/

inductive BarReg where
  | hubstat | sessctl | sessstat | tlbinv | tlbstat | podexp | bar2win
  | part (n : Nat) | vfmap (f : Nat) | fnroot (f : Nat) | fnown (f : Nat)
  | violhead
  /-- A double word of the violation log. -/
  | viol (j : Nat)
  | qcfg (q : Nat) | mbpost (q : Nat) | mbstat (q : Nat) | mberr (q : Nat)
  | errbase (f : Nat) | errlg (f : Nat) | errhead (f : Nat) | evbase (f : Nat) | evlg (f : Nat) | evhead (f : Nat)
  | ovfstat (f : Nat) | ovfvec (f : Nat)
  | ownmap (d : Nat)
  | colsel | coldata | snapctl | fwctl | attctl
  | attnonce (j : Nat)
  | pwrcap | pwrstat
  | linkstat (p : Nat)
  | report (j : Nat) | cert (j : Nat)
  /-- Eight bytes of the staging window, from this byte on. -/
  | staging (o : Nat)
deriving DecidableEq, Repr

/-- The register at an offset of a queue's block. -/
def queueReg (q : Nat) : Nat → Option BarReg
  | 0x00 => some (.qcfg q)
  | 0x08 => some (.mbpost q)
  | 0x10 => some (.mbstat q)
  | 0x18 => some (.mberr q)
  | _ => none

/-- The register at an offset of a function's log block. -/
def logReg (f : Nat) : Nat → Option BarReg
  | 0x00 => some (.errbase f)
  | 0x08 => some (.errlg f)
  | 0x10 => some (.errhead f)
  | 0x18 => some (.evbase f)
  | 0x20 => some (.evlg f)
  | 0x28 => some (.evhead f)
  | 0x30 => some (.ovfstat f)
  | 0x38 => some (.ovfvec f)
  | _ => none

/-- The registers that stand alone. -/
def soleReg : Nat → Option BarReg
  | 0x000000 => some .hubstat
  | 0x000100 => some .sessctl
  | 0x000108 => some .sessstat
  | 0x000200 => some .tlbinv
  | 0x000208 => some .tlbstat
  | 0x000300 => some .podexp
  | 0x000310 => some .bar2win
  | 0x001000 => some .violhead
  | 0x040000 => some .colsel
  | 0x040008 => some .coldata
  | 0x040010 => some .snapctl
  | 0x040018 => some .fwctl
  | 0x040020 => some .attctl
  | 0x040060 => some .pwrcap
  | 0x040068 => some .pwrstat
  | _ => none

/-- `off` lies in the block of `n` bytes at `base`. -/
def inBlock (off base n : Nat) : Bool := decide (base ≤ off) && decide (off < base + n)

/-- The register at an offset of BAR0. -/
def barReg (off : Nat) : Option BarReg :=
  if off % 8 ≠ 0 then none
  else if inBlock off 0x400 128 then some (.part ((off - 0x400) / 8))
  else if inBlock off 0x480 512 then some (.vfmap ((off - 0x480) / 8 + 1))
  else if inBlock off 0x800 1040 then
    (if off % 16 = 0 then some (.fnroot ((off - 0x800) / 16)) else some (.fnown ((off - 0x800) / 16)))
  else if inBlock off 0x1100 1024 then some (.viol ((off - 0x1100) / 8))
  else if inBlock off 0x10000 4096 then queueReg ((off - 0x10000) / 64) (off % 64)
  else if inBlock off 0x20000 4160 then logReg ((off - 0x20000) / 64) (off % 64)
  else if inBlock off 0x30008 8184 then some (.ownmap ((off - 0x30000) / 8))
  else if inBlock off 0x40040 32 then some (.attnonce ((off - 0x40040) / 8))
  else if inBlock off 0x40100 256 then some (.linkstat ((off - 0x40100) / 8))
  else if inBlock off 0x41000 768 then some (.report ((off - 0x41000) / 8))
  else if inBlock off 0x42000 4096 then some (.cert ((off - 0x42000) / 8))
  else if inBlock off 0x800000 8388608 then some (.staging (off - 0x800000))
  else soleReg off

/-- The register exists for a function (R357), and on a module without firmware (R379). -/
def barVisible (s : State) (fn : Nat) (r : BarReg) : Bool :=
  let all := match r with
    | .hubstat => true
    | .qcfg q => fn == 0 || qFunc (queueAt s q) == fn
    | .mbpost q => fn == 0 || qFunc (queueAt s q) == fn
    | .mbstat q => fn == 0 || qFunc (queueAt s q) == fn
    | .mberr q => fn == 0 || qFunc (queueAt s q) == fn
    | .errbase f => fn == 0 || f == fn
    | .errlg f => fn == 0 || f == fn
    | .errhead f => fn == 0 || f == fn
    | .evbase f => fn == 0 || f == fn
    | .evlg f => fn == 0 || f == fn
    | .evhead f => fn == 0 || f == fn
    | .ovfstat f => fn == 0 || f == fn
    | .ovfvec f => fn == 0 || f == fn
    | _ => fn == 0
  let bare := match r with
    | .hubstat => true
    | .fwctl => true
    | .staging _ => true
    | _ => false
  all && (bare || !s.hub.sec.failed)

/-- The register is read-only for a function. -/
def barReadOnly (fn : Nat) (r : BarReg) : Bool :=
  match r with
  | .hubstat => true
  | .sessstat => true
  | .tlbstat => true
  | .violhead => true
  | .viol _ => true
  | .qcfg _ => fn != 0
  | .mberr _ => true
  | .errhead _ => true
  | .evhead _ => true
  | .coldata => true
  | .pwrstat => true
  | .report _ => true
  | .cert _ => true
  | _ => false

/-! ## Pending work of a function -/

/-- The function has a launch pending or running. -/
def fnLaunches (s : State) (f : Nat) : Bool := s.sched.launches.any fun l => l.fn == f

/-- The queue's dispatch hart: the program is running. -/
def queueBusy (s : State) (q : Nat) : Bool :=
  (allHarts s).any fun h => h.who.dispatch && h.who.queue == q && !hartOver h

/-- A program of the function is posted or running. -/
def fnPrograms (s : State) (f : Nat) : Bool :=
  (List.range 64).any fun q => qFunc (queueAt s q) == f && (!(queueAt s q).posts.isEmpty || queueBusy s q)

/-! ## Reading -/

/-- The hottest die, and the slowest clock (R383). -/
def hottest (s : State) : Nat := ((List.range 16).map fun d => (dieAt s d).temp).foldl max 0
def slowest (s : State) : Nat := ((List.range 16).map (aclkOf s)).foldl min 18

/-- The record that COLSEL selects (R372). -/
def colData (s : State) : Word :=
  let w := s.hub.colsel
  let kind := wBits w 29 3
  let die := wBits w 24 5
  let st := wBits w 16 8
  let ix := wBits w 0 16
  let key := match kind with
    | 1 => if hasStruct die st && decide (ix < 16) then some (coloKey 1 die st ix) else none
    | 2 => if die < 16 && decide (ix < 16) then some (coloKey 2 die 0 ix) else none
    | 3 => if die < 16 && decide (ix < 4) then some (coloKey 3 die 0 ix) else none
    | 4 => if ix < 32 then some (coloKey 4 0 0 ix) else none
    | 5 => if ix < 6 then some (coloKey 5 0 0 ix) else none
    | _ => none
  match key with
  | some k => BitVec.ofNat 64 (tabGet 0 s.hub.colo k)
  | none => BitVec.allOnes 64

/-- Eight bytes of a list, from double word j on; 0 beyond its end. -/
def dwordOf (bs : List Byte) (j : Nat) : Word := BitVec.ofNat 64 (natOfBytes ((bs.drop (8 * j)).take 8))

/-- The bytes of a violation-log entry (R346). -/
def violBytes (v : Violation) : List Byte :=
  bytesOfNat 8 v.addr.toNat ++ bytesOfNat 2 v.src ++ bytesOfNat 1 v.kind ++ [0] ++ bytesOfNat 4 v.time

/-- MBSTAT (R307). -/
def mbstatWord (s : State) (q : Nat) : Word :=
  let r := queueAt s q
  BitVec.ofNat 64 (r.cause.toNat * 256 + (if r.err then 128 else 0) + (if r.drop then 64 else 0)
    + (if queueBusy s q then 32 else 0) + r.posts.length % 32)

/-- LINKSTAT (R374). -/
def linkstatWord (p : Port) : Word :=
  BitVec.ofNat 64 (p.peer % 256 * 2 ^ 48 + p.retrains % 65536 * 2 ^ 32 + (if p.ev then 256 else 0) + p.lanes.toNat * 16 + p.state % 8)

/-- PWRSTAT (R383). -/
def pwrstatWord (s : State) : Word :=
  BitVec.ofNat 64 (throttleOf s * 2 ^ 32 + hottest s % 256 * 2 ^ 24 + slowest s % 256 * 2 ^ 16 + s.hub.watts % 65536)

/-- HUBSTAT (R325). -/
def hubstatWord (s : State) : Word :=
  if s.hub.statClear then 0
  else BitVec.ofNat 64 (s.hub.cxlUp.toNat * 256 + s.hub.step % 16 * 16 + (if s.hub.ready then 1 else 0))

/-- The value of a register. Fields that are only written read as their reset value. -/
def regRead (s : State) (r : BarReg) : Word :=
  match r with
  | .hubstat => hubstatWord s
  | .sessctl => 0
  | .sessstat => BitVec.ofNat 64 s.hub.sessRes
  | .tlbinv => 0
  | .tlbstat => BitVec.ofNat 64 s.hub.tlbRes
  | .podexp => s.hub.podexp
  | .bar2win => s.hub.bar2win
  | .part n => partReg s n
  | .vfmap f => vfmapReg s f
  | .fnroot f => (fnAt s f).root
  | .fnown f => (fnAt s f).own
  | .violhead => BitVec.ofNat 64 s.hub.violHead
  | .viol j =>
    match s.hub.viol[j / 2]? with
    | some v => dwordOf (violBytes v) (j % 2)
    | none => 0
  | .qcfg q => (queueAt s q).cfg
  | .mbpost _ => 0
  | .mbstat q => mbstatWord s q
  | .mberr q => (queueAt s q).mberr
  | .errbase f => (fnAt s f).errBase
  | .errlg f => BitVec.ofNat 64 (fnAt s f).errLg
  | .errhead f => (fnAt s f).errHead
  | .evbase f => (fnAt s f).evBase
  | .evlg f => BitVec.ofNat 64 (fnAt s f).evLg
  | .evhead f => (fnAt s f).evHead
  | .ovfstat f => (fnAt s f).ovfStat
  | .ovfvec f => (fnAt s f).ovfVec
  | .ownmap d => tabGet 0 s.hub.ownmap d
  | .colsel => s.hub.colsel
  | .coldata => colData s
  | .snapctl => BitVec.ofNat 64 (s.hub.snap * 4)
  | .fwctl => BitVec.ofNat 64 (s.hub.sec.fwRes * 256)
  | .attctl => BitVec.ofNat 64 (s.hub.sec.attRes * 256)
  | .attnonce j => s.hub.sec.nonce.toList.getD j 0
  | .pwrcap => BitVec.ofNat 64 s.hub.pwrCap
  | .pwrstat => pwrstatWord s
  | .linkstat p => linkstatWord (portAt s p)
  | .report j => dwordOf s.hub.sec.report j
  | .cert j => dwordOf (Config.deviceCert.take 4096) j
  | .staging o => BitVec.ofNat 64 (natOfBytes (cellsAt s.hub.sec.stage o 8))

/-- The PCIe link answers memory requests: after step 2, or on a module whose firmware has not verified (R325, R379). -/
def hostUp (s : State) : Bool := s.power && (decide (2 ≤ s.hub.step) || s.hub.sec.failed)

/-- What the host's read returns. -/
def hostGets (s : State) (bs : List Byte) (ep : Bool) : State := { s with hostData := bs, hostEp := ep }

/-- A read of a register by function `fn` (R303, R346, R358); a violation's address is the BAR offset (log 147). -/
def hostRead (s : State) (fn off : Nat) : State :=
  let ones := List.replicate 8 (BitVec.allOnes 8)
  if !hostUp s || 64 < fn then s
  else if (fnAt s fn).reset then hostGets s ones false
  else match barReg off with
    | none => hostGets (logViolation s fn 1 (BitVec.ofNat 64 off)) ones false
    | some r =>
      if !barVisible s fn r then hostGets (logViolation s fn 1 (BitVec.ofNat 64 off)) ones false
      else hostGets s (bytesOfNat 8 (regRead s r).toNat) false

/-! ## Sessions (R323, R324) -/

/-- The fields of SESSCTL. -/
def sessOp (v : Word) : Nat := wBits v 25 2
def sessQuad (v : Word) : Nat := wBits v 31 4 * 16 + wBits v 27 4
def sessId (v : Word) : Nat := wBits v 0 12

/-- The banks that a pin request names. -/
def sessKeys (v : Word) : List Nat := (List.range (wBits v 41 7)).map fun j => sessQuad v * 64 + wBits v 35 6 + j

/-- A bank is free (R315, R324, R370). -/
def bankFree (b : Bank) : Bool := b.session.isNone && b.holder.isNone && !b.retired && b.changing.isNone

/-- A pin request is accepted. -/
def pinOk (s : State) (v : Word) : Bool :=
  decide (1 ≤ wBits v 41 7) && decide (wBits v 35 6 + wBits v 41 7 ≤ 64) && (sessKeys v).all fun k => bankFree (bankAt s k)

def pinMode (v : Word) : BankMode := if v.getLsbD 48 then .scratchz else .scratch

/-- The banks of the session in the quad. -/
def sessBanks (s : State) (v : Word) : List Nat :=
  (List.range 64).map (sessQuad v * 64 + ·) |>.filter fun k => (bankAt s k).session == some (sessId v)

/-- A release request is accepted. -/
def releaseOk (s : State) (v : Word) : Bool :=
  !(sessBanks s v).isEmpty && !s.sched.launches.any fun l => l.desc.sessv && l.desc.session == sessId v

/-- What harts still see of memory as it was goes. -/
def dropViewsAll (s : State) : State :=
  mapHarts (fun h => { h with weak := { h.weak with viewS := none, viewV := none, viewE := [] } }) s

/-- A bank leaves its session: zeroed and freed. -/
def unpin (s : State) (k : Nat) : State := dropViewsAll <| setBank s k { bankAt s k with session := none, data := [], fifo := [] }

def setSess (s : State) (res : Res) (req : Word) : State := { s with hub := { s.hub with sessRes := res, sessReq := req } }

/-- A write of SESSCTL. -/
def sessWrite (s : State) (v : Word) : State :=
  if s.hub.sessRes = 1 then s
  else if wBits v 49 15 != 0 || wBits v 12 13 != 0 then setSess s 2 v
  else match sessOp v with
    | 1 =>
      if pinOk s v then
        (sessKeys v).foldl (fun t k => setBank t k { bankAt t k with changing := some (pinMode v) }) (setSess s 1 v)
      else setSess s 2 v
    | 2 => if releaseOk s v then (sessBanks s v).foldl unpin (setSess s 1 v) else setSess s 2 v
    | _ => setSess s 2 v

/-- The bank is being pinned. -/
def pinPending (s : State) (k : Nat) : Bool :=
  s.hub.sessRes == 1 && sessOp s.hub.sessReq == 1 && (sessKeys s.hub.sessReq).contains k

/-- A bank takes its new mode, empty, and the link tags on its lines break (R205, R217). Its way of the quad cache is empty, and
no view holds its contents any more. -/
def finishMode (s : State) (k : Nat) (m : BankMode) : State :=
  let s1 := dropViewsAll (dropWay (setBank s k { bankAt s k with mode := m, data := [], fifo := [], changing := none }) k)
  mapHarts (fun h => match h.eng.link with
    | none => h
    | some ls => { h with eng := { h.eng with link := some (ls.map fun p =>
        if p.1 / 8192 = 2 ^ 35 + k then (p.1, false) else p) } }) s1

/-- The place of a bank add or of a store held back lies in the bank. -/
def inBank (k pa : Nat) : Bool :=
  match keyLoc pa with
  | .bank key _ => key == k
  | _ => false

/-- An access to the bank from before a change of its mode is under way (R205): a bank add, a store that has not performed,
one that waits at its port, or one that a hart which may reach the bank has not completed. -/
def bankPending (s : State) (k : Nat) : Bool :=
  (allHarts s).any fun h =>
    h.eng.adds.any (fun x => inBank k x.pa) || (h.weak.postS ++ h.weak.postV).any (fun x => inBank k x.key)
    || (active h && h.status == .waiting (.fifo k))
    || (bankHeld h.who (bankAt s k) && (!h.weak.late.isEmpty || h.status == .waiting .remote))

/-- SESSION_REQUEST_DONE (R324): the banks of a pin change their mode under R205. -/
def execSessionRequestDone (s : State) : Out :=
  if s.hub.sessRes ≠ 1 || (sessOp s.hub.sessReq == 1 && (sessKeys s.hub.sessReq).any (bankPending s)) then .next s
  else
    let v := s.hub.sessReq
    let s1 := setSess s 0 v
    if sessOp v = 1 then
      .next ((sessKeys v).foldl (fun t k =>
        let u := finishMode t k (pinMode v)
        setBank u k { bankAt u k with session := some (sessId v) }) s1)
    else .next s1

/-! ## Bank modes (R205) -/

/-- BANK_MODE_CHANGE (R205): accesses dispatched from now on wait. A bank that a session pins is never changed. -/
def execBankModeChange (die quad bank : Nat) (mode : BankMode) (s : State) : Out :=
  let k := bankKey die quad bank
  let b := bankAt s k
  if decide (16 ≤ die) || decide (16 ≤ quad) || decide (64 ≤ bank) || b.session.isSome || b.retired || b.changing.isSome
  then .next s else .next (setBank s k { b with changing := some mode })

/-- BANK_MODE_CHANGE_DONE (R205): earlier accesses have completed, the bank is drained, and the new mode takes effect. -/
def execBankModeChangeDone (die quad bank : Nat) (s : State) : Out :=
  let k := bankKey die quad bank
  match (bankAt s k).changing with
  | none => .next s
  | some m => if pinPending s k || bankPending s k then .next s else .next (finishMode s k m)

/-! ## Invalidation (R336) -/

/-- The page sizes of TLBINV and of TLB entries. -/
def pageLog : Nat → Nat
  | 0 => 16
  | 1 => 21
  | 2 => 29
  | _ => 36

/-- A TLB entry that an invalidation names. -/
def tlbMatch (v : Word) (e : TlbEntry) : Bool :=
  match wBits v 50 2 with
  | 0 => e.asid == wBits v 52 12 && e.size == pageLog (wBits v 48 2) && e.vpn == wBits v 0 40 * 65536 / 2 ^ e.size
  | 1 => e.asid == wBits v 52 12
  | _ => true

/-- An address space that an invalidation names. -/
def asidMatch (v : Word) (asid : Nat) : Bool := wBits v 50 2 == 2 || asid == wBits v 52 12

/-- A cached table entry that an invalidation names: it leads to the page, or maps part of it. -/
def walkMatch (v : Word) (e : WalkEntry) : Bool :=
  match wBits v 50 2 with
  | 0 =>
    let lg := max e.lo (pageLog (wBits v 48 2))
    e.asid == wBits v 52 12 && e.tag * 2 ^ e.lo / 2 ^ lg == wBits v 0 40 * 65536 / 2 ^ lg
  | 1 => e.asid == wBits v 52 12
  | _ => true

/-- Translations that TLBs and walkers hold are removed (R336). -/
def dropTranslations (s : State) (v : Word) : State :=
  { s with tlb := s.tlb.filter fun e => !tlbMatch v e, wcache := s.wcache.filter fun e => !walkMatch v e }

/-- What the harts and launches of an address space hold of memory outside the global order goes: words fetched ahead, constants
(R276), and views. -/
def dropStale (s : State) (asid : Nat → Bool) : State :=
  let s1 := mapHarts (fun h => if asid (wBits h.who.troot 52 12) then
    { h with ccache := [], icache := [], weak := { h.weak with viewS := none, viewV := none, viewE := [] } } else h) s
  let ls := s1.sched.launches.map fun l => if asid (wBits l.troot 52 12) then { l with ccache := [], icache := [] } else l
  { s1 with sched := { s1.sched with launches := ls } }

/-- Accesses of an address space are under way that were translated before (R281), to addresses from `lo` up to `hi`: those that
have pinned pages there, bank adds, and stores and loads that have not performed. -/
def translatedBefore (s : State) (asid : Nat → Bool) (lo hi : Nat) : Bool :=
  let within (va : Nat) : Bool := decide (lo ≤ va) && decide (va < hi)
  (allHarts s).any fun h => asid (wBits h.who.troot 52 12) &&
    ((match h.pins with | some p => p.meets lo hi | none => false) || h.eng.adds.any (fun x => within x.va)
      || (h.weak.postS ++ h.weak.postV).any (fun x => within x.va) || h.weak.late.any (·.pins.meets lo hi))

/-- The addresses that an invalidation names. -/
def invSpan (v : Word) : Nat × Nat :=
  if wBits v 50 2 = 0 then
    let n := 2 ^ pageLog (wBits v 48 2)
    let lo := alignDown (wBits v 0 40 * 65536) n
    (lo, lo + n)
  else (0, 2 ^ 56)

/-- A write of TLBINV. -/
def tlbWrite (s : State) (v : Word) : State :=
  if s.hub.tlbRes = 1 then s
  else if wBits v 50 2 = 3 || wBits v 40 8 != 0 then { s with hub := { s.hub with tlbRes := 2, tlbReq := v } }
  else dropStale (dropTranslations { s with hub := { s.hub with tlbRes := 1, tlbReq := v } } v) (asidMatch v)

/-- TLBINV_DONE (R336, R281): every access that was translated through a removed entry has performed. -/
def execTlbinvDone (s : State) : Out :=
  let x := invSpan s.hub.tlbReq
  if s.hub.tlbRes ≠ 1 || translatedBefore s (asidMatch s.hub.tlbReq) x.1 x.2 then .next s
  else .next { s with hub := { s.hub with tlbRes := 0 } }

/-! ## Writing the other registers -/

/-- QCFG as a write leaves it (R307). -/
def qcfgValue (v : Word) : Word := (v &&& 0x7FF00#64) ||| BitVec.ofNat 64 (max 1 (wBits v 0 8))

/-- A post (R307, R358). -/
def postWrite (s : State) (q : Nat) (v : Word) : State :=
  let r := queueAt s q
  if !qEn r || decide (16 ≤ r.posts.length) || wBits v 0 2 != 0 || wBits v 56 8 != 0 || (fnAt s (qFunc r)).reset then
    setQueue s q { r with drop := true }
  else setQueue s q { r with posts := r.posts ++ [v] }

/-- Another function with an address space has this identifier. -/
def asidUsed (s : State) (f asid : Nat) : Bool :=
  (List.range 65).any fun g => g != f && (fnAt s g).root.getLsbD 0 && wBits (fnAt s g).root 52 12 == asid

/-- A write of FNROOT (R333). -/
def fnrootSet (s : State) (f : Nat) (v : Word) : State :=
  if fnLaunches s f || fnPrograms s f then s
  else
    let w := v &&& 0xFFF0000000000000#64 ||| v &&& 0x000FFFFFFFFFF801#64
    setFn s f { fnAt s f with root := if v.getLsbD 0 && asidUsed s f (wBits v 52 12) then w &&& ~~~1#64 else w }

/-- A write of FNOWN (R333). -/
def fnownSet (s : State) (f : Nat) (v : Word) : State :=
  if fnLaunches s f || fnPrograms s f then s else setFn s f { fnAt s f with own := v &&& 0x3FF#64 }

/-- A partition's functions change: a turn in it ends where it is one of `gone`, or where there is no other function any more
(R354). -/
def endTurn (s : State) (n : Nat) (gone : Turn → Bool) : State :=
  { s with sched := { s.sched with turns := s.sched.turns.filter fun x => x.1 != n || !(gone x.2 || decide ((partFns s n).length < 2)) } }

/-- A write of PART (R351, R352). -/
def partSet (s : State) (n : Nat) (v : Word) : State :=
  let used := (List.range 65).any fun f => fnPart' s f == some n && fnLaunches s f
  if used then s
  else
    let slice := max 1 (wBits v 32 16)
    let dies := wBits v 0 16
    let clash := (List.range 16).any fun m => m != n && partEn (partReg s m) && (partDies (partReg s m) &&& dies) != 0
    let en := v.getLsbD 16 && dies != 0 && !clash
    let w : Word := BitVec.ofNat 64 (slice * 2 ^ 32 + (if en then 2 ^ 16 else 0) + dies)
    endTurn { s with hub := { s.hub with parts := tabSet partInit s.hub.parts n w } } n fun _ => true
where
  /-- The partition that VFMAP maps a function to. -/
  fnPart' (s : State) (f : Nat) : Option Nat :=
    if f ≠ 0 && (vfmapReg s f).getLsbD 15 then some (wBits (vfmapReg s f) 8 4) else none

/-- A session has pinned banks in a quad of these dies. -/
def sessionsOn (s : State) (dies : Nat) : Bool := s.banks.any fun p => p.2.session.isSome && natBit dies (p.1 / 1024)

/-- A write of VFMAP (R351, R352). -/
def vfmapSet (s : State) (f : Nat) (v : Word) : State :=
  let old := vfmapReg s f
  if fnLaunches s f || (old.getLsbD 15 && sessionsOn s (partDies (partReg s (wBits old 8 4)))) then s
  else
    let w := v &&& 0x8F00#64 ||| BitVec.ofNat 64 (max 1 (wBits v 0 8))
    let t := { s with hub := { s.hub with vfmaps := tabSet vfmapInit s.hub.vfmaps f w } }
    [wBits old 8 4, wBits w 8 4].foldl (fun u n => endTurn u n fun x => x.fn == f || x.into == some f) t

/-- A write of LINKSTAT (R374). -/
def linkWrite (s : State) (p : Nat) (v : Word) : State :=
  let s1 := if v.getLsbD 8 then setPort s p { portAt s p with ev := false } else s
  if wBits v 0 3 = 1 then portRetry s1 p else s1

/-- A write of a register that the function may write. A read-only register is not changed. -/
def regWrite (s : State) (r : BarReg) (v : Word) : State :=
  match r with
  | .hubstat => s
  | .sessctl => sessWrite s v
  | .sessstat => s
  | .tlbinv => tlbWrite s v
  | .tlbstat => s
  | .podexp => { s with hub := { s.hub with podexp := v &&& 0x0000FFFF0000FFFF#64 } }
  | .bar2win => { s with hub := { s.hub with bar2win := v &&& 0x00FFFFF000000001#64 } }
  | .part n => partSet s n v
  | .vfmap f => vfmapSet s f v
  | .fnroot f => fnrootSet s f v
  | .fnown f => fnownSet s f v
  | .violhead => s
  | .viol _ => s
  | .qcfg q => setQueue s q { queueAt s q with cfg := qcfgValue v }
  | .mbpost q => postWrite s q v
  | .mbstat q =>
    let x := queueAt s q
    setQueue s q { x with err := x.err && !v.getLsbD 7, drop := x.drop && !v.getLsbD 6 }
  | .mberr _ => s
  | .errbase f => setFn s f { fnAt s f with errBase := v &&& 0x00FFFFFFFFFFF000#64 }
  | .errlg f => setFn s f { fnAt s f with errLg := wBits v 0 5 }
  | .errhead _ => s
  | .evbase f => setFn s f { fnAt s f with evBase := v &&& 0x00FFFFFFFFFFF000#64 }
  | .evlg f => setFn s f { fnAt s f with evLg := wBits v 0 5 }
  | .evhead _ => s
  | .ovfstat f => setFn s f { fnAt s f with ovfStat := (fnAt s f).ovfStat &&& ~~~(v &&& 0xFF#64) }
  | .ovfvec f => setFn s f { fnAt s f with ovfVec := v &&& 0x13F#64 }
  | .ownmap d => { s with hub := { s.hub with ownmap := tabSet 0 s.hub.ownmap d (v &&& 0xFF#64) } }
  | .colsel => { s with hub := { s.hub with colsel := v &&& 0xFFFFFFFF#64 } }
  | .coldata => s
  | .snapctl => match wBits v 0 2 with
    | 1 => freezeModule s
    | 2 => thawModule s
    | _ => s
  | .fwctl => fwRequest s (wBits v 0 2)
  | .attctl => if v = 1 then attestRequest s else s
  | .attnonce j => withSec s fun c => { c with
      nonce := Vector.ofFn fun (i : Fin 4) => if i.val = j then v else c.nonce.get i }
  | .pwrcap => powerWrite s v
  | .pwrstat => s
  | .linkstat p => linkWrite s p v
  | .report _ => s
  | .cert _ => s
  | .staging o => withSec s fun c => { c with stage := cellsPut c.stage o (bytesOfNat 8 v.toNat) }

/-- A write of a register by function `fn` (R303, R346, R358). -/
def hostWrite (s : State) (fn off : Nat) (v : Word) : State :=
  if !hostUp s || 64 < fn || (fnAt s fn).reset then s
  else match barReg off with
    | none => logViolation s fn 1 (BitVec.ofNat 64 off)
    | some r =>
      if !barVisible s fn r then logViolation s fn 1 (BitVec.ofNat 64 off)
      else if barReadOnly fn r then logViolation s fn 2 (BitVec.ofNat 64 off)
      else regWrite s r v

/-! ## The host's writes as steps of the module -/

/-- REGISTER_WRITE (R303): a posted write of a register. -/
def execRegisterWrite (fn off : Nat) (v : BitVec 64) (s : State) : Out := .next (hostWrite s fn off v)

/-- MBPOST (R307). -/
def execMbpost (fn q : Nat) (v : BitVec 64) (s : State) : Out :=
  .next (if q < 64 then hostWrite s fn (0x10008 + 64 * q) v else s)

/-- SESSION_PIN (R324). -/
def execSessionPin (v : BitVec 64) (s : State) : Out := .next (if sessOp v = 1 then hostWrite s 0 0x100 v else s)

/-- SESSION_RELEASE (R324). -/
def execSessionRelease (v : BitVec 64) (s : State) : Out := .next (if sessOp v = 2 then hostWrite s 0 0x100 v else s)

/-- TLBINV_PAGE (R336). -/
def execTlbinvPage (v : BitVec 64) (s : State) : Out := .next (if wBits v 50 2 = 0 then hostWrite s 0 0x200 v else s)

/-- TLBINV_ASID (R336). -/
def execTlbinvAsid (v : BitVec 64) (s : State) : Out := .next (if wBits v 50 2 = 1 then hostWrite s 0 0x200 v else s)

/-- TLBINV_ALL (R336). -/
def execTlbinvAll (v : BitVec 64) (s : State) : Out := .next (if wBits v 50 2 = 2 then hostWrite s 0 0x200 v else s)

/-- FNROOT_WRITE (R333). -/
def execFnrootWrite (f : Nat) (v : BitVec 64) (s : State) : Out :=
  .next (if f ≤ 64 then hostWrite s 0 (0x800 + 16 * f) v else s)

/-- FNOWN_WRITE (R333). -/
def execFnownWrite (f : Nat) (v : BitVec 64) (s : State) : Out :=
  .next (if f ≤ 64 then hostWrite s 0 (0x808 + 16 * f) v else s)

/-- PART_WRITE (R352). -/
def execPartWrite (n : Nat) (v : BitVec 64) (s : State) : Out := .next (if n < 16 then hostWrite s 0 (0x400 + 8 * n) v else s)

/-- VFMAP_WRITE (R352). -/
def execVfmapWrite (f : Nat) (v : BitVec 64) (s : State) : Out :=
  .next (if 1 ≤ f && f ≤ 64 then hostWrite s 0 (0x480 + 8 * (f - 1)) v else s)

/-- FREEZE (R377). -/
def execFreeze (s : State) : Out := .next (hostWrite s 0 0x40010 1)

/-- THAW (R377). -/
def execThaw (s : State) : Out := .next (hostWrite s 0 0x40010 2)

/-- FW_VERIFY_STAGED (R380). -/
def execFwVerifyStaged (s : State) : Out := .next (hostWrite s 0 0x40018 1)

/-- FW_RAISE_ROLLBACK (R380). -/
def execFwRaiseRollback (s : State) : Out := .next (hostWrite s 0 0x40018 2)

/-- ATTESTATION_REQUEST (R381). -/
def execAttestationRequest (s : State) : Out := .next (hostWrite s 0 0x40020 1)

/-- POWER_CAP (R383). -/
def execPowerCap (v : BitVec 64) (s : State) : Out := .next (hostWrite s 0 0x40060 v)

/-- POWER_OFF (R383): OFF with the cap as it stands. -/
def execPowerOff (s : State) : Out := .next (hostWrite s 0 0x40060 (BitVec.ofNat 64 (0x10000 + s.hub.pwrCap)))

/-- LINK_TRAIN_REQUEST (R374). -/
def execLinkTrainRequest (port : Nat) (s : State) : Out :=
  .next (if port < 32 then hostWrite s 0 (0x40100 + 8 * port) 1 else s)

/-! ## BAR2 (R304) -/

/-- The size of the aperture. -/
def bar2Size : Nat := 2 ^ 36

/-- The address of an offset. -/
def bar2Va (s : State) (off : Nat) : Nat := wBits s.hub.bar2win 36 20 * 2 ^ 36 + off

/-- The bytes of a read; `none` for one with a data error. -/
def bar2Bytes (s : State) (va : Nat) : Nat → MRes (List (Option Byte))
  | 0 => .ok []
  | n + 1 =>
    let one : MRes (Option Byte) := match loadNat s (fnPath s 0) va 1 .fifoOnly with
      | .ok b => .ok (some (BitVec.ofNat 8 b))
      | .trap c a => if c = causeDataUe then .ok none else .trap c a
      | .wait w => .wait w
    one.bind fun b => (bar2Bytes s (va + 1) n).bind fun t => .ok (b :: t)

/-- Bytes with a data error carry what the spec leaves open: free values (log 13). -/
def fillFree (s : State) : List (Option Byte) → State × List Byte
  | [] => (s, [])
  | some b :: t => let r := fillFree s t; (r.1, b :: r.2)
  | none :: t =>
    let f := freeWord s
    let r := fillFree f.1 t
    (r.1, f.2.setWidth 8 :: r.2)

/-- A request of BAR2 breaks a rule of R346 before translation: beyond the aperture, or the window is closed. -/
def bar2Bad (s : State) (off n : Nat) : Option Nat :=
  if bar2Size < off + n then some 1 else if !s.hub.bar2win.getLsbD 0 then some 5 else none

/-- BAR2_READ (R304): up to 4 KiB, within 4 KiB as PCIe requests are. -/
def execBar2Read (off n : Nat) (s : State) : Out :=
  let ones := List.replicate n (BitVec.allOnes 8)
  if !hostUp s || n = 0 || off / 4096 != (off + n - 1) / 4096 then .next s
  else if (fnAt s 0).reset then .next (hostGets s ones false)
  else match bar2Bad s off n with
    | some k => .next (hostGets (logViolation s 0 k (BitVec.ofNat 64 off)) ones false)
    | none =>
      match bar2Bytes s (bar2Va s off) n with
      | .ok bs => let r := fillFree s bs; .next (hostGets r.1 r.2 (bs.any (·.isNone)))
      | .trap _ _ => .next (hostGets (logViolation s 0 5 (BitVec.ofNat 64 off)) ones false)
      | .wait _ => .next s

/-- BAR2_WRITE (R304). -/
def execBar2Write (off : Nat) (bytes : List (BitVec 8)) (s : State) : Out :=
  let n := bytes.length
  if !hostUp s || (fnAt s 0).reset || n = 0 || off / 4096 != (off + n - 1) / 4096 then .next s
  else match bar2Bad s off n with
    | some k => .next (logViolation s 0 k (BitVec.ofNat 64 off))
    | none =>
      match storeBlock s (fnPath s 0) (bar2Va s off) bytes with
      | .ok t => .next t
      | .trap _ _ => .next (logViolation s 0 5 (BitVec.ofNat 64 off))
      | .wait _ => .next s

/-- A memory write of the host that carries the Data Poisoning indication (R302): it performs, and its lines carry a poison
mark, by which it is reported as DATA_UE to whatever reads them (log 115). -/
def poisonedWrite (s : State) (off : Nat) (bytes : List Byte) : State :=
  match execBar2Write off bytes s, hostUp s && !(fnAt s 0).reset && (bar2Bad s off bytes.length).isNone with
  | .next t, true =>
    let at_ := (List.range bytes.length).filterMap fun j =>
      match locate s (fnPath s 0) (bar2Va s off + j) .store with
      | .ok l => some (locLine l)
      | _ => none
    { t with poison := t.poison ++ (at_.eraseDups.filter fun l => !t.poison.contains l) }
  | .next t, false => t
  | _, _ => s

/-! ## Violations (R346) -/

/-- An access of the host breaks the rule of case `kind`. -/
def breaksRule (s : State) (src kind off : Nat) : Bool :=
  match kind with
  | 1 =>
    match barReg off with
    | none => true
    | some r => !barVisible s src r
  | 2 =>
    match barReg off with
    | none => false
    | some r => barVisible s src r && barReadOnly src r
  | 5 =>
    src == 0 && decide (off < bar2Size)
    && (!s.hub.bar2win.getLsbD 0 || (match lookup s (fnSpace s 0) (bar2Va s off) with
      | .leaf w _ => !leafR w || !leafW w
      | .migrating => false
      | .dataError => false
      | .invalid => true))
  | _ => false

/-- HOST_ACCESS_VIOLATION (R346): the access has an error response, and the log takes an entry. -/
def execHostAccessViolation (src kind : Nat) (addr : BitVec 64) (s : State) : Out :=
  if !hostUp s || decide (64 < src) || (fnAt s src).reset || !breaksRule s src kind addr.toNat then .next s
  else .next (logViolation s src kind addr)

/-! ## Posted programs (R306 to R309) -/

/-- The harts of a queue's ended programs with nothing under way. -/
def spentDispatch (q : Nat) (h : Hart) : Bool := h.who.dispatch && h.who.queue == q && hartOver h && drained h

/-- A dispatch hart at the first instruction of a program (R308). -/
def dispatchHart (s : State) (q : Nat) (prog : Word) : Hart :=
  let f := qFunc (queueAt s q)
  { Hart.blank with
    who := { Ident.zero with
      id := s.nextId, dispatch := true, queue := q, fn := f
      troot := (fnAt s f).root &&& ~~~1#64, ctxown := (fnAt s f).own }
    status := .running, pc := prog, x := Hart.blank.x.set 1 prog }

/-- DISPATCH_PROGRAM_START (R306, R308): the queue's next post starts. -/
def execDispatchProgramStart (q : Nat) (s : State) : Out :=
  let r := queueAt s q
  match r.posts with
  | [] => .next s
  | p :: t =>
    if decide (64 ≤ q) || queueBusy s q || s.hub.snap ≠ 0 || fnQuits s (qFunc r) then .next s
    else
      let s1 := dropHarts s (spentDispatch q)
      let s2 := setQueue s1 q { r with posts := t }
      .next { s2 with others := s2.others ++ [dispatchHart s2 q p], nextId := s2.nextId + 1 }

/-! ## Function resets (R358) -/

/-- Steps 1 and 2: the function's mailboxes, programs and launches. -/
def startReset (s : State) (f : Nat) : State :=
  let mine (q : Nat) : Bool := qFunc (queueAt s q) == f
  let s1 := (List.range 64).foldl (fun t q =>
    if qFunc (queueAt t q) = f then setQueue t q { queueAt t q with posts := [] } else t) s
  let s2 := mapHarts (fun h =>
    if h.who.dispatch && mine h.who.queue && !hartOver h then { h with status := .ended, remote := none } else h) s1
  let gone := (s2.sched.launches.filter fun l => l.fn == f).map (·.serial)
  let s3 := { s2 with sched := { s2.sched with launches := s2.sched.launches.map fun l =>
    if l.fn = f then { l with aborted := true, cause := 0, quiet := true } else l } }
  let s4 := mapHarts (fun h =>
    if !h.who.dispatch && gone.contains h.who.serial && !hartOver h then { h with stopReq := true } else h) s3
  setFn s4 f { fnAt s4 f with reset := true }

/-- FUNCTION_LEVEL_RESET of virtual function f (R358). -/
def execFunctionLevelReset (f : Nat) (s : State) : Out :=
  .next (if hostUp s && decide (1 ≤ f) && decide (f ≤ 64) then startReset s f else s)

/-- VF_ENABLE_CLEAR (R358): every virtual function at once. -/
def execVfEnableClear (s : State) : Out :=
  .next (if hostUp s then ((List.range 64).map (· + 1)).foldl startReset s else s)

/-- PF_FUNCTION_LEVEL_RESET (R358): every virtual function, and then the physical function itself, whose registers do not
answer meanwhile. -/
def execPfFunctionLevelReset (s : State) : Out :=
  if !hostUp s then .next s
  else
    let s1 := ((List.range 64).map (· + 1)).foldl startReset s
    let s2 := setFn s1 0 { fnAt s1 0 with reset := true }
    .next { s2 with hub := { s2.hub with pfPend := true } }

/-- The sessions of a function: those pinned in the quads of its dies (R352, R353). -/
def releaseFn (s : State) (f : Nat) : State :=
  let ks := (s.banks.filter fun p => p.2.session.isSome && natBit (fnDies s f) (p.1 / 1024)).map (·.1)
  ks.foldl unpin s

/-- Steps 3 to 5. -/
def endReset (s : State) (f : Nat) : State :=
  let s1 := dropHarts s fun h => h.who.dispatch && qFunc (queueAt s h.who.queue) == f && hartOver h
  let s2 := releaseFn s1 f
  let s3 := (List.range 64).foldl (fun t q =>
    let r := queueAt t q
    if qFunc r = f then setQueue t q { r with drop := false, err := false, cause := 0, mberr := 0 } else t) s2
  setFn s3 f { FnRegs.init with root := (fnAt s3 f).root, own := (fnAt s3 f).own }

/-- A die as PWRSTAT shows it at reset. One that has tripped stays out of service (R384). -/
def coolDie (d : DieState) : DieState := { DieState.init with above := d.above, tripped := d.tripped }

/-- BAR0 at its reset values, but for the colophon, the rollback counter and the slots (R358). The ports are down, and the
clocks unthrottled; HUBSTAT reads as at reset until the module is reset, and the module works on (log 116). -/
def resetBar0 (s : State) : State :=
  { s with dies := (s.dies.map fun p => (p.1, coolDie p.2)).filter fun p => decide (p.2 ≠ DieState.init), hub := { s.hub with
    queues := [], fns := [], parts := [], vfmaps := [], ownmap := [], bar2win := 0, podexp := 0
    sessRes := 0, sessReq := 0, tlbRes := 0, tlbReq := 0, viol := [], violHead := 0, colsel := 0
    ports := [], snap := 0, thawPend := false, pwrCap := 12000, pwrSteps := 0, watts := 0, offPend := false, statClear := true
    sec := { s.hub.sec with
      fwRes := 0, fwOp := 0, stage := [], nonce := Vector.replicate 4 0, attRes := 0, report := [] } } }

/-- FUNCTION_RESET_COMPLETE (R358): every launch of the function has written its completion word, and its programs have
nothing under way. The physical function's reset follows those of the virtual functions. -/
def execFunctionResetComplete (f : Nat) (s : State) : Out :=
  let busy := fnLaunches s f || (allHarts s).any fun h => h.who.dispatch && qFunc (queueAt s h.who.queue) == f && !drained h
  if f = 0 && s.hub.pfPend then
    (if (List.range 65).any fun g => g != 0 && (fnAt s g).reset then .next s
     else .next (startReset { s with hub := { s.hub with pfPend := false } } 0))
  else if !(fnAt s f).reset || busy then .next s
  else .next (if f = 0 then resetBar0 (endReset s 0) else endReset s f)

/-! ## Migration (R337) -/

/-- The root of an address space that some function has. -/
def rootOf (s : State) (asid : Nat) : Option Nat :=
  ((List.range 65).find? fun f => (fnSpace s f).valid && (fnSpace s f).asid == asid).map fun f => (fnSpace s f).root

/-- A table entry is written by the supervisor. -/
def putEntry (s : State) (at_ : Nat) (e : Word) : State :=
  breakLine (at_ / 64) none { s with mem := cellsPut s.mem at_ (bytesOfNat 8 e.toNat) }

/-- The bytes and the poison marks of one frame copied to another. -/
def copyFrame (s : State) (src dst lg : Nat) : State :=
  let inF (b a : Nat) : Bool := decide (b ≤ a) && decide (a < b + 2 ^ lg)
  let bytes := s.mem.filter fun c => inF src c.1
  let kept := s.mem.filter fun c => !inF dst c.1
  let lines := s.poison.filter fun l => inF src (l * 64)
  let mem := bytes.foldl (fun m c => tabSet 0#8 m (c.1 - src + dst) c.2) kept
  let s1 := { s with
    mem := mem
    poison := (s.poison.filter fun l => !inF dst (l * 64)) ++ lines.map fun l => (l * 64 - src + dst) / 64 }
  mapHarts (fun h => match h.eng.link with
    | none => h
    | some ls => { h with eng := { h.eng with link := some (ls.map fun p => if inF dst (p.1 * 64) then (p.1, false) else p) } }) s1

/-- The leaf with another frame. -/
def withFrame (w : Word) (frame : Nat) : Word := wSet w 18 36 (frame / 65536)

/-- The word that invalidates a page of 2^`lg` bytes. -/
def pageInvWord (asid page lg : Nat) : Word :=
  BitVec.ofNat 64 (asid % 4096 * 2 ^ 52 + (if lg = 16 then 0 else if lg = 21 then 1 else if lg = 29 then 2 else 3) * 2 ^ 48 + page / 65536)

/-- PAGE_MIGRATION (R337): the supervisor makes the leaf invalid with MIG = 1 and writes TLBINV for the page; once that is done
(R336, R281), it copies the frame and writes the new leaf. A first such step of a page begins its migration, the next one ends it.
A frame in the CXL tier out of service is neither read nor written (R305): such a page gets its old leaf again (log 138). -/
def execPageMigration (asid va frame : Nat) (s : State) : Out :=
  match (rootOf s asid).bind (entryFrom s va walkLevels) with
  | none => .next s
  | some (at_, lg) =>
    let page := va / 2 ^ lg * 2 ^ lg
    if s.hub.tlbRes = 1 || !translated va then .next s
    else match s.migs.find? fun m => m.1 == asid && m.2.1 == page with
    | none =>
      let e : Word := BitVec.ofNat 64 (readPaNat s at_ 8)
      if !e.getLsbD 0 || !leafOk s e lg then .next s
      else
        let s1 := putEntry s at_ ((e &&& ~~~3#64) ||| 2#64)
        .next (tlbWrite { s1 with migs := s1.migs ++ [(asid, page, e)] } (pageInvWord asid page lg))
    | some (_, _, old) =>
      let new := withFrame old frame
      let src := leafFrame old
      let dst := leafFrame new
      let lost := cxlLost s src || cxlLost s dst
      if !leafOk s new lg || (src == dst) != lost || frame % 65536 != 0 || translatedBefore s (· == asid) page (page + 2 ^ lg) then .next s
      else
        let s1 := dropStale (putEntry (if lost then s else copyFrame s src dst lg) at_ new) (· == asid)
        .next { s1 with migs := s1.migs.filter fun m => !(m.1 == asid && m.2.1 == page) }

end Sys2Proof.Machine
end

