-- ==== Sys2Proof/Machine/Scalar.lean ====
section
/-!
DEFINITION. Integer register operations (R107, R108), immediate operations (R109), branches and jumps (R110, R111).
-/
namespace Sys2Proof.Machine

open Sys2Proof

/-- The shift amount bits(b, 5, 0). -/
def shamt (b : Word) : Nat := b.toNat % 64

/-- High 64 bits of the signed 128-bit product. -/
def mulHighSigned (a b : Word) : Word := BitVec.ofInt 64 (a.toInt * b.toInt / 2 ^ 64)

/-- High 64 bits of the unsigned 128-bit product. -/
def mulHighUnsigned (a b : Word) : Word := BitVec.ofNat 64 (a.toNat * b.toNat / 2 ^ 64)

/-- Signed quotient, rounded toward zero; -1 for a divisor of 0, and -2^63 for -2^63 over -1 (R108). -/
def divSigned (a b : Word) : Word := if b = 0 then BitVec.allOnes 64 else BitVec.ofInt 64 (a.toInt.tdiv b.toInt)

/-- Unsigned quotient; all ones for a divisor of 0 (R108). -/
def divUnsigned (a b : Word) : Word := if b = 0 then BitVec.allOnes 64 else a / b

/-- Signed remainder with the sign of a; a for a divisor of 0 (R108). -/
def remSigned (a b : Word) : Word := if b = 0 then a else BitVec.ofInt 64 (a.toInt.tmod b.toInt)

/-- Unsigned remainder; a for a divisor of 0 (R108). -/
def remUnsigned (a b : Word) : Word := if b = 0 then a else a % b

/-- The number of 1 bits. -/
def popcount {n : Nat} (v : BitVec n) : Nat := (List.range n).countP v.getLsbD

/-- The index of the lowest set bit, if any. -/
def lowestSet {n : Nat} (v : BitVec n) : Option Nat := (List.range n).find? v.getLsbD

/-- Leading zero bits; 64 for 0. -/
def leadingZeros (a : Word) : Word := if a = 0 then 64 else BitVec.ofNat 64 (63 - a.toNat.log2)

/-- Trailing zero bits; 64 for 0. -/
def trailingZeros (a : Word) : Word := BitVec.ofNat 64 ((lowestSet a).getD 64)

/-- A branch: taken to pc + 4 times the signed offset, else on to pc + 4 (R110). -/
def branchTo (s : State) (taken : Bool) (o : BitVec 15) : Out :=
  .next (complete s (if taken then s.hart.pc + (o.signExtend 64 <<< 2) else s.hart.pc + 4))

/-- ADD (R107). The sum modulo 2^64. -/
def execAdd (d a b : BitVec 5) (s : State) : Out := setX s d (rx s a + rx s b)

/-- SUB (R107). The difference modulo 2^64. -/
def execSub (d a b : BitVec 5) (s : State) : Out := setX s d (rx s a - rx s b)

/-- AND (R107). Bitwise AND. -/
def execAnd (d a b : BitVec 5) (s : State) : Out := setX s d (rx s a &&& rx s b)

/-- OR (R107). Bitwise OR. -/
def execOr (d a b : BitVec 5) (s : State) : Out := setX s d (rx s a ||| rx s b)

/-- XOR (R107). Bitwise XOR. -/
def execXor (d a b : BitVec 5) (s : State) : Out := setX s d (rx s a ^^^ rx s b)

/-- SLL (R107). Shift left by bits 5:0 of b. -/
def execSll (d a b : BitVec 5) (s : State) : Out := setX s d (rx s a <<< shamt (rx s b))

/-- SRL (R107). Logical shift right by bits 5:0 of b. -/
def execSrl (d a b : BitVec 5) (s : State) : Out := setX s d (rx s a >>> shamt (rx s b))

/-- SRA (R107). Arithmetic shift right by bits 5:0 of b. -/
def execSra (d a b : BitVec 5) (s : State) : Out := setX s d ((rx s a).sshiftRight (shamt (rx s b)))

/-- MUL (R107). Low 64 bits of the product. -/
def execMul (d a b : BitVec 5) (s : State) : Out := setX s d (rx s a * rx s b)

/-- MULH (R107). High 64 bits of the signed product. -/
def execMulh (d a b : BitVec 5) (s : State) : Out := setX s d (mulHighSigned (rx s a) (rx s b))

/-- MULHN (R107). High 64 bits of the unsigned product. -/
def execMulhn (d a b : BitVec 5) (s : State) : Out := setX s d (mulHighUnsigned (rx s a) (rx s b))

/-- DIV (R107, R108). Signed quotient toward zero. -/
def execDiv (d a b : BitVec 5) (s : State) : Out := setX s d (divSigned (rx s a) (rx s b))

/-- DIVN (R107, R108). Unsigned quotient. -/
def execDivn (d a b : BitVec 5) (s : State) : Out := setX s d (divUnsigned (rx s a) (rx s b))

/-- REM (R107, R108). Signed remainder, with the sign of a. -/
def execRem (d a b : BitVec 5) (s : State) : Out := setX s d (remSigned (rx s a) (rx s b))

/-- REMN (R107, R108). Unsigned remainder. -/
def execRemn (d a b : BitVec 5) (s : State) : Out := setX s d (remUnsigned (rx s a) (rx s b))

/-- MIN (R107). Signed minimum. -/
def execMin (d a b : BitVec 5) (s : State) : Out := setX s d (if (rx s a).slt (rx s b) then rx s a else rx s b)

/-- MAX (R107). Signed maximum. -/
def execMax (d a b : BitVec 5) (s : State) : Out := setX s d (if (rx s a).slt (rx s b) then rx s b else rx s a)

/-- MINN (R107). Unsigned minimum. -/
def execMinn (d a b : BitVec 5) (s : State) : Out := setX s d (if (rx s a).ult (rx s b) then rx s a else rx s b)

/-- MAXN (R107). Unsigned maximum. -/
def execMaxn (d a b : BitVec 5) (s : State) : Out := setX s d (if (rx s a).ult (rx s b) then rx s b else rx s a)

/-- SLT (R107). Signed comparison. -/
def execSlt (d a b : BitVec 5) (s : State) : Out := setX s d (if (rx s a).slt (rx s b) then 1 else 0)

/-- SLTN (R107). Unsigned comparison. -/
def execSltn (d a b : BitVec 5) (s : State) : Out := setX s d (if (rx s a).ult (rx s b) then 1 else 0)

/-- SEL (R107, R108). a where the old X[d] is not zero, else b. -/
def execSel (d a b : BitVec 5) (s : State) : Out := setX s d (if rx s d ≠ 0 then rx s a else rx s b)

/-- LEA1 (R107). a + b. -/
def execLea1 (d a b : BitVec 5) (s : State) : Out := setX s d (rx s a + rx s b)

/-- LEA2 (R107). a + 2 b. -/
def execLea2 (d a b : BitVec 5) (s : State) : Out := setX s d (rx s a + (rx s b <<< 1))

/-- LEA4 (R107). a + 4 b. -/
def execLea4 (d a b : BitVec 5) (s : State) : Out := setX s d (rx s a + (rx s b <<< 2))

/-- LEA8 (R107). a + 8 b. -/
def execLea8 (d a b : BitVec 5) (s : State) : Out := setX s d (rx s a + (rx s b <<< 3))

/-- CLZ (R107). Leading zero bits. -/
def execClz (d a : BitVec 5) (s : State) : Out := setX s d (leadingZeros (rx s a))

/-- CTZ (R107). Trailing zero bits. -/
def execCtz (d a : BitVec 5) (s : State) : Out := setX s d (trailingZeros (rx s a))

/-- POPC (R107). Number of 1 bits. -/
def execPopc (d a : BitVec 5) (s : State) : Out := setX s d (BitVec.ofNat 64 (popcount (rx s a)))

/-- BREV (R107). Bit j moved to bit 63 - j. -/
def execBrev (d a : BitVec 5) (s : State) : Out := setX s d ((rx s a).reverse)

/-- ADDI (R109). Sum with the sign-extended immediate. -/
def execAddi (d a : BitVec 5) (im : BitVec 15) (s : State) : Out := setX s d (rx s a + im.signExtend 64)

/-- ANDI (R109). AND with the zero-extended immediate. -/
def execAndi (d a : BitVec 5) (im : BitVec 12) (s : State) : Out := setX s d (rx s a &&& im.setWidth 64)

/-- ORI (R109). OR with the zero-extended immediate. -/
def execOri (d a : BitVec 5) (im : BitVec 12) (s : State) : Out := setX s d (rx s a ||| im.setWidth 64)

/-- XORI (R109). XOR with the zero-extended immediate. -/
def execXori (d a : BitVec 5) (im : BitVec 12) (s : State) : Out := setX s d (rx s a ^^^ im.setWidth 64)

/-- SLTI (R109). Signed comparison with the sign-extended immediate. -/
def execSlti (d a : BitVec 5) (im : BitVec 12) (s : State) : Out := setX s d (if (rx s a).slt (im.signExtend 64) then 1 else 0)

/-- SLLI (R109). Shift left by n. -/
def execSlli (d a : BitVec 5) (n : BitVec 6) (s : State) : Out := setX s d (rx s a <<< n.toNat)

/-- SRLI (R109). Logical shift right by n. -/
def execSrli (d a : BitVec 5) (n : BitVec 6) (s : State) : Out := setX s d (rx s a >>> n.toNat)

/-- SRAI (R109). Arithmetic shift right by n. -/
def execSrai (d a : BitVec 5) (n : BitVec 6) (s : State) : Out := setX s d ((rx s a).sshiftRight n.toNat)

/-- LUI (R109). The sign-extended immediate times 2^15. -/
def execLui (d : BitVec 5) (im : BitVec 20) (s : State) : Out := setX s d (im.signExtend 64 <<< 15)

/-- AUIPC (R109). The same, added to the instruction's own address. -/
def execAuipc (d : BitVec 5) (im : BitVec 20) (s : State) : Out := setX s d (s.hart.pc + (im.signExtend 64 <<< 15))

/-- BEQ (R110). Taken when equal. -/
def execBeq (a b : BitVec 5) (o : BitVec 15) (s : State) : Out := branchTo s (rx s a == rx s b) o

/-- BNE (R110). Taken when not equal. -/
def execBne (a b : BitVec 5) (o : BitVec 15) (s : State) : Out := branchTo s (rx s a != rx s b) o

/-- BLT (R110). Taken when below, signed. -/
def execBlt (a b : BitVec 5) (o : BitVec 15) (s : State) : Out := branchTo s ((rx s a).slt (rx s b)) o

/-- BGE (R110). Taken when not below, signed. -/
def execBge (a b : BitVec 5) (o : BitVec 15) (s : State) : Out := branchTo s (!(rx s a).slt (rx s b)) o

/-- BLTN (R110). Taken when below, unsigned. -/
def execBltn (a b : BitVec 5) (o : BitVec 15) (s : State) : Out := branchTo s ((rx s a).ult (rx s b)) o

/-- BGEN (R110). Taken when not below, unsigned. -/
def execBgen (a b : BitVec 5) (o : BitVec 15) (s : State) : Out := branchTo s (!(rx s a).ult (rx s b)) o

/-- JAL (R111). -/
def execJal (d : BitVec 5) (im : BitVec 20) (s : State) : Out :=
  .next (complete (wx s d (s.hart.pc + 4)) (s.hart.pc + (im.signExtend 64 <<< 2)))

/-- JALR (R111). The target is read before X[d] is written; one that is not a multiple of 4 traps with MISALIGN. -/
def execJalr (d a : BitVec 5) (im : BitVec 15) (s : State) : Out :=
  let t := rx s a + im.signExtend 64
  if fld t 0 2 ≠ 0 then .next (takeTrap s (plainTrap causeMisalign t))
  else .next (complete (wx s d (s.hart.pc + 4)) t)

end Sys2Proof.Machine
end

