-- ==== Sys2Proof/Machine/ScalarFp.lean ====
section
/-!
DEFINITION. Scalar floating point (R116 to R119). FCSR stands for VMODE and VFLAGS; no value traps.
-/
namespace Sys2Proof.Machine

open Sys2Proof

/-- The operand type FT (R116). -/
def fpFmt (t : BitVec 2) : Fmt :=
  match t.toNat with
  | 0 => fmtF32
  | 1 => fmtF64
  | 2 => fmtF16
  | _ => fmtBF16

/-- The value of a scalar FP operand, after any input flush: only the low bits of the register are read. -/
def fpArg (s : State) (t : BitVec 2) (r : BitVec 5) : Num :=
  (fpFmt t).decodeIn (policyOf s.hart.fcsr) ((rx s r).toNat % 2 ^ (fpFmt t).width)

/-- Writing a result, zero-extended, and its flags into FCSR. -/
def fpResult (s : State) (d : BitVec 5) (v : Nat) (f : Flags) : Out :=
  .next (advance (wx (orFcsr s f) d (BitVec.ofNat 64 v)))

/-- An operation's exact value, rounded once (R116). -/
def fpOut (s : State) (d : BitVec 5) (t : BitVec 2) (x : Num × Flags) : Out :=
  let r := rnd (fpFmt t) (policyOf s.hart.fcsr) x.1
  fpResult s d r.1 (r.2 ||| x.2)

/-- RM of FCSR. -/
def fpRm (s : State) : Nat := (policyOf s.hart.fcsr).rm

/-- FADD (R116). -/
def execFadd (d a b : BitVec 5) (t : BitVec 2) (s : State) : Out := fpOut s d t ((fpArg s t a).add (fpRm s) (fpArg s t b))

/-- FSUB (R116). -/
def execFsub (d a b : BitVec 5) (t : BitVec 2) (s : State) : Out := fpOut s d t ((fpArg s t a).add (fpRm s) (fpArg s t b).neg)

/-- FMUL (R116). -/
def execFmul (d a b : BitVec 5) (t : BitVec 2) (s : State) : Out := fpOut s d t ((fpArg s t a).mul (fpArg s t b))

/-- FFMA (R116): a times b plus the old X[d], with one rounding. -/
def execFfma (d a b : BitVec 5) (t : BitVec 2) (s : State) : Out :=
  fpOut s d t (Num.fma (fpRm s) (fpArg s t a) (fpArg s t b) (fpArg s t d))

/-- FDIV (R116). -/
def execFdiv (d a b : BitVec 5) (t : BitVec 2) (s : State) : Out := fpOut s d t ((fpArg s t a).div (fpArg s t b))

/-- FSQRT (R116). -/
def execFsqrt (d a : BitVec 5) (t : BitVec 2) (s : State) : Out := fpOut s d t (fpArg s t a).sqrt

/-- FMIN (R116, R75). -/
def execFmin (d a b : BitVec 5) (t : BitVec 2) (s : State) : Out := fpOut s d t ((fpArg s t a).minmax false (fpArg s t b))

/-- FMAX (R116, R75). -/
def execFmax (d a b : BitVec 5) (t : BitVec 2) (s : State) : Out := fpOut s d t ((fpArg s t a).minmax true (fpArg s t b))

/-- FCMP (R118). -/
def execFcmp (d a b : BitVec 5) (c : BitVec 4) (t : BitVec 2) (s : State) : Out :=
  let r := (fpArg s t a).compare c.toNat (fpArg s t b)
  fpResult s d (if r.1 then 1 else 0) r.2

/-- The integer types of FCVT, in the order of its codes (R117). -/
def fpIntTy (n : Nat) : Ty :=
  match n with
  | 0 => .int true 64
  | 1 => .int false 64
  | 2 => .int true 32
  | _ => .int false 32

/-- FCVT (R117, R74): a float target and an n32 target are zero-extended, an i32 target sign-extended. -/
def execFcvt (d a : BitVec 5) (c : BitVec 4) (t : BitVec 2) (s : State) : Out :=
  let n := c.toNat
  let p := policyOf s.hart.fcsr
  let ft : Ty := .flt (fpFmt t)
  let (dst, src) : Ty × Ty :=
    if n < 4 then (ft, .flt (fpFmt (BitVec.ofNat 2 n)))
    else if n < 8 then (ft, fpIntTy (n - 4))
    else (fpIntTy (n - 8), ft)
  let r := convert p dst src ((rx s a).toNat % 2 ^ src.width)
  fpResult s d (if n = 10 then (BitVec.ofInt 64 (sextNat 32 r.1)).toNat else r.1) r.2

/-- FCLASS (R118): it ignores FLUSH and raises no flag. -/
def execFclass (d a : BitVec 5) (t : BitVec 2) (s : State) : Out :=
  fpResult s d ((fpFmt t).classMask ((rx s a).toNat % 2 ^ (fpFmt t).width)) 0

end Sys2Proof.Machine
end

