-- ==== Sys2Proof/Machine/Dispatch.lean ====
section
/-!
DEFINITION. One arm for each row of the spec's opcode table: what an instruction, or a step of the module without an
encoding, does to the state. An encoded instruction acts on the hart whose turn it is.
-/
namespace Sys2Proof.Machine

open Sys2Proof

def exec (i : Instr) (s : State) : Host.Outcome State Fault Refusal :=
  match i with
  | .add d a b => Sys2Proof.Machine.execAdd d a b s
  | .sub d a b => Sys2Proof.Machine.execSub d a b s
  | .and d a b => Sys2Proof.Machine.execAnd d a b s
  | .or d a b => Sys2Proof.Machine.execOr d a b s
  | .xor d a b => Sys2Proof.Machine.execXor d a b s
  | .sll d a b => Sys2Proof.Machine.execSll d a b s
  | .srl d a b => Sys2Proof.Machine.execSrl d a b s
  | .sra d a b => Sys2Proof.Machine.execSra d a b s
  | .mul d a b => Sys2Proof.Machine.execMul d a b s
  | .mulh d a b => Sys2Proof.Machine.execMulh d a b s
  | .mulhn d a b => Sys2Proof.Machine.execMulhn d a b s
  | .div d a b => Sys2Proof.Machine.execDiv d a b s
  | .divn d a b => Sys2Proof.Machine.execDivn d a b s
  | .rem d a b => Sys2Proof.Machine.execRem d a b s
  | .remn d a b => Sys2Proof.Machine.execRemn d a b s
  | .min d a b => Sys2Proof.Machine.execMin d a b s
  | .max d a b => Sys2Proof.Machine.execMax d a b s
  | .minn d a b => Sys2Proof.Machine.execMinn d a b s
  | .maxn d a b => Sys2Proof.Machine.execMaxn d a b s
  | .slt d a b => Sys2Proof.Machine.execSlt d a b s
  | .sltn d a b => Sys2Proof.Machine.execSltn d a b s
  | .sel d a b => Sys2Proof.Machine.execSel d a b s
  | .lea1 d a b => Sys2Proof.Machine.execLea1 d a b s
  | .lea2 d a b => Sys2Proof.Machine.execLea2 d a b s
  | .lea4 d a b => Sys2Proof.Machine.execLea4 d a b s
  | .lea8 d a b => Sys2Proof.Machine.execLea8 d a b s
  | .clz d a => Sys2Proof.Machine.execClz d a s
  | .ctz d a => Sys2Proof.Machine.execCtz d a s
  | .popc d a => Sys2Proof.Machine.execPopc d a s
  | .brev d a => Sys2Proof.Machine.execBrev d a s
  | .addi d a im => Sys2Proof.Machine.execAddi d a im s
  | .andi d a im => Sys2Proof.Machine.execAndi d a im s
  | .ori d a im => Sys2Proof.Machine.execOri d a im s
  | .xori d a im => Sys2Proof.Machine.execXori d a im s
  | .slti d a im => Sys2Proof.Machine.execSlti d a im s
  | .slli d a n => Sys2Proof.Machine.execSlli d a n s
  | .srli d a n => Sys2Proof.Machine.execSrli d a n s
  | .srai d a n => Sys2Proof.Machine.execSrai d a n s
  | .lui d im => Sys2Proof.Machine.execLui d im s
  | .auipc d im => Sys2Proof.Machine.execAuipc d im s
  | .beq a b o => Sys2Proof.Machine.execBeq a b o s
  | .bne a b o => Sys2Proof.Machine.execBne a b o s
  | .blt a b o => Sys2Proof.Machine.execBlt a b o s
  | .bge a b o => Sys2Proof.Machine.execBge a b o s
  | .bltn a b o => Sys2Proof.Machine.execBltn a b o s
  | .bgen a b o => Sys2Proof.Machine.execBgen a b o s
  | .jal d im => Sys2Proof.Machine.execJal d im s
  | .jalr d a im => Sys2Proof.Machine.execJalr d a im s
  | .ldb d a im => Sys2Proof.Machine.execLdb d a im s
  | .ldh d a im => Sys2Proof.Machine.execLdh d a im s
  | .ldw d a im => Sys2Proof.Machine.execLdw d a im s
  | .ldd d a im => Sys2Proof.Machine.execLdd d a im s
  | .ldbn d a im => Sys2Proof.Machine.execLdbn d a im s
  | .ldhn d a im => Sys2Proof.Machine.execLdhn d a im s
  | .ldwn d a im => Sys2Proof.Machine.execLdwn d a im s
  | .ldc d a im => Sys2Proof.Machine.execLdc d a im s
  | .stb d a im => Sys2Proof.Machine.execStb d a im s
  | .sth d a im => Sys2Proof.Machine.execSth d a im s
  | .stw d a im => Sys2Proof.Machine.execStw d a im s
  | .std d a im => Sys2Proof.Machine.execStd d a im s
  | .csrr d sy => Sys2Proof.Machine.execCsrr d sy s
  | .csrw a sy => Sys2Proof.Machine.execCsrw a sy s
  | .csrs a sy => Sys2Proof.Machine.execCsrs a sy s
  | .csrc a sy => Sys2Proof.Machine.execCsrc a sy s
  | .trap a => Sys2Proof.Machine.execTrap a s
  | .tret => Sys2Proof.Machine.execTret s
  | .scall d a => Sys2Proof.Machine.execScall d a s
  | .brk => Sys2Proof.Machine.execBrk s
  | .yield => Sys2Proof.Machine.execYield s
  | .cfence => Sys2Proof.Machine.execCfence s
  | .halt => Sys2Proof.Machine.execHalt s
  | .fadd d a b t => Sys2Proof.Machine.execFadd d a b t s
  | .fsub d a b t => Sys2Proof.Machine.execFsub d a b t s
  | .fmul d a b t => Sys2Proof.Machine.execFmul d a b t s
  | .ffma d a b t => Sys2Proof.Machine.execFfma d a b t s
  | .fdiv d a b t => Sys2Proof.Machine.execFdiv d a b t s
  | .fsqrt d a t => Sys2Proof.Machine.execFsqrt d a t s
  | .fmin d a b t => Sys2Proof.Machine.execFmin d a b t s
  | .fmax d a b t => Sys2Proof.Machine.execFmax d a b t s
  | .fcmp d a b c t => Sys2Proof.Machine.execFcmp d a b c t s
  | .fcvt d a c t => Sys2Proof.Machine.execFcvt d a c t s
  | .fclass d a t => Sys2Proof.Machine.execFclass d a t s
  | .vadd d a b => Sys2Proof.Machine.execVadd d a b s
  | .vsub d a b => Sys2Proof.Machine.execVsub d a b s
  | .vmul d a b => Sys2Proof.Machine.execVmul d a b s
  | .vfma d a b => Sys2Proof.Machine.execVfma d a b s
  | .vfms d a b => Sys2Proof.Machine.execVfms d a b s
  | .vdiv d a b => Sys2Proof.Machine.execVdiv d a b s
  | .vmin d a b => Sys2Proof.Machine.execVmin d a b s
  | .vmax d a b => Sys2Proof.Machine.execVmax d a b s
  | .vabs d a => Sys2Proof.Machine.execVabs d a s
  | .vneg d a => Sys2Proof.Machine.execVneg d a s
  | .vand d a b => Sys2Proof.Machine.execVand d a b s
  | .vor d a b => Sys2Proof.Machine.execVor d a b s
  | .vxor d a b => Sys2Proof.Machine.execVxor d a b s
  | .vsll d a b => Sys2Proof.Machine.execVsll d a b s
  | .vsrl d a b => Sys2Proof.Machine.execVsrl d a b s
  | .vsra d a b => Sys2Proof.Machine.execVsra d a b s
  | .vmulh d a b => Sys2Proof.Machine.execVmulh d a b s
  | .vavg d a b => Sys2Proof.Machine.execVavg d a b s
  | .vcmpeq d a b => Sys2Proof.Machine.execVcmpeq d a b s
  | .vcmpne d a b => Sys2Proof.Machine.execVcmpne d a b s
  | .vcmplt d a b => Sys2Proof.Machine.execVcmplt d a b s
  | .vcmple d a b => Sys2Proof.Machine.execVcmple d a b s
  | .vmov d a => Sys2Proof.Machine.execVmov d a s
  | .vsel d a b k => Sys2Proof.Machine.execVsel d a b k s
  | .vbcast d b => Sys2Proof.Machine.execVbcast d b s
  | .vslideUp d a b => Sys2Proof.Machine.execVslideUp d a b s
  | .vslideDn d a b => Sys2Proof.Machine.execVslideDn d a b s
  | .vcvt d a t => Sys2Proof.Machine.execVcvt d a t s
  | .vredsum d a b => Sys2Proof.Machine.execVredsum d a b s
  | .vredmax d a b => Sys2Proof.Machine.execVredmax d a b s
  | .vredmin d a b => Sys2Proof.Machine.execVredmin d a b s
  | .vscan d a b => Sys2Proof.Machine.execVscan d a b s
  | .vperm d a b => Sys2Proof.Machine.execVperm d a b s
  | .vcompress d a => Sys2Proof.Machine.execVcompress d a s
  | .vexpand d a => Sys2Proof.Machine.execVexpand d a s
  | .vexp2 d a => Sys2Proof.Machine.execVexp2 d a s
  | .vlog2 d a => Sys2Proof.Machine.execVlog2 d a s
  | .vrcp d a => Sys2Proof.Machine.execVrcp d a s
  | .vrsqrt d a => Sys2Proof.Machine.execVrsqrt d a s
  | .vsqrt d a => Sys2Proof.Machine.execVsqrt d a s
  | .vtanh d a => Sys2Proof.Machine.execVtanh d a s
  | .vsigm d a => Sys2Proof.Machine.execVsigm d a s
  | .spadd d a b => Sys2Proof.Machine.execSpadd d a b s
  | .spmul d a b => Sys2Proof.Machine.execSpmul d a b s
  | .spfrom d a => Sys2Proof.Machine.execSpfrom d a s
  | .spto d a => Sys2Proof.Machine.execSpto d a s
  | .wdef d b => Sys2Proof.Machine.execWdef d b s
  | .wsave d a b => Sys2Proof.Machine.execWsave d a b s
  | .wload d a b => Sys2Proof.Machine.execWload d a b s
  | .wspill a b => Sys2Proof.Machine.execWspill a b s
  | .wfill d b => Sys2Proof.Machine.execWfill d b s
  | .setmode m => Sys2Proof.Machine.execSetmode m s
  | .wdefi d a r => Sys2Proof.Machine.execWdefi d a r s
  | .setvl d a => Sys2Proof.Machine.execSetvl d a s
  | .mpopvl d k => Sys2Proof.Machine.execMpopvl d k s
  | .mcnt d k => Sys2Proof.Machine.execMcnt d k s
  | .mfirst d k => Sys2Proof.Machine.execMfirst d k s
  | .wget d w => Sys2Proof.Machine.execWget d w s
  | .setmodex d a => Sys2Proof.Machine.execSetmodex d a s
  | .brloop o => Sys2Proof.Machine.execBrloop o s
  | .mand d a b => Sys2Proof.Machine.execMand d a b s
  | .mor d a b => Sys2Proof.Machine.execMor d a b s
  | .mxor d a b => Sys2Proof.Machine.execMxor d a b s
  | .mandn d a b => Sys2Proof.Machine.execMandn d a b s
  | .msbf d a => Sys2Proof.Machine.execMsbf d a s
  | .mrankAdd t a b x => Sys2Proof.Machine.execMrankAdd t a b x s
  | .mrankSub t a b x => Sys2Proof.Machine.execMrankSub t a b x s
  | .mma t a b => Sys2Proof.Machine.execMma t a b s
  | .mmasp t v b => Sys2Proof.Machine.execMmasp t v b s
  | .mcomp v b => Sys2Proof.Machine.execMcomp v b s
  | .mzero t => Sys2Proof.Machine.execMzero t s
  | .atow t d n x => Sys2Proof.Machine.execAtow t d n x s
  | .wtoa t a n x => Sys2Proof.Machine.execWtoa t a n x s
  | .ared t d o => Sys2Proof.Machine.execAred t d o s
  | .amulr t a => Sys2Proof.Machine.execAmulr t a s
  | .aaddr t a => Sys2Proof.Machine.execAaddr t a s
  | .mstart d a => Sys2Proof.Machine.execMstart d a s
  | .mstop => Sys2Proof.Machine.execMstop s
  | .mclaim a => Sys2Proof.Machine.execMclaim a s
  | .mrel a => Sys2Proof.Machine.execMrel a s
  | .mfetch h c a b w x => Sys2Proof.Machine.execMfetch h c a b w x s
  | .mfetchD h c a b w x => Sys2Proof.Machine.execMfetchD h c a b w x s
  | .mfetchPg h c a b w x => Sys2Proof.Machine.execMfetchPg h c a b w x s
  | .mfetchPgD h c a b w x => Sys2Proof.Machine.execMfetchPgD h c a b w x s
  | .mfetchSh h c a b w x => Sys2Proof.Machine.execMfetchSh h c a b w x s
  | .mfetchShD h c a b w x => Sys2Proof.Machine.execMfetchShD h c a b w x s
  | .hset h n a => Sys2Proof.Machine.execHset h n a s
  | .hld h a => Sys2Proof.Machine.execHld h a s
  | .hst h a => Sys2Proof.Machine.execHst h a s
  | .hget h n a => Sys2Proof.Machine.execHget h n a s
  | .ldt h a b w => Sys2Proof.Machine.execLdt h a b w s
  | .stt h a b w => Sys2Proof.Machine.execStt h a b w s
  | .ldv a w => Sys2Proof.Machine.execLdv a w s
  | .stv a w => Sys2Proof.Machine.execStv a w s
  | .lds a b w => Sys2Proof.Machine.execLds a b w s
  | .sts a b w => Sys2Proof.Machine.execSts a b w s
  | .gath d a b => Sys2Proof.Machine.execGath d a b s
  | .scat d a b => Sys2Proof.Machine.execScat d a b s
  | .scatadd d a b => Sys2Proof.Machine.execScatadd d a b s
  | .glink d a b => Sys2Proof.Machine.execGlink d a b s
  | .scond d a b => Sys2Proof.Machine.execScond d a b s
  | .vamo d a b q r p => Sys2Proof.Machine.execVamo d a b q r p s
  | .vamoOrd d a b q r p => Sys2Proof.Machine.execVamoOrd d a b q r p s
  | .amo d a b e n q r p => Sys2Proof.Machine.execAmo d a b e n q r p s
  | .vwait d a b e c => Sys2Proof.Machine.execVwait d a b e c s
  | .strm h c a b w => Sys2Proof.Machine.execStrm h c a b w s
  | .strmx h c a w => Sys2Proof.Machine.execStrmx h c a w s
  | .strmxUnbind w => Sys2Proof.Machine.execStrmxUnbind w s
  | .pref a b w l => Sys2Proof.Machine.execPref a b w l s
  | .copy h c a b hs => Sys2Proof.Machine.execCopy h c a b hs s
  | .copyBlock c a => Sys2Proof.Machine.execCopyBlock c a s
  | .qcopy h c a b x hs => Sys2Proof.Machine.execQcopy h c a b x hs s
  | .qcopyBlock c a => Sys2Proof.Machine.execQcopyBlock c a s
  | .relay h c a b t => Sys2Proof.Machine.execRelay h c a b t s
  | .coll c a sw t o k => Sys2Proof.Machine.execColl c a sw t o k s
  | .encf c a e => Sys2Proof.Machine.execEncf c a e s
  | .cwait c k => Sys2Proof.Machine.execCwait c k s
  | .cwaitX c a => Sys2Proof.Machine.execCwaitX c a s
  | .cread c a => Sys2Proof.Machine.execCread c a s
  | .creadClr c a => Sys2Proof.Machine.execCreadClr c a s
  | .gld g d w => Sys2Proof.Machine.execGld g d w s
  | .gscat g d w c => Sys2Proof.Machine.execGscat g d w c s
  | .fencex b a => Sys2Proof.Machine.execFencex b a s
  | .vfence sc => Sys2Proof.Machine.execVfence sc s
  | .bar sc => Sys2Proof.Machine.execBar sc s
  | .bara sc => Sys2Proof.Machine.execBara sc s
  | .barw sc => Sys2Proof.Machine.execBarw sc s
  | .sbarr d a n => Sys2Proof.Machine.execSbarr d a n s
  | .sbarw d a n => Sys2Proof.Machine.execSbarw d a n s
  | .sbind c n => Sys2Proof.Machine.execSbind c n s
  | .launch d a => Sys2Proof.Machine.execLaunch d a s
  | .launchW d a => Sys2Proof.Machine.execLaunchW d a s
  | .wordNotInstruction e w => Sys2Proof.Machine.execWordNotInstruction e w s
  | .matrixQueueStart hid => Sys2Proof.Machine.execMatrixQueueStart hid s
  | .matrixInstructionComplete hid => Sys2Proof.Machine.execMatrixInstructionComplete hid s
  | .mfetchRowValid hid f => Sys2Proof.Machine.execMfetchRowValid hid f s
  | .mfetchComplete hid f => Sys2Proof.Machine.execMfetchComplete hid f s
  | .engineCommandEnd hid c => Sys2Proof.Machine.execEngineCommandEnd hid c s
  | .engineCommandFault hid c cause addr => Sys2Proof.Machine.execEngineCommandFault hid c cause addr s
  | .copyUnitArrival hid c => Sys2Proof.Machine.execCopyUnitArrival hid c s
  | .sheetMoving r => Sys2Proof.Machine.execSheetMoving r s
  | .sheetNew r => Sys2Proof.Machine.execSheetNew r s
  | .collDelivery hid c parts => Sys2Proof.Machine.execCollDelivery hid c parts s
  | .collTimeout hid c => Sys2Proof.Machine.execCollTimeout hid c s
  | .encfBandRead hid c => Sys2Proof.Machine.execEncfBandRead hid c s
  | .bankAdd hid n => Sys2Proof.Machine.execBankAdd hid n s
  | .streamRefill hid w => Sys2Proof.Machine.execStreamRefill hid w s
  | .completionWord serial => Sys2Proof.Machine.execCompletionWord serial s
  | .preemptionPointReached hid => Sys2Proof.Machine.execPreemptionPointReached hid s
  | .contextSave hid => Sys2Proof.Machine.execContextSave hid s
  | .freeCountReport die places => Sys2Proof.Machine.execFreeCountReport die places s
  | .placementConfirm ok image => Sys2Proof.Machine.execPlacementConfirm ok image s
  | .gangYield serial g => Sys2Proof.Machine.execGangYield serial g s
  | .aging serial g => Sys2Proof.Machine.execAging serial g s
  | .unplaceableReservation inst => Sys2Proof.Machine.execUnplaceableReservation inst s
  | .criticalLaunch serial inst => Sys2Proof.Machine.execCriticalLaunch serial inst s
  | .timeSharePreempt serial g vserial vg => Sys2Proof.Machine.execTimeSharePreempt serial g vserial vg s
  | .worldSwitch part => Sys2Proof.Machine.execWorldSwitch part s
  | .vwaitWake hid => Sys2Proof.Machine.execVwaitWake hid s
  | .cwaitWake hid => Sys2Proof.Machine.execCwaitWake hid s
  | .sbarwWake hid => Sys2Proof.Machine.execSbarwWake hid s
  | .barwWake hid => Sys2Proof.Machine.execBarwWake hid s
  | .launchWWake hid => Sys2Proof.Machine.execLaunchWWake hid s
  | .fifoAccessWake hid => Sys2Proof.Machine.execFifoAccessWake hid s
  | .dispatchStallEnd hid => Sys2Proof.Machine.execDispatchStallEnd hid s
  | .scallAnswer hid => Sys2Proof.Machine.execScallAnswer hid s
  | .migrationRewalk hid => Sys2Proof.Machine.execMigrationRewalk hid s
  | .remoteTimeout hid => Sys2Proof.Machine.execRemoteTimeout hid s
  | .peerAccess q => Sys2Proof.Machine.execPeerAccess q s
  | .flitReplay port => Sys2Proof.Machine.execFlitReplay port s
  | .linkDown port => Sys2Proof.Machine.execLinkDown port s
  | .linkTrainingEnd port lanes => Sys2Proof.Machine.execLinkTrainingEnd port lanes s
  | .linkTrainRequest port => Sys2Proof.Machine.execLinkTrainRequest port s
  | .cxlLinkLoss port => Sys2Proof.Machine.execCxlLinkLoss port s
  | .laneGroupFailure core grp => Sys2Proof.Machine.execLaneGroupFailure core grp s
  | .correctedError die site => Sys2Proof.Machine.execCorrectedError die site s
  | .evictionDataError pa dom => Sys2Proof.Machine.execEvictionDataError pa dom s
  | .bankRetirement die quad bank => Sys2Proof.Machine.execBankRetirement die quad bank s
  | .mbpost fn q v => Sys2Proof.Machine.execMbpost fn q v s
  | .dispatchProgramStart q => Sys2Proof.Machine.execDispatchProgramStart q s
  | .bar2Read off n => Sys2Proof.Machine.execBar2Read off n s
  | .bar2Write off bytes => Sys2Proof.Machine.execBar2Write off bytes s
  | .hostAccessViolation src kind addr => Sys2Proof.Machine.execHostAccessViolation src kind addr s
  | .registerWrite fn off v => Sys2Proof.Machine.execRegisterWrite fn off v s
  | .sessionPin v => Sys2Proof.Machine.execSessionPin v s
  | .sessionRelease v => Sys2Proof.Machine.execSessionRelease v s
  | .sessionRequestDone => Sys2Proof.Machine.execSessionRequestDone s
  | .bankModeChange die quad bank mode => Sys2Proof.Machine.execBankModeChange die quad bank mode s
  | .bankModeChangeDone die quad bank => Sys2Proof.Machine.execBankModeChangeDone die quad bank s
  | .tlbinvPage v => Sys2Proof.Machine.execTlbinvPage v s
  | .tlbinvAsid v => Sys2Proof.Machine.execTlbinvAsid v s
  | .tlbinvAll v => Sys2Proof.Machine.execTlbinvAll v s
  | .tlbinvDone => Sys2Proof.Machine.execTlbinvDone s
  | .fnrootWrite f v => Sys2Proof.Machine.execFnrootWrite f v s
  | .fnownWrite f v => Sys2Proof.Machine.execFnownWrite f v s
  | .partWrite n v => Sys2Proof.Machine.execPartWrite n v s
  | .vfmapWrite f v => Sys2Proof.Machine.execVfmapWrite f v s
  | .functionLevelReset f => Sys2Proof.Machine.execFunctionLevelReset f s
  | .vfEnableClear => Sys2Proof.Machine.execVfEnableClear s
  | .pfFunctionLevelReset => Sys2Proof.Machine.execPfFunctionLevelReset s
  | .functionResetComplete f => Sys2Proof.Machine.execFunctionResetComplete f s
  | .freeze => Sys2Proof.Machine.execFreeze s
  | .freezeComplete => Sys2Proof.Machine.execFreezeComplete s
  | .thaw => Sys2Proof.Machine.execThaw s
  | .fwVerifyStaged => Sys2Proof.Machine.execFwVerifyStaged s
  | .fwRaiseRollback => Sys2Proof.Machine.execFwRaiseRollback s
  | .fwOperationDone => Sys2Proof.Machine.execFwOperationDone s
  | .attestationRequest => Sys2Proof.Machine.execAttestationRequest s
  | .attestationDone => Sys2Proof.Machine.execAttestationDone s
  | .powerCap v => Sys2Proof.Machine.execPowerCap v s
  | .powerOff => Sys2Proof.Machine.execPowerOff s
  | .powerThrottle watts => Sys2Proof.Machine.execPowerThrottle watts s
  | .thermalThrottle die temp => Sys2Proof.Machine.execThermalThrottle die temp s
  | .thermalTrip die => Sys2Proof.Machine.execThermalTrip die s
  | .moduleReset => Sys2Proof.Machine.execModuleReset s
  | .firmwareVerified => Sys2Proof.Machine.execFirmwareVerified s
  | .pcieLinkTrained => Sys2Proof.Machine.execPcieLinkTrained s
  | .hbmTrained => Sys2Proof.Machine.execHbmTrained s
  | .cxlEnumerated up cap => Sys2Proof.Machine.execCxlEnumerated up cap s
  | .diesReleased => Sys2Proof.Machine.execDiesReleased s
  | .powerLoss => Sys2Proof.Machine.execPowerLoss s
  | .colophonFlush => Sys2Proof.Machine.execColophonFlush s
  | .colophonHour => Sys2Proof.Machine.execColophonHour s
  | .debuggerResume hid pc => Sys2Proof.Machine.execDebuggerResume hid pc s
  | .remoteAccessResponse hid => Sys2Proof.Machine.execRemoteAccessResponse hid s
  | .pageMigration asid va frame => Sys2Proof.Machine.execPageMigration asid va frame s

end Sys2Proof.Machine
end

