-- ==== Sys2Proof/Machine/Schedule.lean ====
section
/-!
DEFINITION. What moves next (log 2). The spec orders the steps of the harts, the engines, the hub and the outside world
only in part. `State.agenda` says which comes next; where it says nothing, the hart whose turn it is goes on, else a step
that the module makes by itself and that changes something, else another hart that can go on.
-/
namespace Sys2Proof.Machine

open Sys2Proof

/-- A step has changed something. -/
def changes (s : State) (o : Out) : Bool :=
  match o with
  | .next t => decide (t ≠ s)
  | _ => true

/-! ## A hart's turn -/

/-- The hart has a status in which it executes: it runs, or it waits for something other than a wake and performs its
instruction again (R20, R182, R204, R227, R337). -/
def goesOn (h : Hart) : Bool :=
  match h.status with
  | .running => true
  | .waiting w =>
    match w with
    | .fifo _ => true
    | .stall => true
    | .drain => true
    | .halt => true
    | .migration => true
    | .remote => h.remote.isSome
    | _ => false
  | _ => false

/-- The hart may execute: on its core; on the hub while the module is not frozen, where an access to a remote module whose
response has arrived completes first (R377). -/
def mayRun (s : State) (h : Hart) : Bool :=
  s.power && goesOn h && (if h.who.dispatch then s.hub.snap == 0 || h.remote.isSome else h.who.resident && !h.stopped)

/-! ## Pins (R212, R281, R335) -/

/-- The instruction is one of those that pin their pages in the core's pin store: ordered and unordered vector instructions
(R212, R335). -/
def pinsPages (i : Instr) : Bool :=
  let m := (fld (wordOf i) 25 7).toNat
  decide (0x61 ≤ m) && decide (m ≤ 0x65) || m == 0x77

/-- Runs of consecutive pages of one size, from pages in rising order (R335). -/
def mergeRuns : List (Nat × Nat) → List PinRun
  | [] => []
  | (lg, p) :: t =>
    match mergeRuns t with
    | [] => [{ size := lg, first := p, n := 1 }]
    | r :: rs => if r.size = lg && r.first = p + 1 then { r with first := p, n := r.n + 1 } :: rs else { size := lg, first := p, n := 1 } :: r :: rs

/-- The runs of pages that an instruction which starts in `s` touches: of a vector instruction, those of every active element. -/
def pinRuns (s : State) (i : Instr) : List PinRun :=
  let all (w : WinOp) (un : Bool) : List Nat := if stageOff s then [] else performedElems s s w un none
  let spans := scalarSpans s s i ++ elementSpans s (wm s 0 (BitVec.allOnes 1024)) i all fun n => pendingElems s n fun _ => true
  let pages := (((spanLines spans).map (· / 1024)).eraseDups).filterMap fun p =>
    match lookup s (s.hart.space s) (p * 65536) with
    | .leaf _ lg => some (lg, p * 65536 / 2 ^ lg)
    | _ => none
  mergeRuns (sortBy (fun x => [x.1, x.2]) pages.eraseDups)

/-- The pin store of a core (R335). -/
def pinRoom : Nat := 1024

/-- The pins of an access under way, which holds its own pages only; a vector instruction of more runs than the store has holds
its whole address space instead (R335). -/
def narrowPins (s : State) (i : Instr) (p : Pins) : Pins :=
  let rs := pinRuns s i
  if pinsPages i && decide (pinRoom < rs.length) then { p with runs := [], whole := true, store := false }
  else { p with runs := rs, whole := false, store := pinsPages i }

/-- The runs in the pin store of a hart's core that accesses under way hold: those of the other harts, and of the hart's own loads
that have not performed. -/
def pinsHeld (s : State) : Nat :=
  let stored (p : Pins) : Nat := if p.store then p.runs.length else 0
  let own (h : Hart) : Nat := (h.weak.late.map fun l => stored l.pins).sum
  own s.hart + ((s.others.filter fun h => h.who.resident && coreOf h.who == coreOf s.hart.who).map fun h =>
    own h + (match h.pins with | some p => stored p | none => 0)).sum

/-- The instruction's runs do not fit the free entries of the pin store: it waits for earlier instructions of the core (R335). -/
def pinsFull (s : State) (i : Instr) : Bool :=
  pinsPages i && s.hart.pins.isNone && pinsHeld s != 0
  && (let n := (pinRuns s i).length
      decide (n ≤ pinRoom) && decide (pinRoom < pinsHeld s + n))

/-- An instruction that has come to a wait with its translations made keeps those of its pages. -/
def keepPins (s : State) (i : Instr) (o : Out) : Out :=
  match o with
  | .next t =>
    (match s.hart.pins, t.hart.pins with
    | none, some p => .next { t with hart := { t.hart with pins := some (narrowPins s i p) } }
    | _, _ => o)
  | r => r

/-! ## Dependences of one stream on the other (R270) -/

/-- The major of an instruction. -/
def major (i : Instr) : Nat := (fld (wordOf i) 25 7).toNat

/-- The X registers that an instruction names, by its format (R89). -/
def xNames (i : Instr) : List (BitVec 5) :=
  let w := wordOf i
  let m := major i
  let at_ (ks : List Nat) : List (BitVec 5) := ks.map fun k => fld w k 5
  if m = 0x01 || m = 0x10 || m = 0x66 then at_ [20, 15, 10]
  else if m = 0x04 || m = 0x05 || m = 0x0C then at_ [20]
  else if m ≤ 0x0F then at_ [20, 15]
  else if m = 0x22 || m = 0x40 || m = 0x64 || m = 0x65 then at_ [8]
  else if m = 0x43 || m = 0x51 || m = 0x7A || m = 0x7B then at_ [20, 15]
  else if m = 0x68 then at_ [15, 10]
  else if (0x52 ≤ m && m ≤ 0x57) || (0x61 ≤ m && m ≤ 0x63) || m = 0x67 || (0x70 ≤ m && m ≤ 0x72) then at_ [12, 7]
  else if m = 0x60 || (0x73 ≤ m && m ≤ 0x76) then at_ [12]
  else []

/-- An instruction of the scalar stream that computes X[d] from the registers it names, [24:20] first. -/
def scalarCompute (i : Instr) : Bool :=
  let m := (fld (wordOf i) 25 7).toNat
  (decide (0x01 ≤ m) && decide (m ≤ 0x05)) || m == 0x0C || m == 0x0D || m == 0x10

/-- An instruction whose destination is a source too. -/
def readsDst (i : Instr) : Bool :=
  match i with
  | .sel _ _ _ => true
  | .ffma _ _ _ _ => true
  | _ => false

/-- The destination of a load of the scalar stream. -/
def scalarLoadDst : Instr → Option (BitVec 5)
  | .ldb d _ _ => some d
  | .ldh d _ _ => some d
  | .ldw d _ _ => some d
  | .ldd d _ _ => some d
  | .ldbn d _ _ => some d
  | .ldhn d _ _ => some d
  | .ldwn d _ _ => some d
  | .amo d _ _ _ _ _ _ _ => some d
  | .vwait d _ _ _ _ => some d
  | _ => none

/-- An instruction that reads memory into windows or handles. -/
def loadsContext (i : Instr) : Bool :=
  match i with
  | .hld _ _ => true
  | .hset _ n _ => n == 0#4
  | .wload _ _ _ => true
  | _ => false

/-- A set of X registers with one in it, or not; X0 depends on nothing. -/
def markX (t : BitVec 32) (d : BitVec 5) (on : Bool) : BitVec 32 :=
  if d = 0#5 then t else if on then t ||| (1#32 <<< d.toNat) else t &&& ~~~(1#32 <<< d.toNat)

/-- The X registers that depend on a load of the scalar stream made since a view of the vector stream was taken, after an
instruction; none where the dependence goes into windows, masks, VL, modes or handles, so that the view serves no longer. -/
def taintAfter (i : Instr) (t : BitVec 32) : Option (BitVec 32) :=
  let m := (fld (wordOf i) 25 7).toNat
  let on (r : BitVec 5) : Bool := t.getLsbD r.toNat
  match scalarLoadDst i with
  | some d => some (markX t d true)
  | none =>
    if scalarCompute i then
      some (markX t (fld (wordOf i) 20 5) ((if readsDst i then xNames i else (xNames i).drop 1).any on))
    else if m ≤ 0x0E || (0x61 ≤ m && m ≤ 0x65) then some t
    else if loadsContext i || (xNames i).any on then none
    else some t

/-- An instruction by which what vector loads have returned reaches the scalar stream. -/
def bringsVector (i : Instr) : Bool :=
  match i with
  | .mcnt _ _ => true
  | .mfirst _ _ => true
  | .mpopvl _ _ => true
  | .setvl _ _ => true
  | .csrr _ n => n == 0x003#12
  | _ => false

/-- The views that still serve after an instruction (R270). -/
def Weak.follow (w : Weak) (i : Instr) : Weak :=
  { w with
    viewS := if bringsVector i then none else w.viewS
    viewV := w.viewV.bind fun v => (taintAfter i v.taint).map fun t => { v with taint := t } }

/-- An instruction has been executed: what a hart's views depend on. -/
def followed (i : Instr) (o : Out) : Out :=
  match o with
  | .next t => if t.hart.weak.viewS.isNone && t.hart.weak.viewV.isNone then o else .next { t with hart := { t.hart with weak := t.hart.weak.follow i } }
  | r => r

/-! ## One instruction -/

/-- An instruction is executed, with what goes with it: the room of its pins, the pins it keeps, its events, and the dependences
of the streams. -/
def issue (s : State) (i : Instr) : Out :=
  if pinsFull s i then .next (waitOn s .stall) else followed i (keepPins s i (withEvents s i (exec i s)))

/-- The hart fetches the instruction at its pc, decodes it and executes it (R101, R338); a HALT that waits goes on. -/
def runHart (s : State) : Out :=
  if s.hart.status = .waiting .halt then execHalt s
  else match fetchWord s with
  | .trap c a => .next (takeTrap s (plainTrap c (BitVec.ofNat 64 a)))
  | .wait w => .next (waitOn s w)
  | .ok w =>
    match decodeWord s.hart.who.dispatch w with
    | .ok i => issue s i
    | .error e => execWordNotInstruction e w s

/-! ## Accesses under way (R269) -/

/-- Memory and the banks as they are now. -/
def viewNow (s : State) : View := { mem := s.mem, poison := s.poison, banks := s.banks.map fun b => (b.1, b.2.data), taint := 0, seen := [] }

/-- An access that stores, in its place in its stream. -/
def lateStores (i : Instr) : Bool :=
  match i with
  | .amo _ _ _ _ _ _ _ _ => true
  | .vamo _ _ _ _ _ _ => true
  | .vamoOrd _ _ _ _ _ _ => true
  | .scond _ _ _ => true
  | _ => false

/-- One that may raise a trap by its values. -/
def mayFlag (i : Instr) : Bool :=
  match i with
  | .ldt _ _ _ _ => true
  | .vamo _ _ _ _ _ _ => true
  | .vamoOrd _ _ _ _ _ _ => true
  | _ => false

/-- An instruction that hands work to an engine by a block that it loads on the scalar stream (R227). -/
def blockOp (i : Instr) : Bool :=
  match i with
  | .strmx _ _ _ _ => true
  | .copyBlock _ _ => true
  | .qcopyBlock _ _ => true
  | .coll _ _ _ _ _ _ => true
  | .encf _ _ _ => true
  | _ => false

/-- LAUNCH and LAUNCH.W, which load a record. -/
def launchOp (i : Instr) : Bool :=
  match i with
  | .launch _ _ => true
  | .launchW _ _ => true
  | _ => false

/-- An access of the scalar stream that may perform after later instructions. -/
def scalarLate (i : Instr) : Bool := (scalarLoadDst i).isSome || loadsContext i || blockOp i || launchOp i

/-- An access that may perform after later instructions. -/
def mayBeLate (i : Instr) : Bool := vectorOp i || scalarLate i

/-- An instruction that makes accesses of the scalar stream (R266). -/
def scalarAccesses (i : Instr) : Bool :=
  scalarLate i || (match i with
    | .stb _ _ _ => true
    | .sth _ _ _ => true
    | .stw _ _ _ => true
    | .std _ _ _ => true
    | .hst _ _ => true
    | .wsave _ _ _ => true
    | _ => false)

/-- An instruction that makes accesses of the vector stream. -/
def vectorAccesses (i : Instr) : Bool :=
  vectorOp i || (match i with
    | .stt _ _ _ _ => true
    | .stv _ _ => true
    | .sts _ _ _ => true
    | .scat _ _ _ => true
    | .wspill _ _ => true
    | _ => false)

/-- The two are accesses of one stream. -/
def sameStream (l : Late) (i : Instr) : Bool := if vectorOp l.op then vectorAccesses i else scalarAccesses i

/-- The X register that an access under way writes. -/
def lateDst (i : Instr) : Option (BitVec 5) :=
  match i with
  | .launch d _ => some d
  | .launchW d _ => some d
  | i => scalarLoadDst i

/-- The handle that it writes. -/
def lateHandle (i : Instr) : Option (BitVec 4) :=
  match i with
  | .hld h _ => some h
  | .hset h _ _ => some h
  | _ => none

/-- The windows that it sets, or binds. -/
def lateWins (i : Instr) : List (BitVec 6) :=
  match i with
  | .wload d a _ => winRange d a
  | .wfill d _ => [d]
  | .strmx _ _ _ w => [w]
  | _ => []

/-- The windows that an instruction names, by its format (R89). -/
def wNames (i : Instr) : List (BitVec 6) :=
  let w := wordOf i
  let m := major i
  let at_ (ks : List Nat) : List (BitVec 6) := ks.map fun k => fld w k 6
  match i with
  | .wsave d a _ => winRange d a
  | .wload d a _ => winRange d a
  | _ =>
    if (0x20 ≤ m && m ≤ 0x27) || m = 0x64 || m = 0x65 then at_ [19, 13, 7]
    else if m = 0x40 || m = 0x42 then at_ [19, 13]
    else if m = 0x43 then at_ [0]
    else if m = 0x50 || m = 0x77 then at_ [15, 9]
    else if (0x52 ≤ m && m ≤ 0x57) || (0x61 ≤ m && m ≤ 0x63) || m = 0x67 then at_ [1]
    else []

/-- The instruction may use handle `h`: it names it, or it is one that uses further handles. -/
def usesHandle (i : Instr) (h : BitVec 4) : Bool :=
  let m := major i
  if m = 0x60 || m = 0x61 || m = 0x67 then fld (wordOf i) 21 4 == h
  else (decide (0x52 ≤ m) && decide (m ≤ 0x57)) || (decide (0x70 ≤ m) && decide (m ≤ 0x74)) || m == 0x77

/-- The instruction reads or writes M0, in the state in which it is dispatched. -/
def usesM0 (s : State) (i : Instr) : Bool :=
  let m := major i
  let g := wBits s.hart.vec.vmode 19 2
  ((decide (0x20 ≤ m) && decide (m ≤ 0x27) || decide (0x61 ≤ m) && decide (m ≤ 0x65) || m == 0x77)
    && (g == 1 || g == 2) && wBits s.hart.vec.vmode 21 4 == 0)
  || (match i with
    | .scond _ _ _ => true
    | .vsel _ _ _ k => k == 0#4
    | .mpopvl _ k => k == 0#6
    | .mcnt _ k => k == 0#6
    | .mfirst _ k => k == 0#6
    | _ => (m == 0x21 || m == 0x45) && ([19, 13, 7].any fun k => fld (wordOf i) k 6 == 0))

/-- The CSR that an instruction reads or writes. -/
def csrNamed : Instr → Option (BitVec 12)
  | .csrr _ n => some n
  | .csrw _ n => some n
  | .csrs _ n => some n
  | .csrc _ n => some n
  | _ => none

/-- An instruction that hands work to an engine, or waits for none (R227). -/
def engineWork (i : Instr) : Bool :=
  let m := major i
  (decide (0x50 ≤ m) && decide (m ≤ 0x57)) || m == 0x67 || (decide (0x70 ≤ m) && decide (m ≤ 0x74)) || m == 0x77

/-- A FENCEX that orders nothing (R99), or a PREF. -/
def orderless (i : Instr) : Bool :=
  match i with
  | .fencex b a => b == 0#8 || a == 0#8
  | .pref _ _ _ _ => true
  | _ => false

/-- The cells of every window that a matrix instruction names, as the windows stand. -/
def matrixCells (s : State) (i : Instr) : List Span := (wNames i).flatMap fun r => allSpans (winOp s r 1).whole

/-- The instruction depends on an access under way: it uses, or changes, a register or a cell that the access writes, or cells
that it reads (R270); or an atomic's ACQ or REL is between them (R219). Cells of vector instructions are held by `heldBack`. -/
def clashes (s : State) (l : Late) (i : Instr) : Bool :=
  let m := major i
  (match lateDst l.op with
    | some d => d != 0#5 && (xNames i).contains d
    | none => false)
  || (match lateHandle l.op with
    | some h => usesHandle i h
    | none => false)
  || (lateWins l.op).any (wNames i).contains
  || (match l.op with
    | .scond _ _ _ => usesM0 s i
    | .ldt _ _ _ _ => csrNamed i == some 0x003#12
    | .vamo _ _ _ q r p => (p == 7#4 && csrNamed i == some 0x003#12) || ((q == 1#1 || r == 1#1) && engineWork i)
    | .vamoOrd _ _ _ q r p => (p == 7#4 && csrNamed i == some 0x003#12) || ((q == 1#1 || r == 1#1) && engineWork i)
    | .amo _ _ _ _ _ q r p => (p == 7#4 && csrNamed i == some 0x004#12) || ((q == 1#1 || r == 1#1) && engineWork i)
    | o => blockOp o && !sameStream l i && !orderless i && (decide (0x50 ≤ m) && decide (m ≤ 0x57) || decide (0x67 ≤ m)))
  || (decide (0x50 ≤ m) && decide (m ≤ 0x57) && vectorOp l.op && l.holds (matrixCells s i) (matrixCells s i))

/-- The instruction orders an access under way before what follows it (R273), or ends the stream. -/
def ordersAfter (l : Late) (i : Instr) : Bool :=
  let vec := vectorOp l.op
  match i with
  | .vfence _ => vec && lateStores l.op
  | .bar _ => !vec || lateStores l.op
  | .bara _ => !vec || lateStores l.op
  | .sbarr _ _ _ => !vec || lateStores l.op
  | .cfence => !vec
  | .halt => true
  | .trap _ => true
  | .scall _ _ => true
  | .brk => true
  | _ => false

/-- The instruction may perform while these have not. -/
def mayPass (s : State) (ls : List Late) (i : Instr) : Bool :=
  ls.all fun l => !sameStream l i && !clashes s l i && !ordersAfter l i

/-- The access may come under way behind these. -/
def mayQueue (s : State) (ls : List Late) (i : Instr) : Bool := ls.all fun l => !clashes s l i

/-- The link set as it will be when these have performed: GLINK makes one, and SCOND takes it (R217). -/
def lateLink (ls : List Late) (link : Option (List (Nat × Bool))) : Option (List (Nat × Bool)) :=
  ls.foldl (fun k l => match l.op with
    | .glink _ _ _ => some []
    | .scond _ _ _ => none
    | _ => k) link

/-- The instruction that the hart's turn would execute, if it is one. -/
def nextInstr (s : State) : Option Instr :=
  if s.hart.status = .running then instrAt s else none

/-- The step has completed an instruction: no trap, no wait, no end of the hart. -/
def quietStep (s : State) : Out → Bool
  | .next t => t.hart.status == .running && t.hart.trap == s.hart.trap && t.hart.who == s.hart.who
  | _ => false

/-- The step has come to a park (R20), in which accesses under way may perform. -/
def parkStep (s : State) : Out → Bool
  | .next t => parked t.hart && t.hart.trap == s.hart.trap
  | _ => false

/-- What an instruction would come to if it were performed now, with those under way before it done. -/
def tryNow (s : State) (i : Instr) : Out :=
  exec i (withEng { s with hart := { s.hart with strike := some .probe } } fun g => { g with link := lateLink s.hart.weak.late g.link })

/-- No address of a vector access depends on a load that its stream's view does not follow (R270), and no window of it is bound
to a stream (R222). -/
def freeNames (s : State) (i : Instr) : Bool :=
  !vectorOp i || ((match s.hart.weak.viewV with | some v => (xNames i).all fun r => !v.taint.getLsbD r.toNat | none => true)
    && (wNames i).all fun r => (boundTo s r.toNat).isNone)

/-- The hart's next instruction may be dispatched and perform later: an access that meets nothing, whose values raise no trap
(R139), behind those already under way. -/
def mayDelay (s : State) (i : Instr) : Bool :=
  mayBeLate i && mayQueue s s.hart.weak.late i && !(mayFlag i && modeTe s.hart.vec.vmode != 0) && freeNames s i
  && !pinsFull s i && mayRun s s.hart && quietStep s (tryNow s i)

/-- The hart's next instruction is dispatched: what it captures is kept (R47, R281), and it performs later. VSTART and CMASK are as
it leaves them. -/
def beginLate (s : State) : State :=
  match nextInstr s with
  | none => s
  | some i =>
    if !mayDelay s i then s
    else match tryNow s i with
      | .next u =>
        let h := s.hart
        let l : Late :=
          { id := s.nextId, op := i, pc := h.pc, x := h.x, vec := { h.vec with galley := [] }, fcsr := h.fcsr, h := h.h, mvl := h.mat.mvl
            claimed := h.mat.claimed, fences := h.eng.fences, pins := narrowPins s i (pinsNow s (h.space s)), back := viewNow s
            since := s.time }
        { s with
          nextId := s.nextId + 1
          hart := { h with
            pc := h.pc + 4
            vec := { h.vec with vstart := u.hart.vec.vstart, cmask := u.hart.vec.cmask }
            weak := { h.weak with late := h.weak.late ++ [l] } } }
      | _ => s

/-- The hart as an access under way performs in it: with what it captured, and memory, cells, flags and engines as they are. -/
def Late.enter (l : Late) (h : Hart) : Hart :=
  { h with
    pc := l.pc, x := l.x, status := .running, pins := some l.pins, fcsr := l.fcsr, h := l.h
    vec := { l.vec with galley := h.vec.galley, vflags := h.vec.vflags }
    mat := if vectorOp l.op then { h.mat with mvl := l.mvl, claimed := l.claimed, mq := [], fetches := [] } else h.mat
    eng := { h.eng with fences := l.fences }
    weak := { h.weak with late := [] } }

/-- The X registers after an access under way has performed: what it captured counts for nothing else. -/
def lateX (op : Instr) (now done : Vector Word 32) : Vector Word 32 :=
  match lateDst op with
  | some d => now.set d.toNat (done.get d.toFin) d.isLt
  | none => now

/-- The handles after it. -/
def lateH (op : Instr) (now done : Vector Handle 16) : Vector Handle 16 :=
  match lateHandle op with
  | some h => now.set h.toNat (done.get h.toFin) h.isLt
  | none => now

/-- The vector state after it: cells, flags, the windows that it sets, and M0 of a SCOND. -/
def lateVec (op : Instr) (now done : VecState) : VecState :=
  let wins := match op with
    | .strmx _ _ _ _ => []
    | _ => lateWins op
  { now with
    galley := done.galley, vflags := done.vflags
    w := wins.foldl (fun w r => w.set r.toNat (done.w.get r.toFin) r.isLt) now.w
    m := match op with
      | .scond _ _ _ => now.m.set 0 (done.m.get 0)
      | _ => now.m }

/-- The hart after an access under way has performed, from how it stands and how the access has left it: the accesses still under
way, `rest`, among it. -/
def Late.leave (l : Late) (now done : Hart) (rest : List Late) : Hart :=
  { done with
    pc := now.pc, x := lateX l.op now.x done.x, status := now.status, waitFrom := now.waitFrom, remote := now.remote, pins := now.pins
    fcsr := now.fcsr ||| (done.fcsr &&& ~~~l.fcsr)
    h := lateH l.op now.h done.h
    vec := lateVec l.op now.vec done.vec
    mat := now.mat
    eng := { done.eng with fences := now.eng.fences }
    weak := { done.weak with late := rest } }

/-- The stores of a stream before an access under way have performed: it is the oldest from now on (R268). -/
def restamp (vec : Bool) (s : State) : State :=
  { s with hart := { s.hart with weak := { s.hart.weak with
    late := s.hart.weak.late.map fun l => if vectorOp l.op == vec then { l with since := s.time } else l } } }

/-- The oldest access of a stream, those before it and those behind it. -/
def splitLate (vec : Bool) : List Late → Option (List Late × Late × List Late)
  | [] => none
  | l :: t =>
    if vectorOp l.op == vec then some ([], l, t)
    else (splitLate vec t).map fun x => (l :: x.1, x.2.1, x.2.2)

/-- An instruction is executed with its events and what the views make of it. -/
def runOp (i : Instr) (s : State) : Out := followed i (withEvents s i (exec i s))

/-- The hart has halted with DATA_UE. -/
def dataError (o : Out) : Bool :=
  match o with
  | .next t => t.hart.status == .halted && t.hart.trap.tcause.setWidth 8 == causeDataUe
  | _ => false

/-- The oldest access of a stream that is under way performs. Where it no longer could without a trap or a wait, a load performs as at
its dispatch, which is a place in the order as well; an uncorrectable error that it meets now is its trap (R344), and squashes what
is behind it. -/
def performLate (vec : Bool) (s : State) : Out :=
  match splitLate vec s.hart.weak.late with
  | none => .next s
  | some (older, l, younger) =>
    let t := { s with hart := l.enter s.hart }
    let done (u : State) : Out :=
      let v := { u with hart := l.leave s.hart u.hart (older ++ younger) }
      .next (if lateStores l.op then restamp vec v else v)
    match runOp l.op t with
    | .next u =>
      if quietStep t (.next u) then done u
      else match dataError (.next u) || lateStores l.op, runOp l.op (l.back.state t) with
        | false, .next v =>
          let d := drain s vec
          if quietStep t (.next v) then done { v with mem := d.mem, poison := d.poison, banks := d.banks } else .next s
        | _, _ =>
          if u.hart.trap == s.hart.trap then .next s
          else .next { u with hart := { u.hart with mat := s.hart.mat, weak := { u.hart.weak with late := older } } }
    | r => r

/-- The oldest of all accesses under way performs. -/
def performFirst (s : State) : Out :=
  match s.hart.weak.late with
  | [] => .next s
  | l :: _ => performLate (vectorOp l.op) s

/-- Accesses of a stream perform, the oldest first, while one that stores has been the oldest store for 2 µs (R268). -/
def dueOf (vec : Bool) : Nat → State → State
  | 0, s => s
  | n + 1, s =>
    if s.hart.weak.late.any fun l => vectorOp l.op == vec && lateStores l.op && decide (l.since + 2000 ≤ s.time) then
      match performLate vec s with
      | .next t => if t.hart.weak.late.length < s.hart.weak.late.length then dueOf vec n t else s
      | _ => s
    else s

/-- The same for every hart. -/
def lateDue (s : State) : State :=
  let home := s.hart.who.id
  let t := ((allHarts s).filter fun h => !h.weak.late.isEmpty).foldl (fun u h =>
    match focus u h.who.id with
    | some v => dueOf true v.hart.weak.late.length (dueOf false v.hart.weak.late.length v)
    | none => u) s
  (focus t home).getD t

/-- The hart's turn: with accesses under way, an instruction that may pass them, else the oldest of them. -/
def runTurn (s : State) : Out :=
  match s.hart.weak.late with
  | [] => runHart s
  | ls =>
    match (nextInstr s).map (mayPass s ls) with
    | some true => if quietStep s (runHart s) || parkStep s (runHart s) then runHart s else performFirst s
    | _ => performFirst s

/-- Hart `hid` takes its turn, by `f`. -/
def turnBy (f : State → Out) (s : State) (hid : Nat) : Out :=
  match focus s hid with
  | none => .next s
  | some t => if mayRun t t.hart then f t else .next s

/-- Hart `hid` takes its turn. -/
def takeTurn (s : State) (hid : Nat) : Out := turnBy runTurn s hid

/-! ## What befalls an instruction inside it (R21, R344, R369, R370) -/

/-- A turn in which the instruction is struck. Accesses under way perform first. -/
def struckTurn (k : Strike) (s : State) : Out :=
  if !s.hart.weak.late.isEmpty then performFirst s
  else match runHart { s with hart := { s.hart with strike := some k } } with
    | .next t => .next { t with hart := { t.hart with strike := none } }
    | r => r

/-- The turn of a hart that has been asked to stop. -/
def stopTurn (k : Nat) (done : BitVec 1024) (s : State) : Out := if s.hart.stopReq then struckTurn (.stop k done) s else .next s

/-- The hart has been halted in the step. -/
def fell (s : State) (t : State) : Bool := t.hart.status == .halted && s.hart.status != .halted

/-- A lane's arithmetic has failed beyond correction: its group is to be retired (R370). -/
def laneFails (residue : Bool) (lane : Nat) (s : State) (o : Out) : Out :=
  match o with
  | .next t => .next (if residue && fell s t then failGroup t (coreOf s.hart.who) (lane / 4) else t)
  | r => r

/-- A turn that meets an uncorrectable error at an element, on one of the core's 36 lanes. -/
def cellTurn (k role lane : Nat) (residue : Bool) (s : State) : Out :=
  if 36 ≤ lane then .next s else laneFails residue lane s (struckTurn (.fault k role lane) s)

/-- A queued matrix instruction that writes a window (R196, R198). -/
def writesWindow (e : MEntry) : Bool :=
  match e.op with
  | .atow _ _ _ _ => true
  | .ared _ _ _ => true
  | _ => false

/-- The window of a role that a queued matrix instruction reads or, in the role of ATOW's and ARED's destination (log 135), writes
cells of: its number and the captured descriptor. -/
def entryOperand (e : MEntry) (role : Nat) : Option (Nat × Word) :=
  let two (a b : BitVec 6) : Option (Nat × Word) :=
    if role = 1 then some (a.toNat, e.wa) else if role = 2 then some (b.toNat, e.wb) else none
  let one (a : BitVec 6) : Option (Nat × Word) := if role = 1 then some (a.toNat, e.wa) else none
  match e.op with
  | .mrankAdd _ a b _ => two a b
  | .mrankSub _ a b _ => two a b
  | .mma _ a b => two a b
  | .mmasp _ a b => two a b
  | .wtoa _ a _ _ => one a
  | .amulr _ a => one a
  | .aaddr _ a => one a
  | .atow _ d _ _ => one d
  | .ared _ d _ => one d
  | _ => none

/-- DATA_UE of a queued matrix instruction (R368): for the element of a window that it reads, whose cell has failed, or that it
writes, whose lane result has; of the accumulator, whose words are read or formed (role 0), for the instruction. VSTART is not an
index of it, and stays. -/
def entryTrap (s : State) (e : MEntry) (k role lane : Nat) (residue : Bool) : Option Trap :=
  if writesWindow e && residue != (role != 0) then none
  else if role = 0 then some { plainTrap causeDataUe 0 with lane := groupLane lane }
  else (entryOperand e role).bind fun x =>
    let w : WinOp := { entryWin e x.2 with num := x.1, role := role }
    if count w ≤ k then none
    else some { dataTrap w false k lane with
      pos := .element w.num role false (elemCell w k).1 (k / neff w) (k % neff w) w.desc s.hart.vec.vstart }

/-- The matrix instruction under way meets an uncorrectable error. Accesses under way perform first. -/
def matTrap (k role lane : Nat) (residue : Bool) (s : State) : Out :=
  if !s.hart.weak.late.isEmpty then performFirst s
  else match s.hart.mat.mq with
  | [] => .next s
  | e :: _ =>
    match entryTrap s e k role lane residue with
    | none => .next s
    | some tr =>
      if e.started && s.hart.who.resident && !hartOver s.hart && decide (lane < 36) then laneFails residue lane s (.next (takeTrap s tr))
      else .next s

/-- A turn in which a read of the line gives an uncorrectable error. A cluster-store bank that gives one is retired (R370). -/
def badTurn (line : Nat) (s : State) : Out :=
  if s.poison.contains line then runTurn s
  else match runTurn { s with poison := s.poison ++ [line] } with
    | .next t =>
      let u := { t with poison := t.poison.filter (· ≠ line) }
      if fell s u && decide (2 ^ 48 ≤ line) then
        let b := (line - 2 ^ 48) / 8192
        execBankRetirement (b / 1024) (b / 64 % 16) (b % 64) u
      else .next u
    | r => r

/-! ## The agenda -/

/-- The step is one of the module, without an encoding. The trap of a word that is no instruction belongs to a hart's turn. -/
def isEvent (i : Instr) : Bool :=
  match i with
  | .wordNotInstruction _ _ => false
  | _ => (encode i).isNone

/-- A change of hart `hid`, with the state that the other harts see. -/
def onHart (s : State) (hid : Nat) (f : State → State) : State :=
  match focus s hid with
  | none => s
  | some t => f t

/-- `n` events that the model does not derive (R360): cycles of the hart, parked ones while it is parked under R20, and flits
of the module's links, which every context counts (R362). -/
def countOutside (s : State) (hid code n : Nat) : State :=
  match code with
  | 0x01 => onHart s hid (evCount code n)
  | 0x05 => onHart s hid fun t => if parked t.hart then evCount code n t else t
  | 0x06 => onHart s hid (evCount code n)
  | 0x30 => evCountAll code n s
  | 0x31 => evCountAll code n s
  | _ => s

/-- The list with a new value at a key, first. -/
def putFirst {α : Type} (k : Nat) (v : α) (xs : List (Nat × α)) : List (Nat × α) := (k, v) :: xs.filter (·.1 ≠ k)

/-- The constant path takes eight bytes (R115), and the launch's later harts may have them (R276). -/
def fillConst (va : Nat) (s : State) : State :=
  match loadNat s (s.hart.path s) va 8 .devFifo with
  | .ok v =>
    let w : Word := BitVec.ofNat 64 v
    let t := { s with hart := { s.hart with ccache := putFirst va w s.hart.ccache } }
    if s.hart.who.dispatch then t else updLaunch t s.hart.who.serial fun l => { l with ccache := putFirst va w l.ccache }
  | _ => s

/-- Fetch may run ahead into the page of an address (R338): valid, executable, neither DEV nor NP. -/
def prefetchable (s : State) (va : Nat) : Bool :=
  match lookup s (identSpace s s.hart.who) va with
  | .leaf w _ => leafX w && !leafDev w && !leafNp w
  | _ => false

/-- Fetch holds a word that it has run ahead to, or that the hart's launch may go on to (R276, R338): in no page, from the pc's to
the word's, that it may not enter. -/
def fillFetch (va : Nat) (s : State) : State :=
  let pc := s.hart.pc.toNat
  let lo := min pc va
  let ok := va % 4 == 0 && (List.range (max pc va / 65536 - lo / 65536 + 1)).all fun j => prefetchable s (max lo ((lo / 65536 + j) * 65536))
  match ok, locate s (s.hart.path s) va .fetch with
  | true, .ok l =>
    if locPoisoned s l then s
    else
      let w := BitVec.ofNat 32 (natOfBytes (locBytes s l 4))
      let t := { s with hart := { s.hart with icache := putFirst va w s.hart.icache } }
      if s.hart.who.dispatch then t else updLaunch t s.hart.who.serial fun l => { l with icache := putFirst va w l.icache }
  | _, _ => s

/-- A TLB takes a translation, while it has room: a core's has 128 entries, a quad's 4,096 (R334), the ATS cache 64 (R302). -/
def addTlb (s : State) (place : TlbPlace) (asid va : Nat) (leaf : Word) (lg : Nat) : State :=
  let room := match place with | .core _ => 128 | .quad _ => 4096 | .ats => 64
  if (tlbIn s place asid va).isSome || decide (room ≤ s.tlb.countP (·.place == place)) then s
  else { s with tlb := s.tlb ++ [{ place := place, asid := asid, vpn := va / 2 ^ lg, size := lg, leaf := leaf }] }

/-- A TLB of the hart, or of its quad, takes the translation of an address (R334): a core's TLB from the quad's, else from the
walker. -/
def fillTlb (va : Nat) (quad : Bool) (s : State) : State :=
  let sp := identSpace s s.hart.who
  match sp.core with
  | none => s
  | some c =>
    let r := match if quad then none else tlbIn s (.quad (c / 4)) sp.asid va with
      | some e => WalkRes.leaf e.leaf e.size
      | none => walk s sp va
    match translated va && sp.valid, r with
    | true, .leaf w lg => addTlb s (if quad then .quad (c / 4) else .core c) sp.asid va w lg
    | _, _ => s

/-- The ATS cache takes the translation of an address of a function (R302). -/
def fillAts (s : State) (fn va : Nat) : State :=
  let sp := fnSpace s fn
  match translated va && sp.valid && decide (fn ≤ 64), walk s sp va with
  | true, .leaf w lg => addTlb s .ats sp.asid va w lg
  | _, _ => s

/-- The entry that a walk of an address reads at the level whose lowest index bit is `lo`, where it is valid there (R329, R330). -/
def entryAt (s : State) (sp : Space) (va lo : Nat) : Bool → List (Nat × Nat) → Nat → Option Word
  | _, [], _ => none
  | top, (k, n) :: rest, tbl =>
    match tableEntry s sp va k (tbl + 8 * natBits va k n) with
    | none => none
    | some e =>
      match entryKind s top k rest e with
      | .table next => if k = lo then some e else entryAt s sp va lo false rest next
      | .leaf => if k = lo then some e else none
      | _ => none

/-- The walker of the hart's die caches the entry of one of the levels T0 to T3 that a walk of an address reads (R334); an entry
that is not valid it never caches (R330). -/
def fillWalk (va lo : Nat) (s : State) : State :=
  let sp := identSpace s s.hart.who
  match sp.core, entryAt s sp va lo true walkLevels sp.root with
  | some c, some e =>
    if !sp.valid || !translated va || lo == 16 || (walkCached s sp va lo).isSome then s
    else { s with wcache := s.wcache ++ [{ die := c / 64, asid := sp.asid, lo := lo, tag := va / 2 ^ lo, e := e }] }
  | _, _ => s

/-! ## Accesses whose place in the order is open (R265 to R272) -/

/-- A stream's stores are held back from now on, or, after those that are have performed, are not. -/
def setHold (vec on : Bool) (s : State) : State :=
  let t := if on then s else drain s vec
  { t with hart := { t.hart with weak := if vec then { t.hart.weak with holdV := on } else { t.hart.weak with holdS := on } } }

/-- The oldest store of a stream that is held back performs. -/
def performStore (vec : Bool) (s : State) : State :=
  match s.hart.weak.posted vec with
  | [] => s
  | x :: t => setPosted (performOne s x) vec t

/-- A view of memory as it is now (R267, R269, R271): for a stream whose stores have performed, or for an engine class. None is
taken while a conversion is under way (R277), while a fence still holds the class back (R255), or, for a stream, while it has
another. -/
def takeView (cls : Nat) (s : State) : State :=
  if !s.relays.isEmpty || fenced s cls then s
  else if cls = clsS then
    let t := drain s false
    if t.hart.weak.viewS.isSome then s else { t with hart := { t.hart with weak := { t.hart.weak with viewS := some (viewNow t) } } }
  else if cls = clsV then
    let t := drain s true
    if t.hart.weak.viewV.isSome then s else { t with hart := { t.hart with weak := { t.hart.weak with viewV := some (viewNow t) } } }
  else if cls = clsCPY || cls = clsMAT || cls = clsCOL || cls = clsGRD || cls = clsENC then
    { s with hart := { s.hart with weak := { s.hart.weak with viewE := (cls, viewNow s) :: s.hart.weak.viewE.filter (·.1 ≠ cls) } } }
  else s

/-- The stream, or the class, reads memory as it is from now on. -/
def endView (cls : Nat) (s : State) : State :=
  if cls = clsS then dropScalar s
  else if cls = clsV then dropView s
  else { s with hart := { s.hart with weak := { s.hart.weak with viewE := s.hart.weak.viewE.filter (·.1 ≠ cls) } } }

/-- A step of the module without an encoding, with what its accesses touch. -/
def runEvent (i : Instr) (s : State) : Out :=
  match i with
  | .copyUnitArrival h c => stepUnit h c s
  | .engineCommandEnd h c => stepEnd h c s
  | .encfBandRead h c => stepBand h c s
  | .collDelivery h c parts => stepDelivery h c parts s
  | .mfetchRowValid h f => stepRow h f s
  | .streamRefill h w => stepRefill h w s
  | .bankAdd h n => stepAdd h n s
  | .sheetMoving r => stepMoving r s
  | .sheetNew r => stepNew r s
  | .vwaitWake h => stepVwait h s
  | .launchWWake h => stepLaunchW h s
  | i => exec i s

/-- One entry of the agenda is performed. Without power nothing happens until MODULE_RESET. -/
def perform (s : State) (a : Act) : Out :=
  if !s.power then
    match a with
    | .event .moduleReset => exec .moduleReset s
    | _ => .next s
  else match a with
    | .run hid => takeTurn s hid
    | .event i => if isEvent i then runEvent i s else .next s
    | .tick ns => .next (lateDue (passTime s ns))
    | .count hid code n => .next (countOutside s hid code n)
    | .hold hid vec on => .next (onHart s hid (setHold vec on))
    | .performStore hid vec => .next (onHart s hid fun t => restamp vec (performStore vec t))
    | .view hid cls => .next (onHart s hid (takeView cls))
    | .viewDrop hid cls => .next (onHart s hid (endView cls))
    | .late hid => .next (onHart s hid beginLate)
    | .performLate hid vec =>
      (match focus s hid with
      | some t => performLate vec t
      | none => .next s)
    | .cacheFill hid va quad => .next (onHart s hid (prefetchLine va quad))
    | .cacheDrop quad line => .next (dropLine s quad line)
    | .stopIn hid k done => turnBy (stopTurn k done) s hid
    | .cellError hid k role lane residue => turnBy (cellTurn k role lane residue) s hid
    | .matError hid k role lane residue =>
      (match focus s hid with
      | some t => matTrap k role lane residue t
      | none => .next s)
    | .badRead hid line => turnBy (badTurn line) s hid
    | .lineError line => .next (if line < 2 ^ 46 && !s.poison.contains line then { s with poison := s.poison ++ [line] } else s)
    | .flitGood port => .next (flitGood s port)
    | .poisonedWrite off bytes => .next (poisonedWrite s off bytes)
    | .thawEnd => .next (thawEnd s)
    | .retireIdle core => .next (retireIdle s core)
    | .breakLink line => .next (breakLine line none s)
    | .constFill hid va => .next (onHart s hid (fillConst va))
    | .constDrop hid va => .next (onHart s hid fun t =>
        { t with hart := { t.hart with ccache := t.hart.ccache.filter (·.1 ≠ va) } })
    | .fetchFill hid va => .next (onHart s hid (fillFetch va))
    | .fetchDrop hid va => .next (onHart s hid fun t =>
        { t with hart := { t.hart with icache := t.hart.icache.filter (·.1 ≠ va) } })
    | .tlbFill hid va quad => .next (onHart s hid (fillTlb va quad))
    | .tlbDrop place asid vpn => .next { s with tlb := s.tlb.filter fun e => !(e.place == place && e.asid == asid && e.vpn == vpn) }
    | .atsFill fn va => .next (fillAts s fn va)
    | .imageByte hid off b => .next (damageImage s hid off b)
    | .walkFill hid va lo => .next (onHart s hid (fillWalk va lo))
    | .walkDrop die asid lo tag => .next { s with wcache := s.wcache.filter fun e => !(e.die == die && e.asid == asid && e.lo == lo && e.tag == tag) }
    | .podArrive podid => .next { s with sched := { s.sched with
        podPeers := tabSet 0 s.sched.podPeers podid (tabGet 0 s.sched.podPeers podid + 1) } }
    | .remoteByte pa b => .next (if (paRemote pa || paDevice pa) && decide (pa < 2 ^ 52) then breakLine (pa / 64) none (writePa s pa b) else s)
    | .debugger serial on => .next (updLaunch s serial fun l => { l with debug := on })
    | .mmaStep hid => .next (mmaStep hid s)
    | .duskPlace num kind shape places => .next (duskPlace s num kind shape places)
    | .duskEnd num failed => .next (duskEnd s num failed)
    | .collLost hid c => .next (collLost s hid c)
    | .portPeer port rank => .next (if port < 32 then setPort s port { portAt s port with peer := rank % 256 } else s)
    | .barRead fn off => .next (hostRead s fn off)

/-! ## Steps that the module makes by itself -/

/-- The steps of a hart: its queue, its engine commands, its wakes and its pre-emption. -/
def hartEvents (h : Hart) : List (State → Out) :=
  let n := h.who.id
  [execMatrixInstructionComplete n, execMatrixQueueStart n]
  ++ (h.mat.fetches.flatMap fun f => [stepRow n f.id, execMfetchComplete n f.id])
  ++ (h.eng.cmds.flatMap fun c => [stepBand n c.id, stepUnit n c.id, stepEnd n c.id, execCollTimeout n c.id])
  ++ (h.eng.adds.map fun x => stepAdd n x.id)
  ++ (h.eng.streams.map fun t => stepRefill n t.win)
  ++ [stepVwait n, execCwaitWake n, execSbarwWake n, execBarwWake n, stepLaunchW n, execScallAnswer n,
      execRemoteTimeout n, execRemoteAccessResponse n, execPreemptionPointReached n, execContextSave n,
      fun s => .next (onHart s n (performStore false)), fun s => .next (onHart s n (performStore true)),
      fun s => match focus s n with | some t => performFirst t | none => .next s]

/-- The steps of a launch. -/
def launchEvents (l : Launch) : List (State → Out) :=
  [execCompletionWord l.serial, execAging l.serial l.started]
  ++ l.gangs.flatMap fun g => [execAging l.serial g.index, execGangYield l.serial g.index]

/-- The steps of the module that are due by themselves, in the order in which the model tries them. -/
def ownEvents (s : State) : List (State → Out) :=
  [execFirmwareVerified, execPcieLinkTrained, execHbmTrained, execCxlEnumerated 0 0, execDiesReleased]
  ++ (allHarts s).flatMap hartEvents
  ++ (s.relays.flatMap fun r => [stepMoving r.id, stepNew r.id])
  ++ s.sched.launches.flatMap launchEvents
  ++ [execSessionRequestDone, execTlbinvDone, execFreezeComplete, fun t => .next (thawEnd t), execFwOperationDone, execAttestationDone,
      execColophonHour]
  ++ (s.cores.map fun p t => .next (if (coreAt t p.1).pending.isEmpty then t else retireIdle t p.1))
  ++ (s.banks.map fun p => execBankModeChangeDone (p.1 / 1024) (p.1 / 64 % 16) (p.1 % 64))
  ++ (s.hub.fns.map fun p => execFunctionResetComplete p.1)
  ++ (s.hub.queues.map fun p => execDispatchProgramStart p.1)
  ++ (s.hub.parts.map fun p => execWorldSwitch p.1)
  ++ [execPlacementConfirm true true, execFreeCountReport 0 []]

/-- The first step of a list that changes something. -/
def firstChange (s : State) : List (State → Out) → Option Out
  | [] => none
  | f :: t => if changes s (f s) then some (f s) else firstChange s t

/-- A step that the module makes by itself. -/
def ownStep (s : State) : Option Out := firstChange s (ownEvents s)

/-- The first other hart whose turn changes something. -/
def otherTurn (s : State) : Option Out :=
  firstChange s ((allHarts s).map fun h t => takeTurn t h.who.id)

/-- What moves where the agenda says nothing. -/
def idleStep (s : State) : Out :=
  if !s.power then .next s
  else if s.hart.status = .running && mayRun s s.hart && !s.hart.stopReq then runTurn s
  else ((ownStep s).or (otherTurn s)).getD (.next s)

/-- One step of the module. -/
def stepModule (s : State) : Out :=
  match s.agenda with
  | a :: t => perform { s with agenda := t } a
  | [] => idleStep s

end Sys2Proof.Machine
end

