-- ==== Sys2Proof/Machine/Launcher.lean ====
section
/-!
DEFINITION. A module on which a program runs, for an instruction that is to be the next one (log 7): what the host, the
bring-up and a launch would have set up.
-/
namespace Sys2Proof.Machine

open Sys2Proof

/-- The T0 table, the T1 table, and the first instruction of the program. -/
def setupRoot : Nat := 2 ^ 37
def setupTable : Nat := 2 ^ 37 + 65536
def setupPc : Nat := 65536

/-- One launch of one gang of one hart, as wide as a core. -/
def setupRec : LaunchRec :=
  { entry := setupPc, args := 0, done := 0, deadline := 0, cls := 0, shape := 0, scope := 1, gsize := 1, count := 1,
    irq := false, sbNum := 0, sbFirst := 0, accb := 262144, rows := 512, podid := 0, sessv := false, session := 0, est := 0 }

def setupLaunch (s : State) : Launch :=
  { desc := setupRec, serial := 0, queue := 0, fn := 0, troot := BitVec.ofNat 64 setupRoot, ctxown := 0, sbs := []
    gangs := [{ index := 0, status := .placed, inst := 0, placeAt := s.time, preAt := 0, aged := 0, stop := false }]
    started := 1, gdone := 0, aborted := false, cause := 0, quiet := false, enqAt := s.time, lastAt := s.time, aged := 0
    debug := false, ccache := [], icache := [] }

/-- The launch's hart at its first instruction (R13). -/
def setupHart (s : State) : Hart :=
  { Hart.blank with
    who := { Ident.zero with
      id := s.nextId, gcount := 1, gsize := 1, gscope := 1, resident := true, grows := 512, accb := 262144
      troot := BitVec.ofNat 64 setupRoot }
    status := .running, pc := BitVec.ofNat 64 setupPc }

/-- The physical function's tables: one page of 64 GiB at virtual address 0, readable, writable and executable. -/
def setupMem (m : List Host.Cell) : List Host.Cell :=
  cellsPut (cellsPut m setupRoot (bytesOfNat 8 (setupTable + 1))) setupTable (bytesOfNat 8 0xF)

/-- A module that has been brought up, with the launch running. -/
def setupRun (s : State) : State :=
  { s with
    hart := setupHart s
    others := if s.hart.status = .absent then s.others else s.hart :: s.others
    mem := setupMem s.mem
    tlb := s.tlb.filter fun e => e.asid ≠ 0
    wcache := s.wcache.filter fun e => e.asid ≠ 0
    poison := s.poison.filter fun l => l ≠ setupRoot / 64 && l ≠ setupTable / 64
    power := true
    nextId := s.nextId + 1
    sched := { s.sched with launches := setupLaunch s :: s.sched.launches.filter fun l => l.serial ≠ 0 }
    hub := { s.hub with
      step := 6, ready := true
      fns := tabSet FnRegs.init s.hub.fns 0 { fnAt s 0 with root := BitVec.ofNat 64 (setupRoot + 1) } } }

/-- The next step is the current hart's, and its fetch reads memory at this physical address. -/
def fetchPa (s : State) : Option Nat :=
  if s.hart.status = .running && mayRun s s.hart && !s.hart.stopReq && s.hart.weak.late.isEmpty then
    match locate s (s.hart.path s) s.hart.pc.toNat .fetch with
    | .ok (.pa a _ _) => some a
    | _ => none
  else none

/-- A word stored at a physical address from which the next instruction is fetched. -/
def placeWord (s : State) (pa w : Nat) : State :=
  { s with
    mem := cellsPut s.mem pa (bytesOfNat 4 w)
    poison := s.poison.filter fun l => l ≠ pa / 64
    agenda := []
    hart := { s.hart with icache := s.hart.icache.filter fun e => e.1 ≠ s.hart.pc.toNat } }

/-- The word is the next instruction: where a hart is running, at its pc; else on a module set up to run it. -/
def placeNext (s : State) (w : Nat) : State :=
  match fetchPa s with
  | some pa => placeWord s pa w
  | none => placeWord (setupRun s) setupPc w

end Sys2Proof.Machine
end

