-- ==== Sys2Proof/Machine/Step.lean ====
section
/-!
DEFINITION. One step of the module, and the state in which the next step runs a given instruction.
-/
namespace Sys2Proof.Machine

open Sys2Proof

/-- One step: the head of the agenda, else what moves by itself. -/
def step (s : State) : Host.Outcome State Fault Refusal := stepModule s

/-- `s` with the instruction whose bits are `w` stored where the next step fetches (log 7). Every instruction is one word
of 32 bits (R89), so the bits from `nbits` on are 0. -/
def State.withFetchWord (s : State) (nbits w : Nat) : State := placeNext s (w % 2 ^ nbits % 2 ^ 32)

end Sys2Proof.Machine
end

