-- ==== Sys2Proof/Safety.lean ====
section
/-!
DEFINITION. What the statements mean by a safe state, by an instruction that completes, and by what it leaves alone.
-/
namespace Sys2Proof.Safety

open Sys2Proof Sys2Proof.Machine

/-! ## Canonical forms -/

/-- Memory is in its one canonical form. -/
abbrev memOk (s : State) : Prop := Memory.wf s.mem = true

/-- The banks are, and so is every bank's contents. -/
abbrev banksOk (s : State) : Prop := tabWf Bank.init s.banks = true ∧ ∀ p ∈ s.banks, tabWf 0#8 p.2.data = true

/-- Every hart's galley, accumulator words and scale planes are, and every launch's stage barriers. -/
abbrev galleysOk (s : State) : Prop :=
  (∀ h ∈ allHarts s, tabWf 0#8 h.vec.galley = true ∧ tabWf 0#32 h.mat.acc = true ∧ tabWf 127#8 h.mat.plane = true)
  ∧ ∀ l ∈ s.sched.launches, tabWf (0#32, false) l.sbs = true

/-- The hub's tables of registers are (queues, functions, partitions, mappings, owners, ports), and those of cores and dies. -/
abbrev hubOk (s : State) : Prop :=
  tabWf QueueRegs.init s.hub.queues = true ∧ tabWf FnRegs.init s.hub.fns = true ∧ tabWf partInit s.hub.parts = true
  ∧ tabWf vfmapInit s.hub.vfmaps = true ∧ tabWf 0#64 s.hub.ownmap = true ∧ tabWf Port.init s.hub.ports = true
  ∧ tabWf CoreState.init s.cores = true ∧ tabWf DieState.init s.dies = true

/-- A property of whatever state the outcome gives. -/
def onNext (o : Out) (P : State → Prop) : Prop :=
  match o with
  | .next t => P t
  | .fault _ => True
  | .refused _ => True

/-! ## Completion and frames -/

/-- The current hart is the one that goes on by itself: it runs on its core, in a module that has power. -/
abbrev executing (s : State) : Prop := s.hart.status = .running ∧ mayRun s s.hart = true ∧ s.hart.stopReq = false

/-- `t` with what the end of an instruction may change as it was in `s`: pc, status, the answer and the translations of a
remote access, the event counters, and what an overflow of them reports. -/
def settled (s t : State) : State :=
  { t with
    hart := { t.hart with pc := s.hart.pc, status := s.hart.status, remote := s.hart.remote, pins := s.hart.pins, ev := s.hart.ev, evsel := s.hart.evsel }
    hub := { t.hub with fns := s.hub.fns }
    msix := s.msix }

/-- What an overflow may leave: OVF in a selector, and OVFSTAT of a function (R364). -/
def countersKept (s t : State) : Prop :=
  (∀ i : Fin 8, t.hart.evsel.get i ||| 0x10000000#64 = s.hart.evsel.get i ||| 0x10000000#64)
  ∧ (∀ f, { fnAt t f with ovfStat := 0 } = { fnAt s f with ovfStat := 0 })
  ∧ ∃ l, t.msix = s.msix ++ l

/-- The outcome is the completion of an instruction that started in `s`: the hart goes on at `pc`, and `P` holds. -/
def completes (o : Out) (s : State) (pc : Word) (P : State → Prop) : Prop :=
  ∃ t, o = .next t ∧ t.hart.pc = pc ∧ t.hart.status = .running ∧ t.hart.remote = none ∧ t.hart.pins = none ∧ countersKept s t ∧ P t

/-- The same, with the next instruction following. -/
def retires (o : Out) (s : State) (P : State → Prop) : Prop := completes o s (s.hart.pc + 4) P

/-- The only register written is X[d]; X0 stays zero (R91). -/
def wroteX (s t : State) (d : BitVec 5) (v : Word) : Prop :=
  rx t d = (if d = 0#5 then 0 else v) ∧ ∀ r, r ≠ d → rx t r = rx s r

/-- An instruction whose whole effect is to write X[d]. -/
def givesX (o : Out) (s : State) (d : BitVec 5) (v : Word) : Prop :=
  retires o s fun t => wroteX s t d v ∧ settled s t = { s with hart := { s.hart with x := t.hart.x } }

/-- A scalar floating-point result: X[d] zero-extended, the flags ORed into FCSR, nothing else. -/
def givesFp (o : Out) (s : State) (d : BitVec 5) (v : Nat) (fl : Flags) : Prop :=
  retires o s fun t => wroteX s t d (BitVec.ofNat 64 v)
    ∧ t.hart.fcsr = s.hart.fcsr ||| BitVec.ofNat 64 (fl.toNat % 32)
    ∧ settled s t = { s with hart := { s.hart with x := t.hart.x, fcsr := t.hart.fcsr } }

/-- An instruction whose whole effect is a jump. -/
def goesTo (o : Out) (s : State) (pc : Word) : Prop := completes o s pc fun t => settled s t = s

/-- A hart without its link set. -/
def unlinked (h : Hart) : Hart := { h with eng := { h.eng with link := none } }

/-- A hart without its views of earlier places of the global order. -/
def unviewed (h : Hart) : Hart := { h with weak := { h.weak with viewS := none, viewV := none, viewE := [] } }

/-- A byte of a bank. -/
def bankByte (s : State) (key x : Nat) : Byte := tabGet 0#8 (bankAt s key).data x

/-- From `s` to `t` the bytes at a place have become `bs`, and no other byte of memory or of a bank has changed. -/
def stored (s t : State) (l : Loc) (bs : List Byte) : Prop :=
  match l with
  | .pa a _ _ =>
    (∀ x, readPa t x = if a ≤ x ∧ x < a + bs.length then bs.getD (x - a) 0 else readPa s x) ∧ t.banks = s.banks
  | .bank key off =>
    t.mem = s.mem
    ∧ (∀ k x, bankByte t k x = if k = key ∧ off ≤ x ∧ x < off + bs.length then bs.getD (x - off) 0 else bankByte s k x)
    ∧ (∀ k, { bankAt t k with data := [] } = { bankAt s k with data := [] })
  | .fifo _ => False

/-- The place takes a store: it is no FIFO port, and a SCRATCHZ bank has room (R204). -/
abbrev takesStore (s : State) (l : Loc) (bs : List Byte) : Prop :=
  match l with
  | .pa _ _ _ => True
  | .bank key off =>
    (bankAt s key).mode = .scratchz → tilesUsed none (cellsPut (bankAt s key).data off bs) ≤ 64
      ∨ Config.scratchzFull (cellsPut (bankAt s key).data off bs) = false
  | .fifo _ => False

/-- A store of the hart at `va` is held back: behind those of its stream, and with no effect that another hart can see (R267). -/
def heldStore (s t : State) (vec : Bool) (l : Loc) (va : Nat) (bs : List Byte) : Prop :=
  (t.hart.weak.posted vec = s.hart.weak.posted vec ++ [{ key := locKey l, va := va, bytes := bs, mask := 0xFF, since := s.time }])
  ∧ t.hart.weak = s.hart.weak.setPosted vec (t.hart.weak.posted vec)

/-- The scalar stream can read `n` bytes at `va`, at the place `l` (R112, R113). -/
def scalarReads (s : State) (va n : Nat) (l : Loc) : Prop :=
  s.hart.strike = none ∧ fenced s clsS = false ∧ va % n = 0 ∧ locate s (s.hart.path s) va .load = .ok l ∧ locPoisoned s l = false
  ∧ ∀ key, l ≠ .fifo key

/-- The scalar stream's view of an earlier place of the global order serves a load of `n` bytes at `va` (R267, log 118): it gives
`x`, and `w` is the view then. -/
def loadsView (s : State) (va n : Nat) (w : View) (x : Nat) : Prop :=
  let t := drain s false
  ∃ v, s.hart.weak.viewS = some v ∧ w = v.reads (spanKeys t (t.hart.path t) [(va, n)]) ∧ viewFresh t w = true
    ∧ loadNat (viewed t (t.hart.path t) v).1 (viewed t (t.hart.path t) v).2 va n .fifoOnly = .ok x

/-- No view serves it: it is made in memory as it is. -/
def loadsNow (s : State) (va n : Nat) : Prop := ∀ w x, ¬loadsView s va n w x

/-- The state with such a view of a stream. -/
def withViewS (s : State) (w : View) : State := { s with hart := { s.hart with weak := { s.hart.weak with viewS := some w } } }
def withViewV (s : State) (w : View) : State := { s with hart := { s.hart with weak := { s.hart.weak with viewV := some w } } }

/-- What a raw load of `n` bytes at `va` gives from the place `l`, and the bytes that a raw store of `v` leaves: free ones
during a conversion of their storage (R243, log 22). -/
def loaded (s : State) (va n : Nat) (l : Loc) : Nat := rawValue s (identSpace s s.hart.who).asid va n (natOfBytes (locBytes s l n))
def toStore (s : State) (va n v : Nat) : List Byte := bytesOfNat n (rawValue s (identSpace s s.hart.who).asid va n v)

/-- The scalar stream can store the bytes `bs` at `va`, at the place `l`. -/
def scalarWrites (s : State) (va : Nat) (l : Loc) (bs : List Byte) : Prop :=
  s.hart.strike = none ∧ fenced s clsS = false ∧ va % bs.length = 0 ∧ locate s (s.hart.path s) va .store = .ok l ∧ takesStore s l bs

/-- A place in memory or in a SCRATCH bank, where no store is turned away. -/
def plainPlace (s : State) (l : Loc) : Prop :=
  match l with
  | .pa _ _ _ => True
  | .bank key _ => (bankAt s key).mode = .scratch
  | .fifo _ => False

/-- From `u` to `t` no byte has changed but the `n` from each of `places` on, and nothing else of a bank. -/
def keptOutside (u t : State) (n : Nat) (places : Loc → Prop) : Prop :=
  (∀ x, (∀ a w lg, places (.pa a w lg) → ¬(a ≤ x ∧ x < a + n)) → readPa t x = readPa u x)
  ∧ (∀ key x, (∀ off, places (.bank key off) → ¬(off ≤ x ∧ x < off + n)) → bankByte t key x = bankByte u key x)
  ∧ ∀ key, { bankAt t key with data := [] } = { bankAt u key with data := [] }

/-- What a store leaves: the stored bytes, broken link tags, nothing else. -/
def onlyStored (s t : State) (l : Loc) (bs : List Byte) : Prop :=
  stored s t l bs ∧ t.others.map unlinked = s.others.map unlinked
  ∧ settled s t = { s with
      mem := t.mem, banks := t.banks, others := t.others
      hart := { s.hart with eng := { s.hart.eng with link := t.hart.eng.link } } }

/-- From `t` to `u` events of accesses have been counted (R360, R364): of the hart only its event counters have changed, of the
module what an overflow reports and the lines that are in the caches (log 119). -/
def accessEvents (t u : State) : Prop :=
  { u with
    hart := { u.hart with ev := t.hart.ev, evsel := t.hart.evsel }
    hub := { u.hub with fns := t.hub.fns }
    msix := t.msix
    lines := t.lines } = t

/-- From `t`, what instruction `i` has left of `s`, to `u`, the end of its turn: its accesses' events have been counted; an access
that has come to a wait holds the pages it touches, and no more (R335); the views that still serve are left (R270). -/
def afterInstr (s t u : State) (i : Instr) : Prop :=
  accessEvents { t with hart := { t.hart with
    pins := match s.hart.pins, t.hart.pins with
      | none, some p => some (narrowPins s i p)
      | _, q => q
    weak := t.hart.weak.follow i } } u

/-! ## System registers -/

/-- What a write of `v` leaves in a system register, field by field (R36, R54, R76, R93 to R98, R119, R136, R143, R359):
reserved bits 0; an RM of FCSR above 4 not taken; VILL computed; OVF only cleared; an undefined event code stored as 0. -/
def csrWritten (n : Nat) (old v : Word) : Word :=
  if n = 0x000 then makeVmode (v.setWidth 25)
  else if n = 0x002 then v &&& 0xFFFFFFFF#64
  else if n = 0x003 then v &&& 0x11F#64
  else if n = 0x004 then (if 5 ≤ v.toNat / 256 % 8 then (v &&& 0x381F#64) ||| (old &&& 0x700#64) else v &&& 0x3F1F#64)
  else if n = 0x005 then v &&& 0x1FFFFFFFFFFFFFFF#64
  else if n = 0x006 ∨ n = 0x007 then v &&& 0x1FF#64
  else if n = 0x008 then v &&& 0x3FF#64
  else if n = 0x009 then v &&& 0x1FFFFFFFF#64
  else if n = 0x040 then v &&& 0x00FFFFFFFFFFFFFD#64
  else if n = 0x041 then v &&& 0x00FFFFFFFFFFFFFC#64
  else if n = 0x042 then v &&& 0x80000000000000FF#64
  else if n = 0x044 then v &&& 0xFF8000001FFFFFFF#64
  else if 0x080 ≤ n ∧ n ≤ 0x087 then v &&& 0x0000FFFFFFFFFFFF#64
  else if 0x088 ≤ n ∧ n ≤ 0x08F then
    (v &&& 0x60000000#64) ||| (v &&& old &&& 0x10000000#64) ||| (if evDefined (v.toNat % 65536) then v &&& 0xFFFF#64 else 0)
  else v

/-! ## Exceptions -/

/-- The hart has entered its handler: the trap registers and the pc are as R138 says, and nothing else has changed but
VSTART where the trap names an element or a metadata byte. -/
def handled (s t : State) (cause : BitVec 8) (tepc tval tpos twin : Word) (vstart : Nat) : Prop :=
  t = { s with hart := { s.hart with
    pc := s.hart.trap.utvec &&& 0x00FFFFFFFFFFFFFC#64
    status := .running
    remote := none
    pins := none
    vec := { s.hart.vec with vstart := vstart }
    trap := { utvec := s.hart.trap.utvec, tepc := tepc, tcause := 0x8000000000000000#64 ||| cause.setWidth 64,
              tval := tval, tpos := tpos, twin := twin } } }

/-- A handler is set up and none is running: UTVEC.EN is 1 and TCAUSE.INH is 0. -/
abbrev handlerReady (s : State) : Prop := s.hart.trap.utvec.getLsbD 0 = true ∧ s.hart.trap.tcause.getLsbD 63 = false

/-- TPOS with VALID 0, ROLE and WIN set, and the rest as it was (log 9). -/
def tposPlain (w : Word) : Word := (w &&& 0xFCFFFFFFEFFFFFFF#64) ||| 0x0300000000000000#64

/-- The hart has been halted by a supervisor-class cause (R339): it is halted and holds no core, its launch is aborted,
and an event has been counted and reported on vector 0. -/
def supervised (s t : State) (cause : BitVec 8) : Prop :=
  t.hart.status = .halted ∧ t.hart.who = { s.hart.who with resident := false }
  ∧ (∀ l ∈ t.sched.launches, l.serial = s.hart.who.serial → l.aborted = true)
  ∧ (∀ l ∈ s.sched.launches, l.serial = s.hart.who.serial → l.aborted = false →
      ∃ m ∈ t.sched.launches, m.serial = l.serial ∧ m.cause = cause)
  ∧ ((fnAt s s.hart.who.fn).evHead + 1 ≠ 0 → (fnAt t s.hart.who.fn).evHead = (fnAt s s.hart.who.fn).evHead + 1)
  ∧ t.msix = s.msix ++ [(s.hart.who.fn, 0)]
  ∧ t.hart.x = s.hart.x ∧ t.hart.pc = s.hart.pc

/-- Nothing of memory or of a bank's contents has changed, but what the event record of a halting trap writes into its
function's log (R339, R341). -/
def memoryKept (s t : State) : Prop :=
  let f := s.hart.who.fn
  let r := fnAt s f
  (if 6 ≤ r.evLg ∧ r.evLg ≤ 16
    then ∃ bs : List Byte, bs.length = 64 ∧ t.mem = (logStore s f (r.evBase.toNat + r.evHead.toNat % 2 ^ r.evLg * 64) bs).mem
    else t.mem = s.mem)
  ∧ ∀ key x, bankByte t key x = bankByte s key x

/-- The program of a dispatch hart has ended by a trap (R308, R310): its queue says why, and its vector is raised. -/
def programEnds (s t : State) (cause : BitVec 8) (tval : Word) : Prop :=
  t.hart.status = .halted
  ∧ t.msix = s.msix ++ [(qFunc (queueAt s s.hart.who.queue), s.hart.who.queue % 64)]
  ∧ queueAt t s.hart.who.queue = { queueAt s s.hart.who.queue with cause := cause, mberr := tval, err := true }
  ∧ t.sched = s.sched ∧ t.mem = s.mem ∧ t.banks = s.banks ∧ t.hart.x = s.hart.x ∧ t.hart.pc = s.hart.pc

/-! ## Vector instructions -/

/-- A window operand passes the checks of R43 and nothing makes it wait (R60, R183, R222). -/
abbrev opdReady (s : State) (o : Opd) : Prop :=
  winFits s o.win = true ∧ badWidth o = false ∧ o.shape = true ∧ badSlot s o = false ∧ heldBack s o = false ∧ streamWaits s o = false

/-- The mode is legal with element type `ty`, every operand is ready, and no error befalls the instruction. -/
abbrev vecReady (s : State) (ty : Ty) (ops : List Opd) : Prop :=
  s.hart.strike = none ∧ modeIll s.hart.vec.vmode = false ∧ modeTy s.hart.vec.vmode = some ty ∧ ∀ o ∈ ops, opdReady s o

/-- None of these flags traps: TE enables none of them (R77). -/
abbrev noTrap (s : State) (fl : Flags) : Prop := fl &&& modeTe s.hart.vec.vmode = 0

/-- TPOS where a trap names window `w` and no element of it, with the bits that R138 does not name as they were (log 9). -/
def tposWindow (old : Word) (w : WinOp) : Word :=
  (old &&& 0x00FFFFFFEFFFFFFF#64) ||| (BitVec.ofNat 64 w.num <<< 58) ||| (BitVec.ofNat 64 w.role <<< 56)

/-- TPOS where it names the destination `w` of a whole-vector instruction (R157), with OVL. -/
def tposWhole (old : Word) (w : WinOp) (ovl : Bool) : Word :=
  (old &&& 0x007FFFFFEFFFFFFF#64) ||| (BitVec.ofNat 64 w.num <<< 58) ||| (if ovl then 0x0080000000000000#64 else 0)

/-- TPOS where it names element k of window `w` (R54). -/
def tposElem (old : Word) (w : WinOp) (ovl : Bool) (k : Nat) : Word :=
  (old &&& 0x007FFFFFE0000000#64) ||| (BitVec.ofNat 64 w.num <<< 58) ||| (BitVec.ofNat 64 w.role <<< 56)
    ||| (if ovl then 0x0080000000000000#64 else 0) ||| 0x10000000#64 ||| (BitVec.ofNat 64 (elemCell w k).1 <<< 19)
    ||| (BitVec.ofNat 64 (k / neff w) <<< 10) ||| BitVec.ofNat 64 (k % neff w)

/-- A lane: an integer operation on the values and the width, or a floating-point operation with one rounding. -/
def lane (s : State) (ty : Ty) (fi : Bool → Nat → Nat → Nat → Nat → Nat × Flags) (ff : Num → Num → Num → Num × Flags)
    (x y z : Nat) : Nat × Flags :=
  let p := policyOf s.hart.vec.vmode
  match ty with
  | .int sg w => fi sg w x y z
  | .flt f =>
    let e := ff (f.decodeIn p x) (f.decodeIn p y) (f.decodeIn p z)
    ((rnd f p e.1).1, (rnd f p e.1).2 ||| e.2)

/-- An integer result modulo 2^w. -/
def onInts (f : Int → Int → Int → Int) : Bool → Nat → Nat → Nat → Nat → Nat × Flags :=
  fun sg w x y z => (((f (intOf sg w x) (intOf sg w y) (intOf sg w z)) % ((2 ^ w : Nat) : Int)).toNat, 0)

/-- A result on bits, modulo 2^w. -/
def onBits (f : Nat → Nat → Nat → Nat) : Bool → Nat → Nat → Nat → Nat → Nat × Flags := fun _ w x y _ => (f w x y % 2 ^ w, 0)

/-- An instruction of two sources; with `rd` the old destination is a third. -/
def twoSources (s : State) (ty : Ty) (d a b : BitVec 6) (rd : Bool) (fi : Bool → Nat → Nat → Nat → Nat → Nat × Flags)
    (ff : Num → Num → Num → Num × Flags) : Option (WinOp × List Opd × (Nat → Option (Nat × Flags))) :=
  let w := winOp s d 0
  some (w, [elemDst s w ty rd, srcOpd (winOp s a 1) ty.width (count w), srcOpd (winOp s b 2) ty.width (count w)],
    fun k => some (lane s ty fi ff (srcElem s (winOp s a 1) k) (srcElem s (winOp s b 2) k) (if rd then readElem s w k else 0)))

/-- An instruction of one source. -/
def oneSource (s : State) (ty : Ty) (d a : BitVec 6) (f : Nat → Nat × Flags) :
    Option (WinOp × List Opd × (Nat → Option (Nat × Flags))) :=
  let w := winOp s d 0
  some (w, [elemDst s w ty false, srcOpd (winOp s a 1) ty.width (count w)], fun k => some (f (srcElem s (winOp s a 1) k)))

/-- A special function: one rounding to FP32, or for a narrower type a rounding to FP32 and a second one (R79). -/
def specialLane (s : State) (ty : Ty) (fn : SpecialFn) (v : Nat) : Nat × Flags :=
  match ty with
  | .flt f => specialTo fn f (policyOf s.hart.vec.vmode) v
  | .int _ _ => (0, 0)

/-- The element-wise instructions under element type `ty` (R158 to R162, R166, R167): the destination, the operands with
what is asked of them, and what each element becomes. None: another instruction, or a type it does not accept. -/
def elemSpec (s : State) (ty : Ty) : Instr → Option (WinOp × List Opd × (Nat → Option (Nat × Flags)))
  | .vadd d a b => if isIFB ty then twoSources s ty d a b false (onInts fun x y _ => x + y) (fun x y _ => x.add (policyOf s.hart.vec.vmode).rm y) else none
  | .vsub d a b => if isIFB ty then twoSources s ty d a b false (onInts fun x y _ => x - y) (fun x y _ => x.add (policyOf s.hart.vec.vmode).rm y.neg) else none
  | .vmul d a b => if isIFB ty then twoSources s ty d a b false (onInts fun x y _ => x * y) (fun x y _ => x.mul y) else none
  | .vfma d a b => if isIFB ty then twoSources s ty d a b true (onInts fun x y z => x * y + z) (fun x y z => Num.fma (policyOf s.hart.vec.vmode).rm x y z) else none
  | .vfms d a b => if isIFB ty then twoSources s ty d a b true (onInts fun x y z => x * y - z) (fun x y z => Num.fma (policyOf s.hart.vec.vmode).rm x y z.neg) else none
  | .vdiv d a b =>
    if isIFB ty then twoSources s ty d a b false
      (fun sg w x y z => if y % 2 ^ w = 0 then (2 ^ w - 1, flagDZ) else onInts (fun x y _ => x.tdiv y) sg w x y z) (fun x y _ => x.div y) else none
  | .vmin d a b => if isIFB ty then twoSources s ty d a b false (onInts fun x y _ => min x y) (fun x y _ => x.minmax false y) else none
  | .vmax d a b => if isIFB ty then twoSources s ty d a b false (onInts fun x y _ => max x y) (fun x y _ => x.minmax true y) else none
  | .vavg d a b =>
    if isIFB ty then twoSources s ty d a b false (onInts fun x y _ => (x + y + 1) / 2)
      (fun x y _ => (numHalf (x.add (policyOf s.hart.vec.vmode).rm y).1, (x.add (policyOf s.hart.vec.vmode).rm y).2)) else none
  | .vand d a b => if isI ty then twoSources s ty d a b false (onBits fun _ x y => x &&& y) (fun x _ _ => (x, 0)) else none
  | .vor d a b => if isI ty then twoSources s ty d a b false (onBits fun _ x y => x ||| y) (fun x _ _ => (x, 0)) else none
  | .vxor d a b => if isI ty then twoSources s ty d a b false (onBits fun _ x y => x ^^^ y) (fun x _ _ => (x, 0)) else none
  | .vsll d a b => if isI ty then twoSources s ty d a b false (onBits fun w x y => x * 2 ^ (y % w)) (fun x _ _ => (x, 0)) else none
  | .vsrl d a b => if isI ty then twoSources s ty d a b false (onBits fun w x y => x / 2 ^ (y % w)) (fun x _ _ => (x, 0)) else none
  | .vsra d a b =>
    if isI ty then twoSources s ty d a b false (fun _ w x y _ => (((intOf true w x / ((2 ^ (y % w) : Nat) : Int)) % ((2 ^ w : Nat) : Int)).toNat, 0))
      (fun x _ _ => (x, 0)) else none
  | .vmulh d a b =>
    if isI ty then twoSources s ty d a b false (fun sg w x y z => onInts (fun x y _ => x * y / ((2 ^ w : Nat) : Int)) sg w x y z) (fun x _ _ => (x, 0)) else none
  | .vabs d a =>
    if isIFB ty then oneSource s ty d a fun x => lane s ty (onInts fun x _ _ => (x.natAbs : Int)) (fun x _ _ => (x.abs, x.sigFlag)) x 0 0 else none
  | .vneg d a => if isIFB ty then oneSource s ty d a fun x => lane s ty (onInts fun x _ _ => -x) (fun x _ _ => (x.neg, x.sigFlag)) x 0 0 else none
  | .vmov d a => if isIFB ty then oneSource s ty d a fun x => (x, 0) else none
  | .vsel d a b k =>
    if isIFB ty then
      let w := winOp s d 0
      some (w, [elemDst s w ty false, srcOpd (winOp s a 1) ty.width (count w), srcOpd (winOp s b 2) ty.width (count w)],
        fun j => some (if (rm s k.toNat).getLsbD (j % neff w) then srcElem s (winOp s a 1) j else srcElem s (winOp s b 2) j, 0))
    else none
  | .vbcast d b =>
    if isIFB ty then some (winOp s d 0, [elemDst s (winOp s d 0) ty false], fun _ => some ((rx s b).toNat % 2 ^ ty.width, 0)) else none
  | .vslideUp d a b =>
    if isIFB ty then some (winOp s d 0, [elemDst s (winOp s d 0) ty false, { srcOpd (winOp s a 1) ty.width 0 with
        reads := count (winOp s a 1), range := some (0, min (count (winOp s d 0) - (rx s b).toNat) (count (winOp s a 1))) }],
      fun k => if (rx s b).toNat ≤ k then
          some (if k - (rx s b).toNat < count (winOp s a 1) then srcElem s (winOp s a 1) (k - (rx s b).toNat) else 0, 0) else none) else none
  | .vslideDn d a b =>
    if isIFB ty then some (winOp s d 0, [elemDst s (winOp s d 0) ty false, { srcOpd (winOp s a 1) ty.width 0 with
        reads := count (winOp s a 1), range := some ((rx s b).toNat, min (count (winOp s d 0) + (rx s b).toNat) (count (winOp s a 1))) }],
      fun k => some (if k + (rx s b).toNat < count (winOp s a 1) then srcElem s (winOp s a 1) (k + (rx s b).toNat) else 0, 0)) else none
  | .vcvt d a t =>
    match tyOfCode t with
    | some src => some (winOp s d 0, [elemDst s (winOp s d 0) ty false, srcOpd (winOp s a 1) src.width (count (winOp s d 0))],
        fun k => some (convert (policyOf s.hart.vec.vmode) ty src (srcElem s (winOp s a 1) k)))
    | none => none
  | .vperm d a b =>
    if isIFB ty then some (winOp s d 0, [elemDst s (winOp s d 0) ty false, { srcOpd (winOp s a 1) ty.width 0 with reads := count (winOp s a 1) },
        srcOpd (winOp s b 2) 16 (count (winOp s d 0))],
      fun k => some (if srcElem s (winOp s b 2) k % 65536 < count (winOp s a 1)
        then srcElem s (winOp s a 1) (srcElem s (winOp s b 2) k % 65536) else 0, 0)) else none
  | .vexp2 d a => if isSf ty then oneSource s ty d a (specialLane s ty .exp2) else none
  | .vlog2 d a => if isSf ty then oneSource s ty d a (specialLane s ty .log2) else none
  | .vrcp d a => if isSf ty then oneSource s ty d a (specialLane s ty .rcp) else none
  | .vrsqrt d a => if isSf ty then oneSource s ty d a (specialLane s ty .rsqrt) else none
  | .vsqrt d a => if isSf ty then oneSource s ty d a (specialLane s ty .sqrt) else none
  | .vtanh d a => if isSf ty then oneSource s ty d a (specialLane s ty .tanh) else none
  | .vsigm d a => if isSf ty then oneSource s ty d a (specialLane s ty .sigm) else none
  | _ => none

/-- Elements k of two windows compared: of numbers that are no NaN, of integers; a NaN gives `nan`, and raises NV, where `quiet` only a
signalling one (R160). -/
def compareLane (s : State) (ty : Ty) (a b : WinOp) (fi : Int → Int → Bool) (ff : Int → Bool) (nan quiet : Bool) (k : Nat) : Bool × Flags :=
  match ty with
  | .int sg w => (fi (intOf sg w (srcElem s a k)) (intOf sg w (srcElem s b k)), 0)
  | .flt f =>
    let x := f.decodeIn (policyOf s.hart.vec.vmode) (srcElem s a k)
    let y := f.decodeIn (policyOf s.hart.vec.vmode) (srcElem s b k)
    if x.isNaN || y.isNaN then (nan, if quiet then x.sigFlag ||| y.sigFlag else flagNV) else (ff (x.cmp y), 0)

/-- The compares (R159 to R161): the mask, the window whose elements count, the operands, and the bit and the flags of each. -/
def compareSpec (s : State) (ty : Ty) : Instr → Option (BitVec 6 × WinOp × List Opd × (Nat → Bool × Flags))
  | .vcmpeq md wa wb => of md wa wb (fun x y => x == y) (fun c => c == 0) false true
  | .vcmpne md wa wb => of md wa wb (fun x y => x != y) (fun c => c != 0) true true
  | .vcmplt md wa wb => of md wa wb (fun x y => decide (x < y)) (fun c => decide (c < 0)) false false
  | .vcmple md wa wb => of md wa wb (fun x y => decide (x ≤ y)) (fun c => decide (c ≤ 0)) false false
  | _ => none
where
  of (md wa wb : BitVec 6) (fi : Int → Int → Bool) (ff : Int → Bool) (nan quiet : Bool) :
      Option (BitVec 6 × WinOp × List Opd × (Nat → Bool × Flags)) :=
    let a := winOp s wa 1
    let b := winOp s wb 2
    if isIFB ty then
      some (md, a, [{ srcOpd a ty.width (count a) with shape := outerOf a.desc == 1 }, srcOpd b ty.width (count a)],
        compareLane s ty a b fi ff nan quiet)
    else none

/-- Element k is active and not done before: from VSTART on, with the guard on its inner index (R41, R55). -/
abbrev performed (s : State) (d : WinOp) (k : Nat) : Prop := s.hart.vec.vstart ≤ k ∧ guardOn s (k % neff d) = true

/-- The flags of the elements below `n` that are performed. -/
def flagsBelow (s : State) (d : WinOp) (val : Nat → Option (Nat × Flags)) (n : Nat) : Flags :=
  (List.range n).foldl (fun f k =>
    if s.hart.vec.vstart ≤ k ∧ guardOn s (k % neff d) = true then
      match val k with
      | some r => f ||| r.2
      | none => f
    else f) 0

/-- The elements of window `d` below `n` that are performed hold their values in `t`; the others are as in `s`. -/
def elemsBelow (s t : State) (d : WinOp) (val : Nat → Option (Nat × Flags)) (n : Nat) : Prop :=
  ∀ k, k < count d →
    (k < n → performed s d k → ∀ r, val k = some r → readElem t d k = r.1 % 2 ^ wEw d.desc)
    ∧ ((n ≤ k ∨ ¬performed s d k ∨ val k = none) → readElem t d k = readElem s d k)

/-- The flags of a compare's elements below `n`, whose guard is of their index. -/
def bitFlags (s : State) (f : Nat → Bool × Flags) (n : Nat) : Flags :=
  (List.range n).foldl (fun fl j => if s.hart.vec.vstart ≤ j ∧ guardOn s j = true then fl ||| (f j).2 else fl) 0

/-- Cells of the galley outside the given spans are unchanged: every nibble of every row. -/
def galleyKept (s t : State) (spans : List Span) : Prop :=
  ∀ row nib, nib < 1024 → (∀ p ∈ spans, ¬(p.row = row ∧ p.lo ≤ nib ∧ nib < p.hi)) →
    galGet t.hart.vec.galley 4 (row, nib) = galGet s.hart.vec.galley 4 (row, nib)

/-- What a vector instruction leaves alone: everything but the galley, VFLAGS, VSTART, which becomes 0, and the points that
bound windows among its operands give up. -/
def vecFrame (s t : State) (ops : List Opd) : Prop :=
  t.hart.vec.vstart = 0 ∧ t.hart.eng.streams = (popAll s ops).hart.eng.streams
  ∧ settled s t = { s with hart := { s.hart with
      vec := { s.hart.vec with galley := t.hart.vec.galley, vflags := t.hart.vec.vflags, vstart := 0 }
      eng := { s.hart.eng with streams := t.hart.eng.streams } } }

/-- The whole-vector instructions to a plain window (R163 to R166, R171): the destination, the operands, the destination
positions and their values, a later one for the same position winning, and the flags. -/
def wholeSpec (s : State) (ty : Ty) : Instr → Option (WinOp × List Opd × List (Nat × Nat) × Flags)
  | .vredsum d a b => if isIFB ty then reduce d a b (redSum ty (policyOf s.hart.vec.vmode)) else none
  | .vredmax d a b => if isIFB ty then reduce d a b (redExt true ty (policyOf s.hart.vec.vmode)) else none
  | .vredmin d a b => if isIFB ty then reduce d a b (redExt false ty (policyOf s.hart.vec.vmode)) else none
  | .vscan d a b =>
    if isIFB ty then
      let n := count (winOp s a 1)
      let r := scanOut ty (policyOf s.hart.vec.vmode) (srcElem s (winOp s b 2) 0) (activeElems s (winOp s a 1))
      some (winOp s d 0, operands d a b n n, if n ≤ s.hart.vec.vstart then [] else r.1, if n ≤ s.hart.vec.vstart then 0 else r.2)
    else none
  | .vcompress d a =>
    if isIFB ty then
      let n := count (winOp s a 1)
      some (winOp s d 0, [dstOpd s (winOp s d 0) ty.width n (decide (n ≤ count (winOp s d 0))), srcOpd (winOp s a 1) ty.width n],
        (activeElems s (winOp s a 1)).mapIdx fun j p => (j, p.2), 0)
    else none
  | .vexpand d a =>
    if isIFB ty then
      let n := count (winOp s d 0)
      some (winOp s d 0, [elemDst s (winOp s d 0) ty false, srcOpd (winOp s a 1) ty.width n],
        ((List.range n).filter fun k => guardOn s (k % neff (winOp s d 0))).mapIdx fun j k => (k, srcElem s (winOp s a 1) j), 0)
    else none
  | .spto d a =>
    if isWide ty then
      let w := winOp s d 0
      some (w, [dstOpd s w ty.width (count w) (!isPair w),
          { win := winOp s a 1, width := some ty.width, shape := isPair (winOp s a 1), reads := count (winOp s a 1), writes := 0 }],
        (pairsOf s (winOp s a 1) fun _ => true).filter fun p => decide (p.1 < count w) && guardOn s (p.1 % neff w), 0)
    else none
  | _ => none
where
  operands (d a b : BitVec 6) (n m : Nat) : List Opd :=
    [dstOpd s (winOp s d 0) ty.width m (decide (m ≤ count (winOp s d 0))), srcOpd (winOp s a 1) ty.width n,
      srcOpd (winOp s b 2) ty.width (if n = 0 then 0 else 1)]
  reduce (d a b : BitVec 6) (f : Nat → List Nat → Nat × Flags) : Option (WinOp × List Opd × List (Nat × Nat) × Flags) :=
    let n := count (winOp s a 1)
    let r := f (srcElem s (winOp s b 2) 0) ((activeElems s (winOp s a 1)).map (·.2))
    some (winOp s d 0, operands d a b n (if n = 0 then 0 else 1),
      if n ≤ s.hart.vec.vstart then [] else [(0, r.1)], if n ≤ s.hart.vec.vstart then 0 else r.2)

/-- The instructions that set CLEN (R170, R171): the operands, and the pairs of the result with their flags. -/
def pairSpec (s : State) (ty : Ty) : Instr → Option (BitVec 6 × List Opd × List (Nat × Nat) × Flags)
  | .spadd d a b => if isWide ty then merge d a b true (lane s ty (onInts fun x y _ => x + y) (fun x y _ => x.add (policyOf s.hart.vec.vmode).rm y)) else none
  | .spmul d a b => if isWide ty then merge d a b false (lane s ty (onInts fun x y _ => x * y) (fun x y _ => x.mul y)) else none
  | .spfrom d a =>
    if isWide ty then
      let w := winOp s a 1
      some (d, [dest d, { win := w, width := some ty.width, shape := !isPair w && decide (count w ≤ 2 ^ wEw (rw s d)), reads := count w, writes := 0 }],
        (activeElems s w).filter (fun p => !isZeroElem ty (policyOf s.hart.vec.vmode) p.2), 0)
    else none
  | _ => none
where
  dest (d : BitVec 6) : Opd := dstOpd s (winOp s d 0) ty.width (pairCap (winOp s d 0)) (isPair (winOp s d 0))
  pair (w : WinOp) : Opd := { win := w, width := some ty.width, shape := isPair w, reads := count w, writes := 0 }
  merge (d a b : BitVec 6) (union : Bool) (f : Nat → Nat → Nat → Nat × Flags) : Option (BitVec 6 × List Opd × List (Nat × Nat) × Flags) :=
    let xs := pairsOf s (winOp s a 1) (guardOn s)
    let ys := pairsOf s (winOp s b 2) (guardOn s)
    let r := mergePairs union (fun x y => f x y 0) (xs.length + ys.length + 1) xs ys
    some (d, [dest d, pair (winOp s a 1), pair (winOp s b 2)], r.1, r.2)

/-! ## The matrix path -/

/-- The checks of R184 pass and the queue has room. -/
abbrev matReady (s : State) (ty : Ty) (q : MReq) : Prop :=
  modeIll s.hart.vec.vmode = false ∧ modeTy s.hart.vec.vmode = some ty ∧ matrixOn s = true ∧ queueFull s = false
  ∧ (∀ o ∈ q.ops, winFits s o.win = true ∧ badWidth o = false ∧ o.shape = true)
  ∧ (∀ t, q.tile = some t → t < mvlTiles s.hart.mat.mvl) ∧ q.handle = none
  ∧ (∀ w ∈ q.slots, allClaimed s w = true) ∧ q.last = none

/-- The instructions that are posted to the matrix queue (R190 to R199): what their checks look at, the descriptors they
capture, and MMASP's metadata. None: another instruction, or a type it does not accept. -/
def matSpec (s : State) (ty : Ty) : Instr → Option (MReq × Word × Word × List Nat)
  | .mrankAdd t a b _ => if isMM ty then some (rank t a b) else none
  | .mrankSub t a b _ => if isMM ty then some (rank t a b) else none
  | .mma t a b =>
    if isMM ty then
      some ({ ops := [opd a 1 (isRect (rw s a) && decide (innerOf (rw s a) ≤ mvlNow s)),
                opd b 2 (isRect (rw s b) && outerOf (rw s b) == outerOf (rw s a) && decide (innerOf (rw s b) ≤ mvlNow s))]
              tile := some t.toNat, handle := none, slots := [winOp s a 1, winOp s b 2], last := none }, rw s a, rw s b, [])
    else none
  | .mmasp t v b =>
    if isSP ty then
      let m := rw s (v + 1)
      some ({ ops := [opd v 1 (isRect (rw s v) && decide (outerOf (rw s v) ≤ mvlNow s) && 2 * innerOf (rw s v) == outerOf (rw s b)),
                matOpd s (winOp s (v + 1) 1) none
                  (isRect m && outerOf m == outerOf (rw s v) && wEw m == 8 && 8 * innerOf m == outerOf (rw s b)),
                opd b 2 (isRect (rw s b) && decide (innerOf (rw s b) ≤ mvlNow s))]
              tile := some t.toNat, handle := none, slots := [winOp s v 1, winOp s b 2], last := metaTrap s (.mmasp t v b) (winOp s (v + 1) 1) },
        rw s v, rw s b, metaBytes s (winOp s (v + 1) 1))
    else none
  | .mzero t => some ({ ops := [], tile := some t.toNat, handle := none, slots := [], last := none }, 0, 0, [])
  | .atow t d n x =>
    some ({ ops := [opd d 1 (tileShape s (rw s d))], tile := some t.toNat, handle := none, slots := []
            last := mixedTrap s (.atow t d n x) (winOp s d 1) }, rw s d, 0, [])
  | .wtoa t a n _ =>
    if n = 0#1 ∨ ty.isFloat = false then
      some ({ ops := [opd a 1 (tileShape s (rw s a))], tile := some t.toNat, handle := none, slots := [], last := none }, rw s a, 0, [])
    else none
  | .ared t d _ => if isTileTy ty then some (column t d) else none
  | .amulr t a => if isTileTy ty then some (column t a) else none
  | .aaddr t a => if isTileTy ty then some (column t a) else none
  | _ => none
where
  opd (r : BitVec 6) (role : Nat) (shape : Bool) : Opd := matOpd s (winOp s r role) (some ty.width) shape
  rank (t : BitVec 4) (a b : BitVec 6) : MReq × Word × Word × List Nat :=
    ({ ops := [opd a 1 (isLine (rw s a) && decide (innerOf (rw s a) ≤ mvlNow s)),
          opd b 2 (isLine (rw s b) && decide (innerOf (rw s b) ≤ mvlNow s))]
       tile := some t.toNat, handle := none, slots := [winOp s a 1, winOp s b 2], last := none }, rw s a, rw s b, [])
  column (t : BitVec 4) (d : BitVec 6) : MReq × Word × Word × List Nat :=
    ({ ops := [opd d 1 (colShape s (rw s d))], tile := some t.toNat, handle := none, slots := [], last := none }, rw s d, 0, [])

/-- The order by which MCOMP ranks values (R194): |a| is at least |b|, with Inf above every finite value and NaN above Inf. -/
def magnitudeAtLeast (ty : Ty) (a b : Nat) : Bool :=
  match ty with
  | .int sg w => decide ((intOf sg w b).natAbs ≤ (intOf sg w a).natAbs)
  | .flt f =>
    match f.decode a, f.decode b with
    | .nan _, _ => true
    | _, .nan _ => false
    | x, y => decide (0 ≤ x.abs.cmp y.abs)

/-- The k of a multiply from `k` on, in its groups of `g` (R83, R84): the last may be shorter. -/
def groupsOfK (g k kk : Nat) : List (List Nat) :=
  (List.range ((kk - k + g - 1) / g)).map fun q => ((List.range g).map fun j => k + g * q + j).filter fun x => decide (x < kk)

/-- What a matrix instruction makes of its tile when it completes (R191 to R193, R195, R197, R199): the tile, and for a row and
a column the new word with its flags; none: the word stays. An MMA or MMASP goes on from the k that its entry has reached. -/
def tileSpec (t : State) (e : MEntry) : Option (Nat × (Nat → Nat → Option (Nat × Flags))) :=
  match e.op with
  | .mrankAdd tile _ _ x => some (tile.toNat, rank tile.toNat (x == 1#1) false)
  | .mrankSub tile _ _ x => some (tile.toNat, rank tile.toNat (x == 1#1) true)
  | .mma tile _ _ =>
    some (tile.toNat, multiply tile.toNat (outerOf e.wa) (innerOf e.wa) fun i k => some (0, k, i))
  | .mmasp tile _ _ =>
    some (tile.toNat, multiply tile.toNat (outerOf e.wb) (outerOf e.wa) fun i k =>
      let bm := e.bytes.getD (i * (outerOf e.wb / 8) + k / 8) 0
      if natBit bm (k % 8) then some (1, i, 4 * (k / 8) + ((List.range (k % 8)).filter (natBit bm)).length) else none)
  | .mzero tile => some (tile.toNat, fun _ _ => some (0, 0))
  | .wtoa tile _ n x => some (tile.toNat, fun r c =>
      let o := if x = 1#1 then c else r
      let i := if x = 1#1 then r else c
      if o < outerOf e.wa ∧ i < innerOf e.wa then
        let v := readCell t e.wa (cell (entryWin e e.wa) o i)
        match entryTy e with
        | .flt f => some ((roundF32 (f.decodeIn (policyOf e.vmode) v)).1, (roundF32 (f.decodeIn (policyOf e.vmode) v)).2 ||| (f.decode v).sigFlag)
        | .int sg w => some (if n = 1#1 then ((intOf sg w v % 2 ^ 32).toNat, 0) else roundF32 (numOfInt (intOf sg w v)))
      else none)
  | .amulr tile _ => some (tile.toNat, rows tile.toNat fun x y => (x.mul y).1)
  | .aaddr tile _ => some (tile.toNat, rows tile.toNat fun x y => (x.add 0 y).1)
  | _ => none
where
  old (tile r c : Nat) : Nat := accGet t e.mvl tile r c
  rank (tile : Nat) (tr sub : Bool) (r c : Nat) : Option (Nat × Flags) :=
    let i := if tr then c else r
    let j := if tr then r else c
    if i < innerOf e.wa ∧ j < innerOf e.wb then
      match entryTy e with
      | .flt f =>
        let q := ((matNum t e f e.wa 0 i true).mul (matNum t e f e.wb 0 j true)).1
        some (accFloat (old tile r c) false [if sub then q.neg else q])
      | .int sg w =>
        let q := matInt t e sg w e.wa 0 i * matInt t e sg w e.wb 0 j
        some (accInt (old tile r c) [if sub then -q else q])
    else none
  multiply (tile kk m : Nat) (left : Nat → Nat → Option (Nat × Nat × Nat)) (i j : Nat) : Option (Nat × Flags) :=
    if i < m ∧ j < innerOf e.wb then
      match entryTy e with
      | .flt f =>
        let g := if f.width = 16 then 1 else 4
        some ((groupsOfK g e.k kk).foldl (fun acc ks =>
          let ps := ks.filterMap fun k => (left i k).map fun p => ((matNum t e f e.wa p.2.1 p.2.2 (p.1 == 0)).mul (matNum t e f e.wb k j true)).1
          let v := accFloat acc.1 (decide (f.width = 8) && decide (ks.length < 4)) ps
          (v.1, acc.2 ||| v.2)) (old tile i j, 0))
      | .int sg w =>
        some (accInt (old tile i j) (((List.range kk).filter fun k => decide (e.k ≤ k)).filterMap fun k =>
          (left i k).map fun p => matInt t e sg w e.wa p.2.1 p.2.2 * matInt t e sg w e.wb k j))
    else none
  rows (tile : Nat) (op : Num → Num → Num) (r c : Nat) : Option (Nat × Flags) :=
    if r < innerOf e.wa ∧ c < min e.vl (mvlLen e.mvl) then
      match entryTy e with
      | .flt f =>
        let v := roundF32 (op (fmtF32.decode (old tile r c)) (f.decodeIn (policyOf e.vmode) (readCell t e.wa (cell (entryWin e e.wa) 0 r))))
        some (v.1, v.2 ||| flagIf (fmtF32.decode v.1).isNaN flagNV)
      | .int _ _ => some (old tile r c, 0)
    else none

/-- What ATOW and ARED write into element (o, i) of their window, with its flags (R196, R198). -/
def tileOut (t : State) (e : MEntry) : Option (Nat → Nat → Nat × Flags) :=
  let p := policyOf e.vmode
  match e.op, entryTy e with
  | .atow tile _ n x, ty => some fun o i =>
    let w := accGet t e.mvl tile.toNat (if x = 1#1 then i else o) (if x = 1#1 then o else i)
    match ty with
    | .flt f =>
      if n = 1#1 then rnd f p (numOfInt (intOf true 32 w))
      else ((rnd f p (fmtF32.decode w)).1, (rnd f p (fmtF32.decode w)).2 ||| (fmtF32.decode w).sigFlag)
    | .int sg b => if n = 1#1 then (intToInt p.sat true 32 sg b w, 0) else floatToInt sg b p.rm (fmtF32.decode w)
  | .ared tile _ q, .flt f => some fun _ r =>
    let word (j : Nat) : Num := fmtF32.decode (accGet t e.mvl tile.toNat r j)
    let add (acc : Num × Flags) (x : Num) : Num × Flags :=
      let v := roundF32 (acc.1.add 0 x).1
      (fmtF32.decode v.1, acc.2 ||| v.2 ||| flagIf (fmtF32.decode v.1).isNaN flagNV)
    let cols := List.range (min e.vl (mvlLen e.mvl))
    let a := match q.toNat with
      | 0 => cols.foldl (fun acc j => add acc (word j)) (.fin false 0 0, 0)
      | 1 => cols.foldl (fun acc j => add acc ((word j).mul (word j)).1) (.fin false 0 0, 0)
      | _ => cols.foldl (fun acc j => ((acc.1.minmax true (word j)).1, acc.2 ||| (acc.1.minmax true (word j)).2)) (.inf true, 0)
    ((rnd f p a.1).1, (rnd f p a.1).2 ||| a.2)
  | _, _ => none

/-! ## Vector accesses to memory -/

/-- Element k is still to be done: performed, and under an unordered instruction not already marked in CMASK (R212). -/
abbrev pending (s : State) (d : WinOp) (unordered : Bool) (k : Nat) : Prop :=
  performed s d k ∧ (unordered = true → k < s.hart.vec.vstart + 1024 → s.hart.vec.cmask.getLsbD (k - s.hart.vec.vstart) = false)

/-- The vector loads under element type `ty` (R213 to R215): the data window, the operands, whether the load is unordered,
and what each element loads where memory is read in `r` through path `p`. -/
def loadSpec (s r : State) (p : Path) (ty : Ty) : Instr → Option (WinOp × List Opd × Bool × (Nat → MRes (Nat × Flags)))
  | .ldt h a b w =>
    match tensorAt s h.toNat with
    | some g => some (winOp s w 0, [dataDst s (winOp s w 0) ty], false, ldtElem r p g (coords (rx s a) (rx s b)) (winOp s w 0) ty)
    | none => none
  | .ldv a w =>
    if isFifoVa (rx s a).toNat then none
    else some (winOp s w 0, [dataDst s (winOp s w 0) ty], false,
      fun k => raw (((rx s a).toNat + k * ty.width / 8) % 2 ^ 64) (if ty.width = 4 then k % 2 else 0))
  | .lds a b w => some (winOp s w 0, [dataDst s (winOp s w 0) ty], false, fun k => raw ((rx s a + BitVec.ofNat 64 k * rx s b).toNat) 0)
  | .gath d a b =>
    some (winOp s d 0, gathOpds s (winOp s d 0) (winOp s a 1) false true ty, true, fun k => raw (gathAddr s (rx s b) (winOp s a 1) k) 0)
  | _ => none
where
  raw (va nib : Nat) : MRes (Nat × Flags) := (loadElem r r p va nib ty.width).bind fun v => .ok (v, 0)

/-- The registers that a vector load takes its addresses from. -/
def addressRegs : Instr → List (BitVec 5)
  | .ldt _ a b _ => [a, b]
  | .ldv a _ => [a]
  | .lds a b _ => [a, b]
  | .gath _ _ b => [b]
  | _ => []

/-- Where the elements lie that a vector load has still to load: addresses and bytes. -/
def loadPlaces (s : State) : Instr → List (Nat × Nat)
  | .ldt h a b w => (left (winOp s w 0) false).map fun k =>
      tileSpan s (s.hart.path s) (rh s h.toNat) (tilePoint (coords (rx s a) (rx s b)) (winOp s w 0) k)
  | .ldv a w => at_ (winOp s w 0) false fun k => ((rx s a).toNat + k * wEw (rw s w) / 8) % 2 ^ 64
  | .lds a b w => at_ (winOp s w 0) false fun k => (rx s a + BitVec.ofNat 64 k * rx s b).toNat
  | .gath d a b => at_ (winOp s d 0) true (gathAddr s (rx s b) (winOp s a 1))
  | _ => []
where
  left (w : WinOp) (un : Bool) : List Nat := performedElems s s w un none
  at_ (w : WinOp) (un : Bool) (va : Nat → Nat) : List (Nat × Nat) := (left w un).map fun k => (va k, elemBytes (wEw w.desc))

/-- Where a vector load that starts in `s` works: on `u`, the stores of its stream having performed, and reading `r` through
`p`. That is memory as it is; while the hart has a view that serves, and every element can be loaded there, it is the view's, which
counts what it has served (R268, R269, R270, log 118). -/
def loadsFrom (s : State) (i : Instr) (ty : Ty) (u r : State) (p : Path) : Prop :=
  let d := drain s true
  let here : Prop := u = dropView d ∧ r = u ∧ p = u.hart.vpath u
  match s.hart.weak.viewV with
  | none => here
  | some v =>
    let seen := viewed d (d.hart.vpath d) v
    let w := v.reads (spanKeys d (d.hart.vpath d) (loadPlaces s i))
    if viewServes d w (addressRegs i) then
      (u = withViewV d w ∧ r = seen.1 ∧ p = seen.2)
      ∨ (here ∧ ∃ w ops un load k, loadSpec s seen.1 seen.2 ty i = some (w, ops, un, load) ∧ k < count w ∧ pending s w un k ∧ ∀ x, load k ≠ .ok x)
    else here

/-- Everything but the galley, VFLAGS, VSTART, CMASK and the points that bound windows give up is as it was. -/
def loadFrame (s t : State) (ops : List Opd) (unordered : Bool) : Prop :=
  t.hart.vec.vstart = 0 ∧ t.hart.eng.streams = (popAll s ops).hart.eng.streams
  ∧ settled s t = { s with hart := { s.hart with
      vec := { s.hart.vec with galley := t.hart.vec.galley, vflags := t.hart.vec.vflags, vstart := 0
                               cmask := if unordered then 0 else s.hart.vec.cmask }
      eng := { s.hart.eng with streams := t.hart.eng.streams } } }

/-- The vector stores (R213 to R215): the data window, the operands, whether the store is unordered, what storing element k
does to a state, and the address and size of what it stores. -/
def storeSpec (s : State) (ty : Ty) : Instr → Option (WinOp × List Opd × Bool × (State → Nat → MRes State) × (Nat → Option (Nat × Nat)))
  | .stt h a b w =>
    match tensorAt s h.toNat with
    | some g => some (winOp s w 0, [dataSrc (winOp s w 0) ty], false,
        (fun u k => if g.inside (tilePoint (coords (rx s a) (rx s b)) (winOp s w 0) k)
          then writePoint s u (s.hart.vpath s) g (tilePoint (coords (rx s a) (rx s b)) (winOp s w 0) k) ty (srcElem s (winOp s w 0) k) else .ok u),
        (fun k => if g.inside (tilePoint (coords (rx s a) (rx s b)) (winOp s w 0) k) then
            match redirect s (s.hart.vpath s) g (tilePoint (coords (rx s a) (rx s b)) (winOp s w 0) k) with
            | .ok l => some (pointVa s (s.hart.vpath s) g l (tilePoint (coords (rx s a) (rx s b)) (winOp s w 0) k), elemBytes g.ebits)
            | _ => none
          else none))
    | none => none
  | .stv a w =>
    if isFifoVa (rx s a).toNat then none
    else some (winOp s w 0, [dataSrc (winOp s w 0) ty], false,
      (fun u k => storeElem s u (s.hart.vpath s) (((rx s a).toNat + k * ty.width / 8) % 2 ^ 64) (if ty.width = 4 then k % 2 else 0) ty.width
        (srcElem s (winOp s w 0) k)),
      (fun k => some (((rx s a).toNat + k * ty.width / 8) % 2 ^ 64, elemBytes ty.width)))
  | .sts a b w =>
    some (winOp s w 0, [dataSrc (winOp s w 0) ty], false,
      (fun u k => storeElem s u (s.hart.vpath s) (rx s a + BitVec.ofNat 64 k * rx s b).toNat 0 ty.width (srcElem s (winOp s w 0) k)),
      (fun k => some ((rx s a + BitVec.ofNat 64 k * rx s b).toNat, elemBytes ty.width)))
  | .scat d a b =>
    some (winOp s d 0, gathOpds s (winOp s d 0) (winOp s a 1) true false ty, true,
      (fun u k => storeElem s u (s.hart.vpath s) (gathAddr s (rx s b) (winOp s a 1) k) 0 ty.width (srcElem s (winOp s d 0) k)),
      (fun k => some (gathAddr s (rx s b) (winOp s a 1) k, elemBytes ty.width)))
  | _ => none

/-- The stores of the pending elements below `n`, in ascending order. -/
def storesBelow (s : State) (d : WinOp) (unordered : Bool) (f : State → Nat → MRes State) : Nat → MRes State
  | 0 => .ok s
  | n + 1 => (storesBelow s d unordered f n).bind fun u =>
      if s.hart.vec.vstart ≤ n ∧ guardOn s (n % neff d) = true
          ∧ (unordered = true → n < s.hart.vec.vstart + 1024 → s.hart.vec.cmask.getLsbD (n - s.hart.vec.vstart) = false)
      then f u n else .ok u

/-- The operands of a vector instruction in the order in which the checks at dispatch take them (R43). -/
def dispatchOpds (s : State) (ty : Ty) (i : Instr) : Option (List Opd) :=
  ((elemSpec s ty i).map (·.2.1)).or <| ((compareSpec s ty i).map (·.2.2.1)).or <| ((wholeSpec s ty i).map (·.2.1)).or <|
    ((pairSpec s ty i).map (·.2.1)).or <| ((loadSpec s s (s.hart.vpath s) ty i).map (·.2.1)).or ((storeSpec s ty i).map (·.2.1))

/-! ## Engine commands -/

/-- The barrier that the latest SBIND on counter `c` has bound to its next command (R252). -/
def boundBarrier (s : State) (c : Nat) : Option Nat := (s.hart.eng.sbind.find? fun p => p.1 == c).map (·.2)

/-- Command `i` has been issued on counter `c` (R227, R230, R252): it is in the queue with what `P` says it captured and the
barrier that was bound to the counter, the counter is one higher, and nothing else has changed. -/
def issuedCmd (s t : State) (i : Instr) (c : BitVec 4) (P : Cmd → Prop) : Prop :=
  (∃ k, t.hart.eng.cmds = s.hart.eng.cmds ++ [k] ∧ k.id = s.nextId ∧ k.op = i ∧ k.ctr = c.toNat ∧ k.units = 0
    ∧ k.sb = boundBarrier s c.toNat ∧ P k)
  ∧ (rc t c.toNat).count = (rc s c.toNat).count + 1 ∧ (rc t c.toNat).poison = (rc s c.toNat).poison
  ∧ (∀ k, k ≠ c.toNat → rc t k = rc s k)

def issues (o : Out) (s : State) (i : Instr) (c : BitVec 4) (P : Cmd → Prop) : Prop :=
  retires o s fun t => issuedCmd s t i c P
    ∧ settled s t = { s with nextId := s.nextId + 1, hart := { s.hart with c := t.hart.c, eng := { s.hart.eng with cmds := t.hart.eng.cmds, sbind := t.hart.eng.sbind } } }

/-- Once the scalar stores before it have performed, the block of `n` double words at X[a] can be read and holds `ws`. -/
abbrev blockRead (s : State) (a : BitVec 5) (n : Nat) (ws : List Word) : Prop :=
  let u := syncScalar s
  (rx s a).toNat % 64 = 0 ∧ fenced s clsS = false ∧ loadWords u (u.hart.path u) (rx s a).toNat n = .ok ws

/-- The physical address of a byte that an engine writes as it is: on a page that is not compressed. -/
def bytePlace (s : State) (p : Path) (va : Nat) : Option Nat :=
  match locate s p va .store with
  | .ok (.pa a w _) => if leafCmp w then none else some a
  | _ => none

/-- Every byte that `ws` write has such an address, and none of them is part of a table through which another is found. -/
def plainTargets (s : State) (p : Path) (ws : List Wr) : Prop :=
  ∀ m : List Host.Cell, (∀ x, (∀ w ∈ ws, bytePlace s p w.va ≠ some x) → readPa { s with mem := m } x = readPa s x) →
    ∀ w ∈ ws, bytePlace s p w.va ≠ none ∧ bytePlace { s with mem := m } p w.va = bytePlace s p w.va

/-- From `s` to `t` the writes `ws` have been made, one after the other, and no other byte of memory has changed. -/
def engineWrote (s t : State) (p : Path) (ws : List Wr) : Prop :=
  (∀ x, readPa t x = (ws.filter fun w => bytePlace s p w.va == some x).foldl (fun b w => BitVec.ofNat 8 (w.merge b.toNat)) (readPa s x))
  ∧ t.banks = s.banks

/-- The items `n` to `n + c - 1` give these writes. -/
def itemsGive (f : Nat → MRes (List Wr)) (n c : Nat) (ws : List Wr) : Prop :=
  ∃ parts : List (List Wr), parts.length = c ∧ (∀ j x, parts[j]? = some x → f (n + j) = .ok x) ∧ ws = parts.flatten

/-- A point's element and its scale, moved between two storages (R235): from the source's place to the target's, on pages of the
same geometry. -/
def pointMove (r : State) (q : Path) (hs : Handle) (ls : Layout) (pt : Point) (hd : Handle) (ld : Layout) (tp : Point)
    (blockOk : Nat → Prop) [DecidablePred blockOk] : MRes (List Wr) :=
  (findPoint r q hs ls pt .load).bind fun x => (handleValue r q hs x).bind fun v => (elemScale r x).bind fun sc =>
    (findPoint r q hd ld tp .store).bind fun y =>
      if x.widthOk hs.ebits = true ∧ y.widthOk hd.ebits = true ∧ y.packed = false ∧ x.blk = y.blk ∧ (y.blk ≠ 0 → blockOk y.blk) then
        .ok (ownWrs r q hd (elemWr y.va y.nib hd.ebits v ++ (match sc with | some b => y.scaleWr b | none => [])))
      else .trap causeFormatMismatch y.va

/-- What a copy writes, read in `r` through `q` (R235, R236, R238, R239): how many bytes or elements, how many make a unit of
4 KiB of destination, and the writes of each. -/
def copySpec (r : State) (q : Path) (k : Cmd) : Option (Nat × Nat × (Nat → MRes (List Wr))) :=
  let v := k.blk
  match k.op with
  | .copyBlock _ _ =>
    let n0 := blockField v 16 32
    let n1 := blockField v 20 32
    let side (base s1 s2 j : Nat) : Nat :=
      addr64 ((blockField v base 64 : Nat) + (j / n0 / n1 : Nat) * blockInt v s2 + (j / n0 % n1 : Nat) * blockInt v s1 + (j % n0 : Nat))
    if copyBlockBad v then none
    else some (n0 * n1 * blockField v 24 32, 4096, fun j =>
      (imageByte r q (side 0 32 48 j)).bind fun b => .ok (rawWrs r q [{ va := side 8 40 56 j, mask := 0xFF, byte := b.toNat }]))
  | .qcopyBlock _ _ =>
    let b := blockField v 30 8
    let mode := blockField v 31 8
    match qcopyBlockBad v, tyOfCode (BitVec.ofNat 8 (blockField v 28 8)), tyOfCode (BitVec.ofNat 8 (blockField v 29 8)) with
    | false, some (.flt g), some (.flt f) =>
      let n := g.width / 8
      some (blockField v 24 32, 4096, fun j =>
        (imageList r q (blockField v 0 64 + j / b * b * n) (b * n)).bind fun bs =>
          let x := qblock f { Policy.plain with rm := mode % 8, sat := natBit mode 3 }
            ((List.range b).map fun i => g.decode (natOfBytes ((bs.drop (i * n)).take n)))
          .ok (rawWrs r q ([{ va := blockField v 8 64 + j, mask := 0xFF, byte := x.2.getD (j % b) 0 }]
            ++ (if j % b = b - 1 then [{ va := blockField v 16 64 + j / b, mask := 0xFF, byte := x.1 }] else []))))
    | _, _, _ => none
  | .copy _ _ _ _ _ =>
    some (k.hs.size, 4096 * 8 / k.h.ebits, fun j =>
      let pt := rasterPoint k.hs j
      (redirect r q k.hs pt).bind fun ls => (redirect r q k.h (offsetPoint k.c pt)).bind fun ld =>
        pointMove r q k.hs ls pt k.h ld (offsetPoint k.c pt) fun b => k.c.getD 0 0 % b = 0 ∧ k.hs.ext 0 % b = 0)
  | .qcopy _ _ _ _ _ _ =>
    match qBlockSize r q k with
    | .ok b =>
      some (k.hs.size / b * b, 4096 / b * b, fun j =>
        (seqRes (fun n => qSource r q k.hs (rasterPoint k.hs (j / b * b + n))) (List.range b)).bind fun xs =>
          (qTarget r q k.h (offsetPoint k.c (rasterPoint k.hs (j / b * b)))).bind fun y0 =>
          (qTarget r q k.h (offsetPoint k.c (rasterPoint k.hs j))).bind fun y =>
            let x := qblock y0.2 { Policy.plain with sat := qSat k.op } xs
            .ok (ownWrs r q k.h (elemWr y.1.va 0 8 (x.2.getD (j % b) 0) ++ y.1.scaleWr x.1)))
    | _ => none
  | _ => none

/-- What the conversion of sheet `j` writes (R241, R242): every point of the sheet's plane whose new place lies in it, from the
old storage to the new one. -/
def sheetSpec (s : State) (p : Path) (r : Relay) (j n : Nat) : MRes (List Wr) :=
  let pt := (sheetPoints r.h j).getD n { d0 := 0, d1 := 0, d2 := 0, d3 := 0 }
  pointMove s p r.h { tag := r.h.otag, base := r.h.base, ld := r.oldLd } pt r.h r.h.newLayout pt fun _ => True

/-- Command `k` is gone from the queue and its counter is one lower (R228, R230). -/
def cmdGone (t u : State) (k : Cmd) : Prop :=
  u.hart.eng.cmds = t.hart.eng.cmds.filter (fun x => x.id ≠ k.id)
  ∧ (k.ctr < 16 → (rc u k.ctr).count = (rc t k.ctr).count - 1) ∧ ∀ n, n ≠ k.ctr → rc u n = rc t n

/-- Counter `n` is poisoned; the first poisoning's errata address is kept (R229). -/
def poisoned (t u : State) (n : Nat) : Prop :=
  n < 16 → (rc u n).poison = true ∧ ((rc t n).poison = true → (rc u n).first = (rc t n).first)

/-- The hart of a state waits for `w` at instruction `i`, on its core and not stopped. -/
def waitsAt (t : State) (w : Wait) (i : Instr) : Prop :=
  t.hart.status = .waiting w ∧ active t.hart = true ∧ ∃ x, fetchWord t = .ok x ∧ decodeWord t.hart.who.dispatch x = .ok i

/-! ## The distributor, the hub and the host -/

/-- Every hart of a gang that goes on has been asked to stop, and so is the gang marked; of a hart nothing else changes. -/
def askedToStop (s t : State) (n g : Nat) : Prop :=
  (∀ h ∈ allHarts t, inGang n g h = true → hartOver h = true ∨ h.stopReq = true)
  ∧ (∀ x, gangAt t n g = some x → x.stop = true)
  ∧ (allHarts t).map (fun h => { h with stopReq := false }) = (allHarts s).map (fun h => { h with stopReq := false })
  ∧ t = { s with hart := t.hart, others := t.others, sched := t.sched }

/-- The first candidate that fits, in the order of R318, and where. -/
def firstThatFits (s : State) (c : Cand) (i : Nat) (ps : List Place) : Prop :=
  ∃ pre post, candidates s = pre ++ c :: post ∧ (∀ x ∈ pre, fitAny s noGang x = none) ∧ fitAny s noGang c = some (i, ps)

/-- The candidate that the distributor finds for a launch and gang. -/
abbrev candFor (s : State) (n g : Nat) (c : Cand) : Prop :=
  (candidates s).find? (fun x => x.l.serial == n && x.gang == g) = some c

/-- The host reaches function `f`'s registers: the PCIe link answers, firmware has been accepted, and `f` is not in reset. -/
abbrev hostReaches (s : State) (f : Nat) : Prop :=
  hostUp s = true ∧ f ≤ 64 ∧ (fnAt s f).reset = false ∧ s.hub.sec.failed = false

/-- Only the hub has changed from `s` to `t`. -/
def hubOnly (s t : State) : Prop := t = { s with hub := t.hub }

/-- The violation log has one entry more (R346): its source, kind and address, and nothing else has changed. -/
def logged (s t : State) (src kind : Nat) (addr : Word) : Prop :=
  t.hub.violHead = s.hub.violHead + 1 ∧ t = { s with hub := { s.hub with viol := t.hub.viol, violHead := t.hub.violHead } }
  ∧ ∃ v ∈ t.hub.viol, v.addr = addr ∧ v.src = src ∧ v.kind = kind ∧ v.time = s.time / 1000 % 2 ^ 32

end Sys2Proof.Safety
end

