-- ==== Sys2Proof/Certificates/Slice0/Obligations.lean ====
section
/-!
DEFINITION. The statements for the provers. A statement about an instruction says, for every state and operands that meet
its hypotheses, that the instruction completes, what it leaves, and that nothing else has changed.
-/
open Sys2Proof Sys2Proof.Machine Sys2Proof.Safety

/-! ## Words -/

/-- The eleven words of R139's program decode to its instructions. -/
def Obligations.WordsDecode : Prop :=
  decodeWord false 0x18500005#32 = .ok (.jal 5 5)
  ∧ decodeWord false 0x1E900218#32 = .ok (.csrr 9 0x043)
  ∧ decodeWord false 0x04948001#32 = .ok (.addi 9 9 1)
  ∧ decodeWord false 0x1E800210#32 = .ok (.csrr 8 0x042)
  ∧ decodeWord false 0x1E00000C#32 = .ok .tret
  ∧ decodeWord false 0x06529001#32 = .ok (.ori 5 5 1)
  ∧ decodeWord false 0x1E028201#32 = .ok (.csrw 5 0x040)
  ∧ decodeWord false 0x0460002A#32 = .ok (.addi 6 0 42)
  ∧ decodeWord false 0x1E030004#32 = .ok (.trap 6)
  ∧ decodeWord false 0x02A48000#32 = .ok (.add 10 9 0)
  ∧ decodeWord false 0x1E000034#32 = .ok .halt

/-- R89, R101: decoding undoes encoding, for every well-formed instruction. -/
def Obligations.DecodeEncode : Prop :=
  ∀ i : Instr, i.wf = true → ∃ w, encode i = some w ∧ decodeWord false w = .ok i

/-- A word has one meaning: what a word decodes to is well-formed, and encodes to that word. -/
def Obligations.EncodeDecode : Prop :=
  ∀ (dh : Bool) (w : BitVec 32) (i : Instr), decodeWord dh w = .ok i → i.wf = true ∧ encode i = some w

/-- R308: a dispatch hart refuses every major but those of R308, with ILLEGAL_OP, and reads the others as any hart does,
but for the system registers that it lacks. -/
def Obligations.DispatchMajors : Prop :=
  ∀ w : BitVec 32,
    ((fld w 25 7).toNat ∉ [0x01, 0x02, 0x03, 0x04, 0x05, 0x06, 0x07, 0x08, 0x09, 0x0A, 0x0B, 0x0C, 0x0D, 0x0E, 0x0F, 0x10,
        0x66, 0x70, 0x71, 0x75, 0x76, 0x78, 0x7B] → decodeWord true w = .error .illegalOp)
    ∧ ((fld w 25 7).toNat ∈ [0x01, 0x02, 0x03, 0x04, 0x05, 0x06, 0x07, 0x08, 0x09, 0x0A, 0x0B, 0x0C, 0x0D, 0x0E, 0x10,
        0x66, 0x70, 0x71, 0x75, 0x76, 0x78, 0x7B] → decodeWord true w = decodeWord false w)

/-! ## Steps -/

/-- Where nothing is on the agenda and the hart whose turn it is can go on, and the four bytes at its pc decode to an
instruction, a step is what the instruction does, with the cache and TLB events of its accesses counted (R360, R367), the
translations kept of an access that waits (R335), and the views that still serve (R270). So is the turn of any hart that the agenda
names. Where the core's pin store has no room for the instruction, the hart waits (R335). -/
def Obligations.StepRunsDecoded : Prop :=
  ∀ (s : State) (a lg : Nat) (leaf : Word) (i : Instr),
    locate s (s.hart.path s) s.hart.pc.toNat .fetch = .ok (.pa a leaf lg) → a / 64 ∉ s.poison →
    (∀ e ∈ s.hart.icache, e.1 ≠ s.hart.pc.toNat) → s.hart.weak.late = [] → s.hart.status ≠ .waiting .halt →
    decodeWord s.hart.who.dispatch (wordOfBytes (readPa s a) (readPa s (a + 1)) (readPa s (a + 2)) (readPa s (a + 3))) = .ok i →
    let runs (o : Out) : Prop :=
      (pinsFull s i = false → ∀ t, exec i s = .next t → ∃ u, o = .next u ∧ afterInstr s t u i)
      ∧ (pinsFull s i = true → o = .next (waitOn s .stall))
    (s.agenda = [] → s.power = true → executing s → runs (step s))
    ∧ (∀ (r : State) (hid : Nat) (rest : List Act), r.agenda = .run hid :: rest → r.power = true →
        focus { r with agenda := rest } hid = some s → mayRun s s.hart = true → runs (step r))

/-- R101, R308: the tests of a word in their order. One whose major is not assigned, or not open to a dispatch hart, is
ILLEGAL_OP. One whose must-be-zero bit alone is wrong is MBZ_SET: with such bits cleared it is an instruction. A register that
the hart may not name is ILLEGAL_FN before MBZ_SET.

A step at a word that is no instruction takes the trap of the first test it fails, with the word in TVAL; in a dispatch hart it
ends the program (R310). -/
def Obligations.BadWordTraps : Prop :=
  (∀ (dh : Bool) (w : BitVec 32),
    let major := (fld w 25 7).toNat
    (decodeWord dh w = .error .illegalOp ↔
      ¬((1 ≤ major ∧ major ≤ 0x10) ∨ major = 0x66 ∨ major = 0x70 ∨ major = 0x71 ∨ major = 0x75 ∨ major = 0x76 ∨ major = 0x78 ∨ major = 0x7B
        ∨ (dh = false ∧ ((0x20 ≤ major ∧ major ≤ 0x27) ∨ (0x40 ≤ major ∧ major ≤ 0x45) ∨ (0x50 ≤ major ∧ major ≤ 0x57)
            ∨ (0x60 ≤ major ∧ major ≤ 0x68) ∨ (0x70 ≤ major ∧ major ≤ 0x7B)))))
    ∧ (decodeWord dh w = .error .mbzSet → ∃ v i, decodeWord dh v = .ok i ∧ v ≠ w ∧ v &&& w = v))
  ∧ (∀ (dh : Bool) (d a : BitVec 5) (n : BitVec 12), csrReadOk dh n = false →
    decodeWord dh (0x0F#7 ++ d ++ a ++ n ++ 0#3) = .error .illegalFn)
  ∧ ∀ (s : State) (e : BadWord) (w : BitVec 32),
    let cause : BitVec 8 := match e with | .illegalOp => 0x01 | .illegalFn => 0x02 | .mbzSet => 0x03
    let traps (o : Out) : Prop := ∃ t, o = .next t
      ∧ t.hart.trap = { s.hart.trap with
          tepc := s.hart.pc &&& 0x00FFFFFFFFFFFFFC#64
          tcause := 0x8000000000000000#64 ||| cause.setWidth 64
          tval := w.setWidth 64
          tpos := tposPlain s.hart.trap.tpos }
      ∧ (s.hart.who.dispatch = false → supervised s t cause)
      ∧ (s.hart.who.dispatch = true → programEnds s t cause (w.setWidth 64))
    traps (exec (.wordNotInstruction e w) s)
    ∧ (∀ a leaf lg, locate s (s.hart.path s) s.hart.pc.toNat .fetch = .ok (.pa a leaf lg) → a / 64 ∉ s.poison →
        (∀ x ∈ s.hart.icache, x.1 ≠ s.hart.pc.toNat) → s.hart.weak.late = [] →
        wordOfBytes (readPa s a) (readPa s (a + 1)) (readPa s (a + 2)) (readPa s (a + 3)) = w →
        decodeWord s.hart.who.dispatch w = .error e → s.agenda = [] → s.power = true → executing s → traps (step s))

/-- R325 and the registers' tables: the state after module reset. -/
def Obligations.ResetState : Prop :=
  State.reset.hart.status = .absent ∧ State.reset.others = [] ∧ State.reset.hub.ready = false ∧ State.reset.hub.step = 0
  ∧ State.reset.hart.vec.vmode = 0x13 ∧ State.reset.hart.fcsr = 0 ∧ State.reset.hart.trap = TrapState.entry
  ∧ (∀ r, rx State.reset r = 0) ∧ (∀ r, rw State.reset r = 0) ∧ (∀ k, rm State.reset k = 0)
  ∧ (∀ q, queueAt State.reset q = { cfg := 1, posts := [], drop := false, err := false, cause := 0, mberr := 0 })
  ∧ (∀ f, (fnAt State.reset f).ovfVec = 1 ∧ (fnAt State.reset f).root = 0)
  ∧ memOk State.reset ∧ banksOk State.reset ∧ galleysOk State.reset ∧ hubOk State.reset

/-- Every step keeps memory and the banks in their canonical form. -/
def Obligations.StepKeepsMemory : Prop :=
  ∀ s t : State, memOk s ∧ banksOk s → step s = .next t → memOk t ∧ banksOk t

/-- Every step keeps every hart's galley in its canonical form. -/
def Obligations.StepKeepsGalleys : Prop :=
  ∀ s t : State, galleysOk s → step s = .next t → galleysOk t

/-- Every step keeps the hub's tables of registers, and those of cores and dies, in their canonical form. -/
def Obligations.StepKeepsHub : Prop :=
  ∀ s t : State, hubOk s → step s = .next t → hubOk t

/-- R360, R364: completing an instruction adds one to each enabled counter that selects RETIRED, sets OVF where the count
wraps, and changes nothing else but what `settled` and `countersKept` allow. -/
def Obligations.CompletionCounts : Prop :=
  ∀ (s : State) (pc : Word),
    countersKept s (complete s pc) ∧ settled s (complete s pc) = s
    ∧ ∀ i : Fin 8,
      (evCounts s.hart 2 i = true →
        (complete s pc).hart.ev.get i = s.hart.ev.get i + 1
        ∧ ((complete s pc).hart.evsel.get i = if s.hart.ev.get i = BitVec.allOnes 48 then s.hart.evsel.get i ||| 0x10000000#64
            else s.hart.evsel.get i))
      ∧ (evCounts s.hart 2 i = false →
        (complete s pc).hart.ev.get i = s.hart.ev.get i ∧ (complete s pc).hart.evsel.get i = s.hart.evsel.get i)

/-! ## Integer instructions -/

/-- R107: what the register operations write into X[d].

R107: CLZ, CTZ, POPC and BREV, bit by bit. -/
def Obligations.IntegerResults : Prop :=
  (∀ (s : State) (d a b : BitVec 5),
    let x := rx s a
    let y := rx s b
    givesX (exec (.add d a b) s) s d (x + y)
    ∧ givesX (exec (.sub d a b) s) s d (x - y)
    ∧ givesX (exec (.and d a b) s) s d (x &&& y)
    ∧ givesX (exec (.or d a b) s) s d (x ||| y)
    ∧ givesX (exec (.xor d a b) s) s d (x ^^^ y)
    ∧ givesX (exec (.sll d a b) s) s d (x <<< (y.toNat % 64))
    ∧ givesX (exec (.srl d a b) s) s d (x >>> (y.toNat % 64))
    ∧ givesX (exec (.sra d a b) s) s d (x.sshiftRight (y.toNat % 64))
    ∧ givesX (exec (.mul d a b) s) s d (x * y)
    ∧ givesX (exec (.mulh d a b) s) s d (BitVec.ofInt 64 (x.toInt * y.toInt / 2 ^ 64))
    ∧ givesX (exec (.mulhn d a b) s) s d (BitVec.ofNat 64 (x.toNat * y.toNat / 2 ^ 64))
    ∧ (y ≠ 0 → givesX (exec (.div d a b) s) s d (BitVec.ofInt 64 (x.toInt.tdiv y.toInt)))
    ∧ (y ≠ 0 → givesX (exec (.divn d a b) s) s d (x / y))
    ∧ (y ≠ 0 → givesX (exec (.rem d a b) s) s d (BitVec.ofInt 64 (x.toInt.tmod y.toInt)))
    ∧ (y ≠ 0 → givesX (exec (.remn d a b) s) s d (x % y))
    ∧ givesX (exec (.min d a b) s) s d (if x.toInt < y.toInt then x else y)
    ∧ givesX (exec (.max d a b) s) s d (if x.toInt < y.toInt then y else x)
    ∧ givesX (exec (.minn d a b) s) s d (if x.toNat < y.toNat then x else y)
    ∧ givesX (exec (.maxn d a b) s) s d (if x.toNat < y.toNat then y else x)
    ∧ givesX (exec (.slt d a b) s) s d (if x.toInt < y.toInt then 1 else 0)
    ∧ givesX (exec (.sltn d a b) s) s d (if x.toNat < y.toNat then 1 else 0)
    ∧ givesX (exec (.sel d a b) s) s d (if rx s d ≠ 0 then x else y)
    ∧ givesX (exec (.lea1 d a b) s) s d (x + y)
    ∧ givesX (exec (.lea2 d a b) s) s d (x + y * 2)
    ∧ givesX (exec (.lea4 d a b) s) s d (x + y * 4)
    ∧ givesX (exec (.lea8 d a b) s) s d (x + y * 8))
  ∧ (∀ (s : State) (d a : BitVec 5),
    (∃ v, givesX (exec (.clz d a) s) s d v ∧ (rx s a = 0 → v = 64)
      ∧ (rx s a ≠ 0 → v.toNat < 64 ∧ (rx s a).getLsbD (63 - v.toNat) = true ∧ ∀ j, 63 - v.toNat < j → (rx s a).getLsbD j = false))
    ∧ (∃ v, givesX (exec (.ctz d a) s) s d v ∧ (rx s a = 0 → v = 64)
      ∧ (rx s a ≠ 0 → v.toNat < 64 ∧ (rx s a).getLsbD v.toNat = true ∧ ∀ j, j < v.toNat → (rx s a).getLsbD j = false))
    ∧ (∃ v, givesX (exec (.popc d a) s) s d v ∧ v.toNat = ((List.range 64).filter fun j => (rx s a).getLsbD j).length)
    ∧ (∃ v, givesX (exec (.brev d a) s) s d v ∧ ∀ j, j < 64 → v.getLsbD (63 - j) = (rx s a).getLsbD j))

/-- R108: no register operation traps on its values or raises a flag; division by zero, and the overflowing signed
division; SEL tests the old X[d], which for X0 is 0, and then its result is discarded. -/
def Obligations.DivisionCorners : Prop :=
  ∀ (s : State) (d a b : BitVec 5),
    (rx s b = 0 →
      givesX (exec (.div d a b) s) s d (BitVec.ofInt 64 (-1))
      ∧ givesX (exec (.divn d a b) s) s d (BitVec.allOnes 64)
      ∧ givesX (exec (.rem d a b) s) s d (rx s a)
      ∧ givesX (exec (.remn d a b) s) s d (rx s a))
    ∧ (rx s a = 0x8000000000000000#64 → rx s b = BitVec.ofInt 64 (-1) →
      givesX (exec (.div d a b) s) s d 0x8000000000000000#64
      ∧ givesX (exec (.rem d a b) s) s d 0)
    ∧ givesX (exec (.sel d a b) s) s d (if rx s d ≠ 0 then rx s a else rx s b) ∧ rx s 0 = 0
    ∧ ∀ i ∈ [.add d a b, .sub d a b, .and d a b, .or d a b, .xor d a b, .sll d a b, .srl d a b, .sra d a b, .mul d a b, .mulh d a b,
        .mulhn d a b, .div d a b, .divn d a b, .rem d a b, .remn d a b, .min d a b, .max d a b, .minn d a b, .maxn d a b, .slt d a b,
        .sltn d a b, .sel d a b, .lea1 d a b, .lea2 d a b, .lea4 d a b, .lea8 d a b, .clz d a, .ctz d a, .popc d a, Instr.brev d a],
      ∃ v, givesX (exec i s) s d v

/-- R109: the immediate operations. -/
def Obligations.ImmediateResults : Prop :=
  ∀ (s : State) (d a : BitVec 5) (i15 : BitVec 15) (i12 : BitVec 12) (n : BitVec 6) (i20 : BitVec 20),
    givesX (exec (.addi d a i15) s) s d (rx s a + BitVec.ofInt 64 i15.toInt)
    ∧ givesX (exec (.andi d a i12) s) s d (rx s a &&& BitVec.ofNat 64 i12.toNat)
    ∧ givesX (exec (.ori d a i12) s) s d (rx s a ||| BitVec.ofNat 64 i12.toNat)
    ∧ givesX (exec (.xori d a i12) s) s d (rx s a ^^^ BitVec.ofNat 64 i12.toNat)
    ∧ givesX (exec (.slti d a i12) s) s d (if (rx s a).toInt < i12.toInt then 1 else 0)
    ∧ givesX (exec (.slli d a n) s) s d (rx s a <<< n.toNat)
    ∧ givesX (exec (.srli d a n) s) s d (rx s a >>> n.toNat)
    ∧ givesX (exec (.srai d a n) s) s d ((rx s a).sshiftRight n.toNat)
    ∧ givesX (exec (.lui d i20) s) s d (BitVec.ofInt 64 (i20.toInt * 2 ^ 15))
    ∧ givesX (exec (.auipc d i20) s) s d (s.hart.pc + BitVec.ofInt 64 (i20.toInt * 2 ^ 15))

/-- R110, R111: where branches and jumps go, what JAL and JALR write, and that JALR to an address that is not a multiple
of 4 traps with MISALIGN, in the supervisor's class, without writing X[d].

R156: BRLOOP counts a pass and turns the rotation on, and goes back while a pass is left; with no iterations, or past
the last pass, it changes nothing. -/
def Obligations.BranchesAndJumps : Prop :=
  (∀ (s : State) (a b d : BitVec 5) (o : BitVec 15) (i20 : BitVec 20),
    let x := rx s a
    let y := rx s b
    let pc := s.hart.pc
    let taken (c : Prop) [Decidable c] : Word := if c then pc + BitVec.ofInt 64 (o.toInt * 4) else pc + 4
    let target := x + BitVec.ofInt 64 o.toInt
    goesTo (exec (.beq a b o) s) s (taken (x = y))
    ∧ goesTo (exec (.bne a b o) s) s (taken (x ≠ y))
    ∧ goesTo (exec (.blt a b o) s) s (taken (x.toInt < y.toInt))
    ∧ goesTo (exec (.bge a b o) s) s (taken (y.toInt ≤ x.toInt))
    ∧ goesTo (exec (.bltn a b o) s) s (taken (x.toNat < y.toNat))
    ∧ goesTo (exec (.bgen a b o) s) s (taken (y.toNat ≤ x.toNat))
    ∧ completes (exec (.jal d i20) s) s (pc + BitVec.ofInt 64 (i20.toInt * 4)) (fun t =>
        wroteX s t d (pc + 4) ∧ settled s t = { s with hart := { s.hart with x := t.hart.x } })
    ∧ (target.toNat % 4 = 0 → completes (exec (.jalr d a o) s) s target fun t =>
        wroteX s t d (pc + 4) ∧ settled s t = { s with hart := { s.hart with x := t.hart.x } })
    ∧ (target.toNat % 4 ≠ 0 → s.hart.who.dispatch = false → ∃ t, exec (.jalr d a o) s = .next t
        ∧ supervised s t 0x45 ∧ t.hart.trap.tval = target))
  ∧ (∀ (s : State) (o : BitVec 15),
    let v := s.hart.vec
    let last := v.lc.toNat % 2 ^ 32 + v.lc.toNat / 2 ^ 32 % 16
    let turn := if v.rlo < v.rhi then (v.rcur + v.lc.toNat / 2 ^ 52 % 512 % (v.rhi - v.rlo)) % (v.rhi - v.rlo) % 512 else v.rcur
    (v.lc.toNat % 2 ^ 32 = 0 ∨ last ≤ v.pass → goesTo (exec (.brloop o) s) s (s.hart.pc + 4))
    ∧ (v.lc.toNat % 2 ^ 32 ≠ 0 → v.pass < last →
      completes (exec (.brloop o) s) s (if v.pass + 1 < last then s.hart.pc + BitVec.ofInt 64 (o.toInt * 4) else s.hart.pc + 4) fun t =>
        settled s t = { s with hart := { s.hart with vec := { v with pass := v.pass + 1, rcur := turn } } }))

/-! ## Scalar loads and stores -/

/-- R112 to R115, R204: a load that is aligned and allowed writes X[d] with the bytes at its address, least significant
first, extended as its mnemonic says; LDD of a FIFO port takes the oldest entry; LDC takes the constant path's value where
it holds one. Bytes of storage under conversion read as free values (R243, log 22).

A load sees the stores of the scalar stream before it: those that are held back perform first (R266, log 117). While the hart
has a view of an earlier place of the global order that serves, the load is made there (R267); when it has one is the agenda's
choice (log 118). -/
def Obligations.ScalarLoads : Prop :=
  ∀ (s : State) (d a : BitVec 5) (im : BitVec 11) (l : Loc),
    let u := syncScalar s
    let va (n : Nat) : Nat := (rx s a + BitVec.ofInt 64 (im.toInt * n)).toNat
    let signed (n v : Nat) : Word := (BitVec.ofNat (8 * n) v).signExtend 64
    let unsigned (_ v : Nat) : Word := BitVec.ofNat 64 v
    let loads (i : Instr) (n : Nat) (ext : Nat → Nat → Word) : Prop :=
      (loadsNow s (va n) n → scalarReads u (va n) n l → givesX (exec i s) u d (ext n (loaded u (va n) n l)))
      ∧ (∀ w x, loadsView s (va n) n w x → fenced s clsS = false → (∀ key, locate u (u.hart.path u) (va n) .load ≠ .ok (.fifo key)) →
          givesX (exec i s) (withViewS (drain s false) w) d (ext n x))
    (s.hart.weak.postS = [] → s.hart.weak.viewS = none → u = s)
    ∧ loads (.ldb d a im) 1 signed ∧ loads (.ldbn d a im) 1 unsigned
    ∧ loads (.ldh d a im) 2 signed ∧ loads (.ldhn d a im) 2 unsigned
    ∧ loads (.ldw d a im) 4 signed ∧ loads (.ldwn d a im) 4 unsigned
    ∧ loads (.ldd d a im) 8 unsigned
    ∧ (scalarReads s (va 8) 8 l → (∀ p w lg, l = .pa p w lg → leafDev w = false) →
        (∀ v, s.hart.ccache.find? (fun e => e.1 == va 8) = some (va 8, v) → givesX (exec (.ldc d a im) s) s d v)
        ∧ (s.hart.ccache.find? (fun e => e.1 == va 8) = none → givesX (exec (.ldc d a im) s) s d (BitVec.ofNat 64 (loaded s (va 8) 8 l))))
    ∧ (∀ key v rest, banksOk u → s.hart.strike = none → fenced u clsS = false → va 8 % 8 = 0 →
        locate u (u.hart.path u) (va 8) .load = .ok (.fifo key) → (bankAt u key).fifo = v :: rest →
        retires (exec (.ldd d a im) s) u fun t => wroteX u t d v
          ∧ (∀ k, bankAt t k = if k = key then { bankAt u key with fifo := rest } else bankAt u k)
          ∧ settled u t = { u with banks := t.banks, hart := { u.hart with x := t.hart.x } })
    ∧ (∀ key, s.hart.strike = none → fenced u clsS = false → va 8 % 8 = 0 →
        locate u (u.hart.path u) (va 8) .load = .ok (.fifo key) → (bankAt u key).fifo = [] →
        exec (.ldd d a im) s = .next (waitOn u (.fifo key)))

/-- R112 to R114, R204: a store that is aligned and allowed changes the bytes at its address and no others; STD to a FIFO
port with room adds an entry, and waits without. Bytes of storage under conversion become free values (R243, log 22).

R267: where the hart's stores are held back, one to ordinary memory or to a SCRATCH bank changes no byte yet; any other
performs after those before it. When stores are held back is the agenda's choice (log 117). A scalar load behind a store reads
memory as it is by then (log 118). -/
def Obligations.ScalarStores : Prop :=
  ∀ (s0 : State) (d a : BitVec 5) (im : BitVec 11) (l : Loc),
    let s := dropScalar s0
    let u := drain s false
    let va (n : Nat) : Nat := (rx s a + BitVec.ofInt 64 (im.toInt * n)).toNat
    let bytes (n : Nat) : List Byte := toStore s (va n) n (rx s d).toNat
    let stores (i : Instr) (n : Nat) : Prop := scalarWrites s (va n) l (bytes n) →
      (s.hart.weak.holdS = false → retires (exec i s0) s fun t => onlyStored s t l (bytes n))
      ∧ (s.hart.weak.holdS = true → postable s l = true → retires (exec i s0) s fun t =>
          heldStore s t false l (va n) (bytes n) ∧ settled s t = { s with hart := { s.hart with weak := t.hart.weak } })
      ∧ (s.hart.weak.holdS = true → postable s l = false → takesStore u l (bytes n) → retires (exec i s0) u fun t => onlyStored u t l (bytes n))
    memOk s → banksOk s →
    stores (.stb d a im) 1 ∧ stores (.sth d a im) 2 ∧ stores (.stw d a im) 4 ∧ stores (.std d a im) 8
    ∧ (∀ key, s.hart.strike = none → fenced s clsS = false → va 8 % 8 = 0 → locate s (s.hart.path s) (va 8) .store = .ok (.fifo key) →
        ((bankAt u key).fifo.length < 32768 →
          retires (exec (.std d a im) s0) u fun t =>
            (∀ k, bankAt t k = if k = key then { bankAt u key with fifo := (bankAt u key).fifo ++ [rx s d] } else bankAt u k)
            ∧ settled u t = { u with banks := t.banks })
        ∧ (32768 ≤ (bankAt u key).fifo.length → exec (.std d a im) s0 = .next (waitOn s (.fifo key))))

/-- R113: the order of a scalar access's tests. A misaligned address traps with MISALIGN before its translation is looked
at; then the translation's own cause; then, of a load, poison. A FIFO port is refused with BANK_MODE by all but LDD and STD
(R204), and a device page by LDC (R115). The trap names the address, X[d] is not written, and of memory and banks nothing
changes but the log that takes the event record. That such a trap also writes TVAL is the model's reading (log 81). A load that a
view of an earlier place serves meets no fault (log 118). -/
def Obligations.ScalarAccessFaults : Prop :=
  ∀ (s : State) (d a : BitVec 5) (im : BitVec 11),
    let va (n : Nat) : Nat := (rx s a + BitVec.ofInt 64 (im.toInt * n)).toNat
    -- the access is made in `u`; what takes the trap is `v`
    let faults (v : State) (i : Instr) (c : BitVec 8) (x : Nat) : Prop :=
      ∃ t, exec i s = .next t ∧ supervised v t c ∧ t.hart.trap.tval = BitVec.ofNat 64 x ∧ memoryKept v t
    let access (u v : State) (k : AccKind) (i : Instr) (n : Nat) : Prop :=
      (va n % n ≠ 0 → faults v i 0x45 (va n))
      ∧ (∀ c x, va n % n = 0 → locate u (u.hart.path u) (va n) k = .trap c x → faults v i c x)
    let load (u : State) (i : Instr) (n : Nat) : Prop := access u s .load i n
      ∧ (∀ l, va n % n = 0 → locate u (u.hart.path u) (va n) .load = .ok l → (∀ key, l ≠ .fifo key) →
          (∀ p w lg, l = .pa p w lg → leafDev w = false) → locPoisoned u l = true → faults s i 0xE0 (va n))
    let noPort (u v : State) (k : AccKind) (i : Instr) (n : Nat) : Prop :=
      ∀ key, va n % n = 0 → locate u (u.hart.path u) (va n) k = .ok (.fifo key) → faults v i 0x4C (va n)
    let u := syncScalar s
    let q := dropScalar s
    s.hart.who.dispatch = false → s.hart.strike = none → fenced s clsS = false → banksOk s → memOk s →
    (∀ p ∈ [(Instr.ldb d a im, 1), (Instr.ldh d a im, 2), (Instr.ldw d a im, 4), (Instr.ldbn d a im, 1), (Instr.ldhn d a im, 2), (Instr.ldwn d a im, 4)],
      loadsNow s (va p.2) p.2 → load u p.1 p.2 ∧ noPort u s .load p.1 p.2)
    ∧ (loadsNow s (va 8) 8 → load u (.ldd d a im) 8)
    ∧ (load s (.ldc d a im) 8 ∧ noPort s s .load (.ldc d a im) 8
      ∧ ∀ p w lg, va 8 % 8 = 0 → locate s (s.hart.path s) (va 8) .load = .ok (.pa p w lg) → leafDev w = true → faults s (.ldc d a im) 0x40 (va 8))
    ∧ (∀ p ∈ [(Instr.stb d a im, 1), (Instr.sth d a im, 2), (Instr.stw d a im, 4)], access q q .store p.1 p.2 ∧ noPort q q .store p.1 p.2)
    ∧ access q q .store (.std d a im) 8
    ∧ ∀ p ∈ [(Instr.stb d a im, 1), (Instr.sth d a im, 2), (Instr.stw d a im, 4), (Instr.std d a im, 8)], ∀ key off,
        s.hart.weak.holdS = false → va p.2 % p.2 = 0 → locate q (q.hart.path q) (va p.2) .store = .ok (.bank key off) →
        ¬takesStore q (.bank key off) (toStore q (va p.2) p.2 (rx s d).toNat) → faults q p.1 0x4C (va p.2)

/-! ## Scalar floating point -/

/-- R116, R118: the scalar floating-point operations in the type that FT names: operands decoded after any input flush,
the exact result rounded once under FCSR, flags ORed into FCSR.

R117: FCVT between the four floating-point types, and to and from i64, n64, i32 and n32. An i32 result is
sign-extended, every other result zero-extended. -/
def Obligations.ScalarFloat : Prop :=
  (∀ (s : State) (d a b : BitVec 5) (t : BitVec 2) (c : BitVec 4),
    let f : Fmt := match t.toNat with | 0 => fmtF32 | 1 => fmtF64 | 2 => fmtF16 | _ => fmtBF16
    let p := policyOf s.hart.fcsr
    let arg (r : BitVec 5) : Sys2Proof.Num := f.decodeIn p ((rx s r).toNat % 2 ^ f.width)
    let ofNum (o : Out) (x : Sys2Proof.Num × Flags) : Prop := givesFp o s d (rnd f p x.1).1 ((rnd f p x.1).2 ||| x.2)
    ofNum (exec (.fadd d a b t) s) ((arg a).add p.rm (arg b))
    ∧ ofNum (exec (.fsub d a b t) s) ((arg a).add p.rm (arg b).neg)
    ∧ ofNum (exec (.fmul d a b t) s) ((arg a).mul (arg b))
    ∧ ofNum (exec (.ffma d a b t) s) (Num.fma p.rm (arg a) (arg b) (arg d))
    ∧ ofNum (exec (.fdiv d a b t) s) ((arg a).div (arg b))
    ∧ ofNum (exec (.fsqrt d a t) s) (arg a).sqrt
    ∧ ofNum (exec (.fmin d a b t) s) ((arg a).minmax false (arg b))
    ∧ ofNum (exec (.fmax d a b t) s) ((arg a).minmax true (arg b))
    ∧ givesFp (exec (.fcmp d a b c t) s) s d (if ((arg a).compare c.toNat (arg b)).1 then 1 else 0) ((arg a).compare c.toNat (arg b)).2
    ∧ givesFp (exec (.fclass d a t) s) s d (f.classMask ((rx s a).toNat % 2 ^ f.width)) 0)
  ∧ (∀ (s : State) (d a : BitVec 5) (t : BitVec 2) (k : BitVec 2),
    let flt (n : Nat) : Fmt := match n with | 0 => fmtF32 | 1 => fmtF64 | 2 => fmtF16 | _ => fmtBF16
    let int : Ty := match k.toNat with | 0 => .int true 64 | 1 => .int false 64 | 2 => .int true 32 | _ => .int false 32
    let p := policyOf s.hart.fcsr
    let ft : Ty := .flt (flt t.toNat)
    let out (dst src : Ty) : Nat × Flags := convert p dst src ((rx s a).toNat % 2 ^ src.width)
    givesFp (exec (.fcvt d a (BitVec.ofNat 4 k.toNat) t) s) s d (out ft (.flt (flt k.toNat))).1 (out ft (.flt (flt k.toNat))).2
    ∧ givesFp (exec (.fcvt d a (BitVec.ofNat 4 (4 + k.toNat)) t) s) s d (out ft int).1 (out ft int).2
    ∧ givesFp (exec (.fcvt d a (BitVec.ofNat 4 (8 + k.toNat)) t) s) s d
        (if k = 2#2 then ((BitVec.ofNat 32 (out int ft).1).signExtend 64).toNat else (out int ft).1) (out int ft).2)

/-! ## System registers and control -/

/-- R120, R121: what CSRR reads of each register that the hart has, and that it has no effect but to write X[d]. A dispatch
hart has no gang (R308).

R123: a read of VFLAGS waits for the matrix instructions before it. -/
def Obligations.CsrReads : Prop :=
  ∀ (s : State) (d : BitVec 5),
    let reads (n : BitVec 12) (v : Word) : Prop := givesX (exec (.csrr d n) s) s d v
    let h := s.hart
    let grb := 512 / 2 ^ h.who.shape
    let busy : Prop := h.mat.mq ≠ [] ∨ h.mat.fetches ≠ []
    let w := h.who
    (w.dispatch = false → reads 0x000 h.vec.vmode ∧ reads 0x001 (BitVec.ofNat 64 h.vec.vl) ∧ reads 0x002 (BitVec.ofNat 64 h.vec.vstart)
      ∧ (¬busy → reads 0x003 (BitVec.ofNat 64 h.vec.vflags.toNat)) ∧ (busy → exec (.csrr d 0x003) s = .next (waitOn s .drain))
      ∧ reads 0x005 h.vec.lc ∧ reads 0x006 (BitVec.ofNat 64 h.vec.rcur) ∧ reads 0x007 (BitVec.ofNat 64 h.vec.rlo)
      ∧ reads 0x008 (BitVec.ofNat 64 h.vec.rhi) ∧ reads 0x009 (BitVec.ofNat 64 h.vec.pass)
      ∧ (∀ k : Nat, k < 16 → reads (BitVec.ofNat 12 (0x010 + k)) (h.vec.cmask.extractLsb' (64 * k) 64))
      ∧ reads 0x020 (BitVec.ofNat 64 grb) ∧ reads 0x021 (BitVec.ofNat 64 w.grows) ∧ reads 0x022 h.mat.mvl
      ∧ reads 0x023 (BitVec.ofNat 64 (min 128 (grb * 8 / 16) + 2 ^ 8 * min 128 (grb * 8 / 8) + 2 ^ 16 * min 128 (grb * 8 / 4)))
      ∧ reads 0x025 (BitVec.ofNat 64 w.gang)
      ∧ reads 0x026 (BitVec.ofNat 64 (w.gcount % 2 ^ 32 + 2 ^ 32 * (w.gsize % 2 ^ 16) + 2 ^ 48 * (w.gscope % 8)))
      ∧ reads 0x027 (BitVec.ofNat 64 (w.serial % 2 ^ 32 + (if w.sessv then 2 ^ 32 * (w.session % 2 ^ 12) + 2 ^ 44 else 0) + 2 ^ 45 * (w.cls % 8))))
    ∧ (w.dispatch = true → reads 0x025 0 ∧ reads 0x026 0 ∧ reads 0x027 (BitVec.ofNat 64 w.queue))
    ∧ reads 0x004 h.fcsr ∧ reads 0x024 (hartIdWord w) ∧ reads 0x028 (BitVec.ofNat 64 s.time)
    ∧ reads 0x040 h.trap.utvec ∧ reads 0x041 h.trap.tepc ∧ reads 0x042 h.trap.tcause ∧ reads 0x043 h.trap.tval
    ∧ reads 0x044 h.trap.tpos ∧ reads 0x045 h.trap.twin
    ∧ ∀ i : Fin 8, reads (BitVec.ofNat 12 (0x088 + i.val)) (h.evsel.get i)
      ∧ reads (BitVec.ofNat 12 (0x080 + i.val)) (if evBlind h i then 0 else BitVec.ofNat 64 (h.ev.get i).toNat)

/-- R121, R78, R362, R365: CSRW, CSRS and CSRC write a register field by field, and no other register; an EVn that counts link
events in a virtual function's context is not written. `csrGet` is what CSRR reads. A write of an event register is not
counted; any other is RETIRED where a counter counts that.

R123: a write of VFLAGS waits for the matrix instructions before it.

R122, R308: a register that is not assigned, not open to the hart, or read-only for a write, traps with ILLEGAL_FN and
the instruction's word in TVAL; in a dispatch hart that ends the program. -/
def Obligations.CsrWrites : Prop :=
  (∀ (s : State) (a : BitVec 5) (n : BitVec 12), csrWriteOk s.hart.who.dispatch n = true →
    let busy : Prop := s.hart.mat.mq ≠ [] ∨ s.hart.mat.fetches ≠ []
    let old := csrGet s n
    let isEv : Prop := 0x080 ≤ n.toNat ∧ n.toNat ≤ 0x08F
    let wrote (v : Word) (t : State) : Prop :=
      ((∀ i : Fin 8, n.toNat = 0x080 + i.val → evBlind s.hart i = false) → csrGet t n = csrWritten n.toNat old v)
      ∧ (∀ m, m ≠ n → csrAssigned m = true → m.toNat < 0x080 → csrGet t m = csrGet s m)
      ∧ (∀ j : Fin 8, ((isEv ∧ (n.toNat ≠ 0x080 + j.val ∨ evBlind s.hart j = true)) ∨ (¬isEv ∧ evCounts s.hart 2 j = false)) →
          t.hart.ev.get j = s.hart.ev.get j)
      ∧ (∀ j : Fin 8, ((isEv ∧ n.toNat ≠ 0x088 + j.val) ∨ (¬isEv ∧ evCounts s.hart 2 j = false)) → t.hart.evsel.get j = s.hart.evsel.get j)
      ∧ settled s t = { s with hart := { s.hart with vec := t.hart.vec, fcsr := t.hart.fcsr, trap := t.hart.trap } }
      ∧ (∀ r, rw t r = rw s r) ∧ (∀ k, rm t k = rm s k) ∧ t.hart.vec.galley = s.hart.vec.galley
    let writes (o : Out) (v : Word) : Prop :=
      ∃ t, o = .next t ∧ t.hart.pc = s.hart.pc + 4 ∧ t.hart.status = .running ∧ wrote v t
    (¬(n = 0x003#12 ∧ busy) →
      writes (exec (.csrw a n) s) (rx s a) ∧ writes (exec (.csrs a n) s) (old ||| rx s a) ∧ writes (exec (.csrc a n) s) (old &&& ~~~rx s a))
    ∧ (n = 0x003#12 → busy →
      exec (.csrw a n) s = .next (waitOn s .drain) ∧ exec (.csrs a n) s = .next (waitOn s .drain) ∧ exec (.csrc a n) s = .next (waitOn s .drain)))
  ∧ (∀ (s : State) (d : BitVec 5) (n : BitVec 12),
    let dispatch := s.hart.who.dispatch
    let refused (i : Instr) : Prop := ∃ t, exec i s = .next t ∧ t.hart.trap.tval = (wordOf i).setWidth 64
      ∧ (dispatch = false → supervised s t 0x02) ∧ (dispatch = true → programEnds s t 0x02 ((wordOf i).setWidth 64))
    let closed : Prop := csrAssigned n = false
      ∨ (dispatch = true ∧ (n.toNat ≤ 0x003 ∨ (0x005 ≤ n.toNat ∧ n.toNat ≤ 0x009) ∨ (0x010 ≤ n.toNat ∧ n.toNat ≤ 0x01F) ∨ (0x020 ≤ n.toNat ∧ n.toNat ≤ 0x023)))
    (closed → refused (.csrr d n))
    ∧ (closed ∨ n = 0x001#12 ∨ (0x020 ≤ n.toNat ∧ n.toNat ≤ 0x028) → refused (.csrw d n) ∧ refused (.csrs d n) ∧ refused (.csrc d n)))

/-- R137, R138: a cause of the handler's class, with a handler ready, sets the trap registers and goes to UTVEC.ADDR. What
TPOS, TWIN and VSTART become depends on what the trap names; the fields that R138 does not name stay (log 9). -/
def Obligations.TrapToHandler : Prop :=
  ∀ (s : State) (c : BitVec 8) (v : Word), handlerClass c = true → handlerReady s →
    let tepc : Word := (if c = 0x0B#8 then s.hart.pc + 4 else s.hart.pc) &&& 0x00FFFFFFFFFFFFFC#64
    let old := s.hart.trap.tpos
    let vs := s.hart.vec.vstart
    handled s (takeTrap s { cause := c, tval := v, pos := .plain }) c tepc v (tposPlain old) s.hart.trap.twin vs
    ∧ (∀ (win : BitVec 6) (role : BitVec 2) (desc : Word),
        handled s (takeTrap s { cause := c, tval := v, pos := .window win.toNat role.toNat desc }) c tepc v
          ((old &&& 0x00FFFFFFEFFFFFFF#64) ||| (win.setWidth 64 <<< 58) ||| (role.setWidth 64 <<< 56)) desc vs)
    ∧ (∀ (win : BitVec 6) (ovl : BitVec 1) (desc : Word),
        handled s (takeTrap s { cause := c, tval := v, pos := .whole win.toNat (ovl == 1#1) desc }) c tepc v
          ((old &&& 0x007FFFFFEFFFFFFF#64) ||| (win.setWidth 64 <<< 58) ||| (ovl.setWidth 64 <<< 55)) desc vs)
    ∧ (∀ (win : BitVec 6) (role : BitVec 2) (ovl : BitVec 1) (row : BitVec 9) (o : BitVec 9) (i : BitVec 10) (desc : Word) (k : Nat),
        handled s (takeTrap s { cause := c, tval := v, pos := .element win.toNat role.toNat (ovl == 1#1) row.toNat o.toNat i.toNat desc k })
          c tepc v ((old &&& 0x007FFFFFE0000000#64) ||| (win.setWidth 64 <<< 58) ||| (role.setWidth 64 <<< 56) ||| (ovl.setWidth 64 <<< 55)
            ||| 0x10000000#64 ||| (row.setWidth 64 <<< 19) ||| (o.setWidth 64 <<< 10) ||| i.setWidth 64) desc k)
    ∧ (∀ (win : BitVec 6) (row : BitVec 9) (o : BitVec 9) (i : BitVec 10) (desc : Word),
        handled s (takeTrap s { cause := c, tval := v, pos := .metadata win.toNat row.toNat o.toNat i.toNat desc })
          c tepc v ((old &&& 0x00FFFFFFE0000000#64) ||| (win.setWidth 64 <<< 58) ||| 0x0100000000000000#64
            ||| 0x10000000#64 ||| (row.setWidth 64 <<< 19) ||| (o.setWidth 64 <<< 10) ||| i.setWidth 64) desc 0)

/-- R137, R339: every other trap halts the hart and aborts its launch: a cause of the supervisor's class, and one of the
handler's class with EN 0, with its own cause and trap registers; one met in a handler as DOUBLE_TRAP, with TVAL naming
it and TEPC and TCAUSE those of the first trap. In a dispatch hart the program ends, and its queue says why (R310). -/
def Obligations.TrapToSupervisor : Prop :=
  ∀ (s : State) (c : BitVec 8) (v : Word),
    let t := takeTrap s { cause := c, tval := v, pos := .plain }
    (s.hart.who.dispatch = false →
      (handlerClass c = false ∨ s.hart.trap.utvec.getLsbD 0 = false → supervised s t c ∧ t.hart.trap.tval = v
        ∧ t.hart.trap.tcause = 0x8000000000000000#64 ||| c.setWidth 64)
      ∧ (handlerClass c = true → s.hart.trap.utvec.getLsbD 0 = true → s.hart.trap.tcause.getLsbD 63 = true →
        supervised s t 0xC1 ∧ t.hart.trap = { s.hart.trap with tval := c.setWidth 64 }))
    ∧ (s.hart.who.dispatch = true → handlerClass c = false →
      t.hart.status = .halted ∧ t.msix = s.msix ++ [(qFunc (queueAt s s.hart.who.queue), s.hart.who.queue % 64)]
      ∧ queueAt t s.hart.who.queue = { queueAt s s.hart.who.queue with cause := c, mberr := v, err := true }
      ∧ t.sched = s.sched ∧ t.mem = s.mem)

/-- R127 to R132: TRAP enters the handler with its register's value; TRET returns to TEPC and ends the inhibition; SCALL
stops the hart until it is answered; BREAK with a debugger waits for it, and without one halts the hart; YIELD does
nothing; CFENCE drops what fetch and the constant path held, once the scalar stores before it have performed.

R133: HALT with nothing under way, no pending errata state and no poisoned counter ends the hart: its stores have
performed, its streams, its SBIND binding and its link set are gone, and it holds no core. With work under way it waits; a fetch
or a GSCAT that has poisoned its counter is not waited for. With a pending errata state it halts with COUNTER_POISON and that entry's
address (log 107); else with a poisoned counter, and the address of the first poisoning. In a dispatch hart BREAK and such a HALT end
the program (R310). -/
def Obligations.ControlInstructions : Prop :=
  (∀ (s : State) (d a : BitVec 5),
    (handlerReady s → ∃ t, exec (.trap a) s = .next t
      ∧ handled s t 0x0B ((s.hart.pc + 4) &&& 0x00FFFFFFFFFFFFFC#64) (rx s a) (tposPlain s.hart.trap.tpos) s.hart.trap.twin s.hart.vec.vstart)
    ∧ completes (exec .tret s) s s.hart.trap.tepc (fun t => settled s t = { s with hart := { s.hart with
        trap := { s.hart.trap with tcause := s.hart.trap.tcause &&& 0x7FFFFFFFFFFFFFFF#64 } } })
    ∧ exec (.scall d a) s = .next { s with hart := { s.hart with status := .inScall d a } }
    ∧ (∀ l, launchAt s s.hart.who.serial = some l → s.hart.who.dispatch = false →
        (l.debug = true → exec .brk s = .next { s with hart := { s.hart with status := .atBreak, trap := { s.hart.trap with
            tepc := s.hart.pc &&& 0x00FFFFFFFFFFFFFC#64, tval := 0x1E00001C#64 } } })
        ∧ (l.debug = false → ∃ t, exec .brk s = .next t ∧ supervised s t 0x0C ∧ t.hart.trap.tval = 0x1E00001C#64))
    ∧ (s.hart.who.dispatch = true → ∃ t, exec .brk s = .next t ∧ programEnds s t 0x0C 0x1E00001C#64)
    ∧ retires (exec .yield s) s (fun t => settled s t = s)
    ∧ (let u := drain s false
       retires (exec .cfence s) u fun t => settled u t = { u with hart := { u.hart with ccache := [], icache := [] } }))
  ∧ (∀ s : State,
    let u := drainAll s
    let idle := s.hart.mat.mq = [] ∧ (∀ f ∈ s.hart.mat.fetches, f.faulted = true)
      ∧ ∀ k ∈ s.hart.eng.cmds, (∃ g d w c, k.op = .gscat g d w c) ∧ k.units ≠ 0
    let halts (e : Word) : Prop := ∃ t, exec .halt s = .next t ∧ t.hart.status = .halted ∧ t.hart.who = { s.hart.who with resident := false }
      ∧ t.hart.trap.tval = e ∧ t.hart.trap.tcause = 0x80000000000000A0#64 ∧ t.hart.eng.streams = []
    (s.hart.weak.postS = [] → s.hart.weak.postV = [] → u = s)
    ∧ (idle → s.hart.eng.errPend = none → (∀ k, k < 16 → (rc s k).poison = false) →
      ∃ t, exec .halt s = .next t ∧ t.hart.status = .ended ∧ t.hart.eng.streams = [] ∧ t.hart.eng.sbind = []
        ∧ t.hart.eng.link = none ∧ (s.hart.who.dispatch = false → t.hart.who.resident = false)
        ∧ t.hart.x = s.hart.x ∧ t.mem = u.mem ∧ t.time = s.time)
    ∧ (∀ e, idle → s.hart.eng.errPend = some e → (s.hart.who.dispatch = false → halts e)
        ∧ (s.hart.who.dispatch = true → ∃ t, exec .halt s = .next t ∧ programEnds u t 0xA0 e))
    ∧ (∀ k, idle → s.hart.eng.errPend = none → k < 16 → (rc s k).poison = true →
        (∀ j, j < 16 → (rc s j).poison = true → (rc s k).entry < (rc s j).entry ∨ ((rc s k).entry = (rc s j).entry ∧ k ≤ j)) →
        (s.hart.who.dispatch = false → halts (rc s k).first)
        ∧ (s.hart.who.dispatch = true → ∃ t, exec .halt s = .next t ∧ programEnds u t 0xA0 (rc s k).first))
    ∧ (¬idle → ∃ t, exec .halt s = .next t ∧ t.hart.status = .waiting .halt ∧ t.hart.pc = s.hart.pc ∧ t.mem = u.mem))

/-! ## Vector instructions -/

/-- R157 to R162, R166, R167, R76, R77: an element-wise instruction whose checks pass, and none of whose performed elements raises a
flag that TE enables, writes every active element from VSTART on with its value, no other element and no other cell, and ORs the flags of those elements into
VFLAGS. Under a stage guard that is off its footprints are empty: it completes and writes nothing, whatever slots are claimed or
held (R46, R59). -/
def Obligations.ElementwiseResults : Prop :=
  ∀ (s : State) (i : Instr) (ty : Ty) (d : WinOp) (ops : List Opd) (val : Nat → Option (Nat × Flags)),
    galleysOk s → elemSpec s ty i = some (d, ops, val) →
    (vecReady s ty ops → stageOff s = false → (∀ k q, k < count d → performed s d k → val k = some q → noTrap s q.2) → retires (exec i s) s fun t =>
      elemsBelow s t d val (count d) ∧ t.hart.vec.vflags = s.hart.vec.vflags ||| flagsBelow s d val (count d)
      ∧ galleyKept s t (spansOf d (count d)) ∧ vecFrame s t ops)
    ∧ (stageOff s = true → modeIll s.hart.vec.vmode = false → modeTy s.hart.vec.vmode = some ty →
        (∀ o ∈ ops, winFits s o.win = true ∧ badWidth o = false ∧ o.shape = true) → retires (exec i s) s fun t =>
      settled s t = { s with hart := { s.hart with vec := { s.hart.vec with vstart := 0 } } })

/-- R53, R54, R77, R138: an enabled flag of an active element traps at the first such element k: the elements below k have
been written, and their flags are in VFLAGS; element k and the later ones have not. VSTART is k, TPOS names the element, and the handler
starts. So it is in a compare, whose elements are the bits of its mask (R161); that its record names the mask, with wa's row and
descriptor, is the model's reading (log 29). A flag that a whole-vector instruction raises and TE enables traps the whole of it (R157):
no cell is written, VSTART and VFLAGS stay, and TPOS names the destination and no element. A trapping instruction has popped nothing of a bound
source, which is the model's reading (log 89). -/
def Obligations.ElementTrap : Prop :=
  (∀ (s : State) (i : Instr) (ty : Ty) (d : WinOp) (ops : List Opd) (val : Nat → Option (Nat × Flags)) (k : Nat) (r : Nat × Flags) (c : BitVec 8),
    galleysOk s → elemSpec s ty i = some (d, ops, val) → vecReady s ty ops → stageOff s = false → handlerReady s →
    k < count d → performed s d k → val k = some r → trapCause r.2 (modeTe s.hart.vec.vmode) (!ty.isFloat) = some c →
    (∀ j q, j < k → performed s d j → val j = some q → noTrap s q.2) →
    ∃ t, exec i s = .next t
      ∧ t.hart.pc = s.hart.trap.utvec &&& 0x00FFFFFFFFFFFFFC#64 ∧ t.hart.vec.vstart = k
      ∧ t.hart.trap.tcause = 0x8000000000000000#64 ||| c.setWidth 64 ∧ t.hart.trap.tval = (wordOf i).setWidth 64
      ∧ t.hart.trap.tepc = s.hart.pc &&& 0x00FFFFFFFFFFFFFC#64 ∧ t.hart.trap.twin = d.desc
      ∧ t.hart.trap.tpos = tposElem s.hart.trap.tpos d (overlaps d (count d) ops) k
      ∧ elemsBelow s t d val k ∧ t.hart.vec.vflags = s.hart.vec.vflags ||| flagsBelow s d val k
      ∧ galleyKept s t (spansOf d k) ∧ t.mem = s.mem ∧ t.hart.x = s.hart.x ∧ t.hart.eng = s.hart.eng)
  ∧ (∀ (s : State) (i : Instr) (ty : Ty) (md : BitVec 6) (a : WinOp) (ops : List Opd) (f : Nat → Bool × Flags) (k : Nat) (c : BitVec 8),
    md.toNat ≤ 11 → compareSpec s ty i = some (md, a, ops, f) → vecReady s ty ops → stageOff s = false → handlerReady s →
    k < count a → s.hart.vec.vstart ≤ k → guardOn s k = true → trapCause (f k).2 (modeTe s.hart.vec.vmode) false = some c →
    (∀ j, j < k → s.hart.vec.vstart ≤ j → guardOn s j = true → noTrap s (f j).2) →
    ∃ t, exec i s = .next t
      ∧ t.hart.pc = s.hart.trap.utvec &&& 0x00FFFFFFFFFFFFFC#64
      ∧ t.hart.trap = { s.hart.trap with tepc := s.hart.pc &&& 0x00FFFFFFFFFFFFFC#64, tcause := 0x8000000000000000#64 ||| c.setWidth 64
                                         tval := (wordOf i).setWidth 64, twin := a.desc
                                         tpos := tposElem s.hart.trap.tpos { a with num := md.toNat, role := 0 } false k }
      ∧ (∀ j, j < 1024 → (rm t md.toNat).getLsbD j =
          if j < k ∧ s.hart.vec.vstart ≤ j ∧ guardOn s j = true then (f j).1 else (rm s md.toNat).getLsbD j)
      ∧ (∀ q, q ≠ md.toNat → rm t q = rm s q)
      ∧ t.hart.vec = { s.hart.vec with m := t.hart.vec.m, vstart := k, vflags := s.hart.vec.vflags ||| bitFlags s f k }
      ∧ t.mem = s.mem ∧ t.hart.x = s.hart.x ∧ t.hart.eng = s.hart.eng)
  ∧ ∀ (s : State) (i : Instr) (ty : Ty) (d : WinOp) (ops : List Opd) (dn : Nat) (fl : Flags) (c : BitVec 8),
    ((∃ out, wholeSpec s ty i = some (d, ops, out, fl) ∧ dn = (ops.map (·.writes)).headD 0)
      ∨ (∃ r out, pairSpec s ty i = some (r, ops, out, fl) ∧ d = winOp s r 0 ∧ dn = out.length ∧ out.length ≤ wNm1 d.desc + 1)) →
    vecReady s ty ops → stageOff s = false → handlerReady s → trapCause fl (modeTe s.hart.vec.vmode) (!ty.isFloat) = some c →
    ∃ t, exec i s = .next t ∧ handled s t c (s.hart.pc &&& 0x00FFFFFFFFFFFFFC#64) ((wordOf i).setWidth 64)
      (tposWhole s.hart.trap.tpos d (overlaps d dn ops)) d.desc s.hart.vec.vstart

/-- R159 to R161: a compare writes, for every active element from VSTART on, the bit of its index in mask Md, keeps the
other bits below count(wa), clears those from there up, from whatever VSTART (log 103), and ORs its flags into VFLAGS, where TE
enables none of them. A NaN makes every compare false but VCMPNE; VCMPLT and VCMPLE raise NV for any NaN, the others for a signalling
one. -/
def Obligations.CompareMasks : Prop :=
  ∀ (s : State) (i : Instr) (ty : Ty) (md : BitVec 6) (a : WinOp) (ops : List Opd) (f : Nat → Bool × Flags),
    md.toNat ≤ 11 → compareSpec s ty i = some (md, a, ops, f) → vecReady s ty ops → stageOff s = false →
    (∀ j, j < count a → s.hart.vec.vstart ≤ j → guardOn s j = true → noTrap s (f j).2) →
    retires (exec i s) s fun t =>
      (∀ j, j < 1024 → (rm t md.toNat).getLsbD j =
        if count a ≤ j then false
        else if s.hart.vec.vstart ≤ j ∧ guardOn s j = true then (f j).1 else (rm s md.toNat).getLsbD j)
      ∧ (∀ k, k ≠ md.toNat → rm t k = rm s k)
      ∧ t.hart.vec.vflags = s.hart.vec.vflags ||| bitFlags s f (count a)
      ∧ t.hart.eng.streams = (popAll s ops).hart.eng.streams
      ∧ settled s t = { s with hart := { s.hart with
          vec := { s.hart.vec with m := t.hart.vec.m, vflags := t.hart.vec.vflags, vstart := 0 }
          eng := { s.hart.eng with streams := t.hart.eng.streams } } }

/-- R163 to R166, R171: a reduction, a scan, a compression, an expansion or SPTO whose checks pass and that raises no flag that TE enables
writes its destination positions from VSTART on, nothing else, and ORs the flags of the whole into VFLAGS. -/
def Obligations.WholeVectorResults : Prop :=
  ∀ (s : State) (i : Instr) (ty : Ty) (d : WinOp) (ops : List Opd) (out : List (Nat × Nat)) (fl : Flags),
    galleysOk s → wholeSpec s ty i = some (d, ops, out, fl) → vecReady s ty ops → noTrap s fl → stageOff s = false →
    retires (exec i s) s fun t =>
      (∀ k, k < count d → readElem t d k =
        match (out.filter (fun p => p.1 == k)).getLast? with
        | some p => if s.hart.vec.vstart ≤ k then p.2 % 2 ^ wEw d.desc else readElem s d k
        | none => readElem s d k)
      ∧ t.hart.vec.vflags = s.hart.vec.vflags ||| fl
      ∧ galleyKept s t (spansOf d (count d)) ∧ vecFrame s t ops

/-- R169 to R171, R36: SPADD, SPMUL and SPFROM that raise no flag that TE enables write the pairs of their result from VSTART on, set
CLEN to their number and advance VER; where the pairs exceed the destination's capacity they trap with SHAPE, whatever flags they raise,
and write nothing (the fields of TPOS that R138 does not name stay, log 9; a bound source keeps its points, log 89). From a VSTART past the result they write no pair, but set CLEN all the same (log 34). -/
def Obligations.SparsePairs : Prop :=
  ∀ (s : State) (i : Instr) (ty : Ty) (d : BitVec 6) (ops : List Opd) (out : List (Nat × Nat)) (fl : Flags),
    galleysOk s → pairSpec s ty i = some (d, ops, out, fl) → vecReady s ty ops → stageOff s = false →
    let w := winOp s d 0
    (out.length ≤ wNm1 w.desc + 1 → noTrap s fl → retires (exec i s) s fun t =>
      (∀ j p, out[j]? = some p →
        (s.hart.vec.vstart ≤ j → readCell t w.desc (cell w 0 j) = p.1 % 2 ^ wEw w.desc ∧ readCell t w.desc (cell w 1 j) = p.2 % 2 ^ wEw w.desc)
        ∧ (j < s.hart.vec.vstart → readCell t w.desc (cell w 0 j) = readCell s w.desc (cell w 0 j)
          ∧ readCell t w.desc (cell w 1 j) = readCell s w.desc (cell w 1 j)))
      ∧ wClen (rw t d) = out.length ∧ wVer (rw t d) = (wVer w.desc + 1) % 256
      ∧ rw t d &&& 0x00001FFFFFFFFFFF#64 = w.desc &&& 0x00001FFFFFFFFFFF#64
      ∧ (∀ r, r ≠ d → rw t r = rw s r)
      ∧ t.hart.vec.vflags = s.hart.vec.vflags ||| fl
      ∧ galleyKept s t ((List.range out.length).flatMap fun j => [cellSpan w.desc (cell w 0 j), cellSpan w.desc (cell w 1 j)])
      ∧ t.hart.vec.vstart = 0
      ∧ settled s t = { s with hart := { s.hart with
          vec := { s.hart.vec with galley := t.hart.vec.galley, vflags := t.hart.vec.vflags, vstart := 0, w := t.hart.vec.w }
          eng := { s.hart.eng with streams := t.hart.eng.streams } } })
    ∧ (wNm1 w.desc + 1 < out.length → handlerReady s → ∃ t, exec i s = .next t
      ∧ handled s t 0x05 (s.hart.pc &&& 0x00FFFFFFFFFFFFFC#64) ((wordOf i).setWidth 64)
          ((s.hart.trap.tpos &&& 0x00FFFFFFEFFFFFFF#64) ||| (d.setWidth 64 <<< 58)) w.desc s.hart.vec.vstart)

/-- R94: while VILL is 1, every instruction that the opcode map marks as dependent on VMODE traps with VMODE_ILL, whatever its
operands: majors 0x20 to 0x27, SETVL and MPOPVL of 0x43, 0x50, 0x52 to 0x57, 0x61 to 0x65, 0x67 and 0x77. No other window, mask or
mode instruction traps because of it. That a halting trap also writes TVAL is the model's reading (log 81).

R94: VILL is 1 exactly for a TYPE code of no type, an RM above 4, or a mask guard of a mask that does not exist; the
low 25 bits are as written, and every other bit reads 0.

R42, R43, R40, R59: under a legal mode a vector instruction's windows are checked: that they fit, their widths, their shapes, and that it
writes no claimed slot. The first check that fails, over the operands in order, traps with WINDOW_RANGE, WIDTH, SHAPE or SLOT_OWNED: TPOS
and TWIN name that window, TVAL the word, and nothing else changes. A stage guard that is off spares SLOT_OWNED alone (R46). -/
def Obligations.IllegalModeTraps : Prop :=
  (∀ (s : State) (i : Instr) (w : BitVec 32), encode i = some w →
    let major := (fld w 25 7).toNat
    ((0x20 ≤ major ∧ major ≤ 0x27) ∨ (major = 0x43 ∧ (fld w 6 4).toNat ≤ 1) ∨ major = 0x50 ∨ (0x52 ≤ major ∧ major ≤ 0x57)
      ∨ (0x61 ≤ major ∧ major ≤ 0x65) ∨ major = 0x67 ∨ major = 0x77) →
    modeIll s.hart.vec.vmode = true → s.hart.who.dispatch = false →
    ∃ t, exec i s = .next t ∧ supervised s t 0x04 ∧ t.hart.trap.tval = w.setWidth 64 ∧ t.hart.vec = s.hart.vec ∧ t.hart.mat = s.hart.mat)
  ∧ (∀ (s : State) (d a : BitVec 6) (b : BitVec 5) (row : BitVec 9) (x y : BitVec 6),
    ∀ i ∈ [Instr.wdef d b, .wdefi d a row, .wget b d, .mcnt b x, .mfirst b x, .mand x y x, .msbf x y, .setmodex b b],
      retires (exec i s) s fun _ => True)
  ∧ (∀ m : BitVec 25,
    (modeIll (makeVmode m) = true ↔
      typeCodeOk (m.extractLsb' 0 8) = false ∨ 5 ≤ (m.extractLsb' 8 3).toNat
      ∨ (((m.extractLsb' 19 2).toNat = 1 ∨ (m.extractLsb' 19 2).toNat = 2) ∧ 12 ≤ (m.extractLsb' 21 4).toNat))
    ∧ makeVmode m &&& 0x7FFFFFFFFFFFFFFF#64 = m.setWidth 64)
  ∧ (∀ (s : State) (i : Instr) (ty : Ty) (ops : List Opd) (o : Opd),
    dispatchOpds s ty i = some ops → modeIll s.hart.vec.vmode = false → modeTy s.hart.vec.vmode = some ty → handlerReady s →
    let first (good : Opd → Bool) : Prop := ∃ pre post, ops = pre ++ o :: post ∧ good o = false ∧ ∀ x ∈ pre, good x = true
    let all (good : Opd → Bool) : Prop := ∀ x ∈ ops, good x = true
    let fit (x : Opd) : Bool := winFits s x.win
    let wide (x : Opd) : Bool := !badWidth x
    let free (x : Opd) : Bool := !badSlot s x
    let traps (c : BitVec 8) : Prop := ∃ t, exec i s = .next t
      ∧ handled s t c (s.hart.pc &&& 0x00FFFFFFFFFFFFFC#64) ((wordOf i).setWidth 64) (tposWindow s.hart.trap.tpos o.win) o.win.desc s.hart.vec.vstart
    (first fit → traps 0x07) ∧ (all fit → first wide → traps 0x06) ∧ (all fit → all wide → first (·.shape) → traps 0x05)
    ∧ (all fit → all wide → all (·.shape) → stageOff s = false → first free → traps 0x08))

/-! ## Windows, length, mode, masks -/

/-- R146 to R148: WDEF and WDEFI set a descriptor with VER advanced and unbind the window; WGET reads one; WSAVE stores
descriptors as double words, and WLOAD restores them with their VER, once the scalar stores before it have performed. -/
def Obligations.WindowRegisters : Prop :=
  ∀ (s : State) (d a : BitVec 6) (b x : BitVec 5) (row : BitVec 9),
    let setTo (o : Out) (v : Word) : Prop := retires o s fun t =>
      rw t d = (v &&& 0x00FFFFFFFFFFFFFF#64) ||| BitVec.ofNat 64 ((wVer (rw s d) + 1) % 256 * 2 ^ 56)
      ∧ (∀ r, r ≠ d → rw t r = rw s r)
      ∧ (boundTo s d.toNat = none → settled s t = { s with hart := { s.hart with vec := { s.hart.vec with w := t.hart.vec.w } } })
      ∧ settled s t = { s with hart := { s.hart with
          vec := { s.hart.vec with w := t.hart.vec.w }, c := t.hart.c, eng := { s.hart.eng with streams := t.hart.eng.streams } } }
    setTo (exec (.wdef d b) s) (rx s b)
    ∧ setTo (exec (.wdefi d a row) s) ((rw s a &&& 0xFFFFFFFFFFFF803F#64) ||| (row.setWidth 64 <<< 6))
    ∧ givesX (exec (.wget x d) s) s x (rw s d)
    ∧ (∀ u, (rx s b).toNat % 8 = 0 → fenced s clsS = false →
        storeWords s (s.hart.path s) (rx s b).toNat ((winRange d a).map (rw s)) = .ok u →
        retires (exec (.wsave d a b) s) s fun t => t.mem = u.mem ∧ t.banks = u.banks ∧ t.hart.weak = { u.hart.weak with viewS := none }
          ∧ t.hart.vec = s.hart.vec ∧ t.hart.x = s.hart.x)
    ∧ (∀ ws,
        let u := syncScalar s
        (rx s b).toNat % 8 = 0 → fenced s clsS = false → d.toNat ≤ a.toNat →
        loadWords u (u.hart.path u) (rx s b).toNat (winRange d a).length = .ok ws →
        retires (exec (.wload d a b) s) u fun t =>
          (∀ r : BitVec 6, rw t r = if d.toNat ≤ r.toNat ∧ r.toNat ≤ a.toNat then ws.getD (r.toNat - d.toNat) 0 else rw s r)
          ∧ t.mem = u.mem ∧ t.banks = u.banks ∧ t.hart.x = s.hart.x ∧ t.hart.vec.galley = s.hart.vec.galley)

/-- R149, R150: WSPILL stores a window's frame; WFILL of a frame that fits sets the descriptor it recorded and writes the
window's elements, and leaves VSTART and VL as they are. The vector stores before it have performed then. -/
def Obligations.SpillFrames : Prop :=
  ∀ (s : State) (a d : BitVec 6) (b : BitVec 5),
    let va := (rx s b).toNat
    let w := winOp s a 1
    let o : Opd := { win := w, width := none, shape := true, reads := count w, writes := 0 }
    (∀ u, winFits s w = true → heldBack s o = false → va % 16 = 0 → fenced s clsV = false →
        storeWords (dropView s) (s.hart.vpath s) va (spillFrame s w) = .ok u →
        retires (exec (.wspill a b) s) s fun t => t.mem = u.mem ∧ t.banks = u.banks ∧ t.hart.weak = u.hart.weak
          ∧ t.hart.vec = s.hart.vec ∧ t.hart.x = s.hart.x)
    ∧ (∀ desc info ws,
        let u := dropView (drain s true)
        galleysOk s → boundTo s d.toNat = none → va % 16 = 0 → fenced s clsV = false →
        loadWords u (u.hart.vpath u) va 2 = .ok [desc, info] →
        info.toNat / 2 ^ 32 % 65536 = 512 / 2 ^ s.hart.who.shape →
        let f : WinOp := { num := d.toNat, role := 0, desc := desc, vl := info.toNat % 2 ^ 32, ring := ringOf s }
        winFits s f = true →
        badSlot s { win := f, width := none, shape := true, reads := 0, writes := count f } = false →
        heldBack s { win := f, width := none, shape := true, reads := 0, writes := count f } = false →
        loadWords u (u.hart.vpath u) (va + 16) (frameBytes (wEw desc) (frameCount f) / 8) = .ok ws →
        retires (exec (.wfill d b) s) u fun t =>
          rw t d = desc ∧ (∀ r, r ≠ d → rw t r = rw s r)
          ∧ (wKind desc ≠ kindSpair → ∀ k, k < count f → readElem t f k = natOfWords ws / 2 ^ (wEw desc * k) % 2 ^ wEw desc)
          ∧ (wKind desc = kindSpair → ∀ k, k < count f →
              readCell t desc (cell f 0 k) = natOfWords ws / 2 ^ (wEw desc * k) % 2 ^ wEw desc
              ∧ readCell t desc (cell f 1 k) = natOfWords ws / 2 ^ (wEw desc * (count f + k)) % 2 ^ wEw desc)
          ∧ galleyKept s t (spansOf f (count f))
          ∧ settled u t = { u with hart := { u.hart with vec := { s.hart.vec with w := t.hart.vec.w, galley := t.hart.vec.galley } } })

/-- R151 to R155: SETVL and MPOPVL grant a length of at most VLMAX, write it and VL, and trap with VMODE_ILL while VILL is
1; SETMODE and SETMODEX write VMODE; MCNT and MFIRST read a mask; the mask instructions write one. -/
def Obligations.LengthModeMasks : Prop :=
  ∀ (s : State) (d a : BitVec 5) (k x y z : BitVec 6) (md : BitVec 25),
    k.toNat ≤ 11 → x.toNat ≤ 11 →
    let vlmax (ty : Ty) : Nat := (if s.hart.who.degr then 4 else 8) * (512 / 2 ^ s.hart.who.shape) / ty.width
    let bits (q : BitVec 6) : Nat := ((List.range 1024).filter fun j => (rm s q.toNat).getLsbD j).length
    let first (q : BitVec 6) : Option Nat := (List.range 1024).find? fun j => (rm s q.toNat).getLsbD j
    let granted (o : Out) (n : Nat) : Prop := retires o s fun t => wroteX s t d (BitVec.ofNat 64 n) ∧ t.hart.vec.vl = n
      ∧ settled s t = { s with hart := { s.hart with x := t.hart.x, vec := { s.hart.vec with vl := n } } }
    let mask (o : Out) (f : Nat → Bool) : Prop := retires o s fun t => (∀ j, j < 1024 → (rm t x.toNat).getLsbD j = f j)
      ∧ (∀ q, q ≠ x.toNat → rm t q = rm s q)
      ∧ settled s t = { s with hart := { s.hart with vec := { s.hart.vec with m := t.hart.vec.m } } }
    (∀ ty, modeIll s.hart.vec.vmode = false → modeTy s.hart.vec.vmode = some ty →
      granted (exec (.setvl d a) s) (if a = 0#5 then vlmax ty else min (rx s a).toNat (vlmax ty))
      ∧ granted (exec (.mpopvl d k) s) (min (bits k) (vlmax ty)))
    ∧ (modeIll s.hart.vec.vmode = true → s.hart.who.dispatch = false →
      (∃ t, exec (.setvl d a) s = .next t ∧ supervised s t 0x04 ∧ t.hart.vec = s.hart.vec)
      ∧ (∃ t, exec (.mpopvl d k) s = .next t ∧ supervised s t 0x04 ∧ t.hart.vec = s.hart.vec))
    ∧ retires (exec (.setmode md) s) s (fun t => settled s t = { s with hart := { s.hart with vec := { s.hart.vec with vmode := makeVmode md } } })
    ∧ retires (exec (.setmodex d a) s) s (fun t => wroteX s t d s.hart.vec.vmode
        ∧ settled s t = { s with hart := { s.hart with x := t.hart.x, vec := { s.hart.vec with vmode := makeVmode ((rx s a).setWidth 25) } } })
    ∧ givesX (exec (.mcnt d k) s) s d (BitVec.ofNat 64 (bits k))
    ∧ givesX (exec (.mfirst d k) s) s d (match first k with | some n => BitVec.ofNat 64 n | none => BitVec.allOnes 64)
    ∧ mask (exec (.mand x y z) s) (fun j => (rm s y.toNat).getLsbD j && (rm s z.toNat).getLsbD j)
    ∧ mask (exec (.mor x y z) s) (fun j => (rm s y.toNat).getLsbD j || (rm s z.toNat).getLsbD j)
    ∧ mask (exec (.mxor x y z) s) (fun j => (rm s y.toNat).getLsbD j != (rm s z.toNat).getLsbD j)
    ∧ mask (exec (.mandn x y z) s) (fun j => (rm s y.toNat).getLsbD j && !(rm s z.toNat).getLsbD j)
    ∧ mask (exec (.msbf x y) s) (fun j => match first y with | some n => decide (j < n) | none => true)

/-! ## The matrix path at dispatch -/

/-- R182, R184, R190 to R199, R47: a matrix instruction whose checks pass is posted at the end of the queue with what it
captured, and changes nothing else. -/
def Obligations.MatrixPosts : Prop :=
  ∀ (s : State) (i : Instr) (ty : Ty) (q : MReq) (wa wb : Word) (md : List Nat),
    matSpec s ty i = some (q, wa, wb, md) → matReady s ty q →
    (∀ t v b, i = .mmasp t v b → heldBack s
      { win := (winOp s (v + 1) 1).whole, width := none, shape := true, reads := count (winOp s (v + 1) 1).whole, writes := 0 } = false) →
    retires (exec i s) s fun t =>
      t.hart.mat.mq = s.hart.mat.mq ++
        [{ op := i, vmode := s.hart.vec.vmode, vl := s.hart.vec.vl, mvl := s.hart.mat.mvl, rcur := s.hart.vec.rcur,
           rlo := s.hart.vec.rlo, rhi := s.hart.vec.rhi, wa := wa, wb := wb, fetch := 0, bytes := md, started := false, k := 0, flags := 0 }]
      ∧ settled s t = { s with hart := { s.hart with mat := { s.hart.mat with mq := t.hart.mat.mq } } }

/-- R174 to R179: MSTART grants the longest of 128, 64, 32 and 16 that the request, MVLMAX, the accumulator and the stripe
allow, or 0; MSTOP ends the mode; MCLAIM and MREL change one slot, and outside matrix mode trap with MATRIX_OFF, beyond
SLOTS with WINDOW_RANGE. That such a trap keeps the fields of TPOS that R138 does not name is the model's choice (log 9). -/
def Obligations.MatrixMode : Prop :=
  ∀ (s : State) (d a : BitVec 5),
    let x := (rx s a).toNat
    let req := if x % 256 = 0 then 128 else x % 256
    let sew := x / 256 % 4
    let grb := 512 / 2 ^ s.hart.who.shape
    let fitsM (m : Nat) : Prop :=
      m ≤ req ∧ sew < 3 ∧ m ≤ 128 ∧ m ≤ grb * 8 / (16 / 2 ^ sew) ∧ 4 * m * m ≤ s.hart.who.accb ∧ m ≤ s.hart.who.grows
    let granted (m : Nat) : Prop := m ∈ [128, 64, 32, 16] ∧ fitsM m ∧ ∀ n ∈ [128, 64, 32, 16], m < n → ¬fitsM n
    let slot (c : BitVec 8) (i : Instr) : Prop := handlerReady s → ∃ t, exec i s = .next t
      ∧ handled s t c (s.hart.pc &&& 0x00FFFFFFFFFFFFFC#64) ((wordOf i).setWidth 64) (tposPlain s.hart.trap.tpos) s.hart.trap.twin s.hart.vec.vstart
    (∀ m, granted m → retires (exec (.mstart d a) s) s fun t => ∃ v, wroteX s t d v ∧ t.hart.mat.mvl = v ∧ t.hart.mat.claimed = []
      ∧ mvlLen v = m ∧ mvlSew v = sew ∧ mvlTiles v = min 16 (s.hart.who.accb / (4 * m * m))
      ∧ mvlSpb v = grb / (m * (16 / 2 ^ sew) / 8)
      ∧ mvlSlots v = min 1024 (s.hart.who.grows / m * (grb / (m * (16 / 2 ^ sew) / 8))))
    ∧ ((∀ m, ¬granted m) → retires (exec (.mstart d a) s) s fun t => wroteX s t d 0 ∧ mvlLen t.hart.mat.mvl = 0)
    ∧ retires (exec .mstop s) s (fun t => mvlLen t.hart.mat.mvl = 0 ∧ (matrixOn s = true → t.hart.mat.claimed = [])
        ∧ settled s t = { s with hart := { s.hart with mat := { s.hart.mat with
            mq := t.hart.mat.mq, mvl := t.hart.mat.mvl, claimed := t.hart.mat.claimed } } })
    ∧ (matrixOn s = true → x < mvlSlots s.hart.mat.mvl →
        retires (exec (.mclaim a) s) s (fun t => (∀ k, k ∈ t.hart.mat.claimed ↔ k = x ∨ k ∈ s.hart.mat.claimed)
          ∧ settled s t = { s with hart := { s.hart with mat := { s.hart.mat with mq := t.hart.mat.mq, claimed := t.hart.mat.claimed } } })
        ∧ retires (exec (.mrel a) s) s (fun t => (∀ k, k ∈ t.hart.mat.claimed ↔ k ≠ x ∧ k ∈ s.hart.mat.claimed)
          ∧ settled s t = { s with hart := { s.hart with mat := { s.hart.mat with claimed := t.hart.mat.claimed } } }))
    ∧ (matrixOn s = false → slot 0x0A (.mclaim a) ∧ slot 0x0A (.mrel a))
    ∧ (matrixOn s = true → mvlSlots s.hart.mat.mvl ≤ x → slot 0x07 (.mclaim a) ∧ slot 0x07 (.mrel a))

/-- R194: MCOMP keeps four of every eight elements of a row: none that it drops is larger in magnitude than one that it keeps,
or as large and in a lower position. It writes them in order into the values window, and their bitmap into the metadata
window. -/
def Obligations.PruningResults : Prop :=
  ∀ (s : State) (ty : Ty) (v b : BitVec 6),
    let wv := (winOp s v 1).whole
    let wm := (winOp s (v + 1) 1).whole
    let wb := (winOp s b 2).whole
    let groups := innerOf wb.desc / 8
    let values (r g : Nat) : List Nat := (List.range 8).map fun p => readCell s wb.desc (cell wb r (8 * g + p))
    let kept (r g : Nat) : List Nat := (List.range 8).filter (mcompKeeps ty (values r g))
    galleysOk s → isSP ty = true → vecReady s ty (mcompOpds s wv wm wb ty) → v.toNat ≤ 62 →
    spansMeet (spansOf wv (count wv)) (spansOf wm (count wm)) = false →
    retires (exec (.mcomp v b) s) s fun t =>
      (∀ r g, r < outerOf wb.desc → g < groups → s.hart.vec.vstart ≤ r * groups + g →
        (kept r g).length = 4
        ∧ (∀ p ∈ kept r g, ∀ q, q < 8 → q ∉ kept r g → magnitudeAtLeast ty ((values r g).getD p 0) ((values r g).getD q 0) = true
            ∧ (magnitudeAtLeast ty ((values r g).getD q 0) ((values r g).getD p 0) = true → p < q))
        ∧ readCell t wm.desc (cell wm r g) = ((kept r g).map fun p => 2 ^ p).sum
        ∧ ∀ j p, (kept r g)[j]? = some p → readCell t wv.desc (cell wv r (4 * g + j)) = (values r g).getD p 0)
      ∧ galleyKept s t (spansOf wv (count wv) ++ spansOf wm (count wm))
      ∧ settled s t = { s with hart := { s.hart with vec := { s.hart.vec with galley := t.hart.vec.galley, vstart := 0 } } }

/-- R186, R187, R227, R230: MFETCH in each of its forms is posted with a fetch that holds what it captured; its counter goes
up by one, and a barrier bound to the counter goes with it. -/
def Obligations.FetchPosts : Prop :=
  ∀ (s : State) (i : Instr) (ty : Ty) (scale : Nat) (delta : Bool) (h c : BitVec 4) (a b : BitVec 5) (w : BitVec 6) (x : BitVec 1),
    (i = .mfetch h c a b w x ∧ scale = 0 ∧ delta = false) ∨ (i = .mfetchD h c a b w x ∧ scale = 0 ∧ delta = true)
      ∨ (i = .mfetchPg h c a b w x ∧ scale = 1 ∧ delta = false) ∨ (i = .mfetchPgD h c a b w x ∧ scale = 1 ∧ delta = true)
      ∨ (i = .mfetchSh h c a b w x ∧ scale = 2 ∧ delta = false) ∨ (i = .mfetchShD h c a b w x ∧ scale = 2 ∧ delta = true) →
    isMM ty = true → (scale ≠ 0 ∨ delta = true → ty.isFloat = true) →
    matReady s ty { ops := [matOpd s (winOp s w 0) (some ty.width) (tileShape s (rw s w))], tile := none, handle := none,
                    slots := [winOp s w 0], last := none } →
    fetchHandleBad s ty (winOp s w 0) h.toNat ((rx s a).toNat % 2 ^ 32) scale delta (x == 1#1) = false →
    cmdStalls s c.toNat = false →
    retires (exec i s) s fun t =>
      (∃ e f, t.hart.mat.mq = s.hart.mat.mq ++ [e] ∧ t.hart.mat.fetches = s.hart.mat.fetches ++ [f]
        ∧ e.op = i ∧ e.fetch = s.nextId ∧ e.started = false ∧ f.op = i ∧ f.id = s.nextId ∧ f.inQueue = true ∧ f.row = 0
        ∧ f.ctr = c.toNat ∧ f.h = rh s h.toNat ∧ f.win = rw s w ∧ f.vmode = s.hart.vec.vmode ∧ f.scale = scale ∧ f.delta = delta
        ∧ f.c = [(rx s a).toNat % 2 ^ 32, (rx s a).toNat / 2 ^ 32, (rx s b).toNat % 2 ^ 32, (rx s b).toNat / 2 ^ 32]
        ∧ f.sb = boundBarrier s c.toNat)
      ∧ (rc t c.toNat).count = (rc s c.toNat).count + 1 ∧ (∀ k, k ≠ c.toNat → rc t k = rc s k)
      ∧ settled s t = { s with nextId := s.nextId + 1, hart := { s.hart with c := t.hart.c, mat := { s.hart.mat with mq := t.hart.mat.mq, fetches := t.hart.mat.fetches }, eng := { s.hart.eng with sbind := t.hart.eng.sbind } } }

/-! ## Memory instructions -/

/-- R210: HSET of a double word but the first makes the handle not valid; of the first, and HLD, check the whole and make it
valid or trap with HANDLE_BAD; a GRID's level entries are read for the check. HST stores it as one line, or on a fault no byte of
it; HGET reads a double word. A load sees the scalar stores before it. That a halting trap also writes TVAL is the model's
reading (log 81). -/
def Obligations.HandleInstructions : Prop :=
  ∀ (s : State) (h n : BitVec 4) (a : BitVec 5),
    let u := syncScalar s
    let q := dropScalar s
    let va := (rx s a).toNat
    let set (o : Out) (g : Handle) : Prop := retires o u fun t => rh t h.toNat = g ∧ (∀ k, k ≠ h.toNat → rh t k = rh s k)
      ∧ settled u t = { u with hart := { u.hart with h := t.hart.h } }
    let traps (v : State) (i : Instr) (c : BitVec 8) (x : Word) : Prop := s.hart.who.dispatch = false →
      ∃ t, exec i s = .next t ∧ supervised v t c ∧ t.hart.trap.tval = x ∧ t.hart.h = s.hart.h ∧ memoryKept v t
    let passes (g : Handle) (es : List Word) : Prop :=
      (g.kind ≠ kindGrid ∧ tensorOk g = true ∧ es = [])
      ∨ (g.kind = kindGrid ∧ gridOk g = true ∧ loadWords u (u.hart.path u) g.lvt g.gridL = .ok es ∧ es.all levelOk = true)
    let fails (g : Handle) : Prop :=
      (g.kind ≠ kindGrid ∧ tensorOk g = false) ∨ (g.kind = kindGrid ∧ gridOk g = false)
      ∨ (g.kind = kindGrid ∧ gridOk g = true ∧ ∃ es, loadWords u (u.hart.path u) g.lvt g.gridL = .ok es ∧ es.all levelOk = false)
    let new : Handle := (rh s h.toNat).put n.toNat (rx s a)
    let bytes : List Byte := lineBytes s (identSpace s s.hart.who).asid va (rh s h.toNat).dw.toList
    banksOk s → memOk s →
    (n ≠ 0#4 → set (exec (.hset h n a) s) { new with valid := false, levels := [] })
    ∧ (n = 0#4 → (new.kind = kindGrid → fenced s clsS = false) →
        (∀ es, passes new es → set (exec (.hset h n a) s) { new with valid := true, levels := es })
        ∧ (fails new → traps u (.hset h n a) 0x46 ((wordOf (.hset h n a)).setWidth 64))
        ∧ (∀ c x, new.kind = kindGrid → gridOk new = true → loadWords u (u.hart.path u) new.lvt new.gridL = .trap c x →
            traps u (.hset h n a) c (BitVec.ofNat 64 x)))
    ∧ (fenced s clsS = false →
        (∀ ws, va % 64 = 0 → loadWords u (u.hart.path u) va 8 = .ok ws →
          (∀ es, passes (handleOf ws) es → set (exec (.hld h a) s) { handleOf ws with valid := true, levels := es })
          ∧ (fails (handleOf ws) → traps u (.hld h a) 0x46 ((wordOf (.hld h a)).setWidth 64)))
        ∧ (∀ c x, va % 64 = 0 → loadWords u (u.hart.path u) va 8 = .trap c x → traps u (.hld h a) c (BitVec.ofNat 64 x)))
    ∧ (va % 64 ≠ 0 → traps u (.hld h a) 0x45 (rx s a))
    ∧ (fenced s clsS = false →
        (∀ l, scalarWrites q va l bytes → s.hart.weak.holdS = false → retires (exec (.hst h a) s) q fun t =>
          stored q t l bytes ∧ t.others.map unlinked = s.others.map unlinked
          ∧ (∀ x w lg, l = .pa x w lg → t.poison = s.poison.filter (fun y => y ≠ x / 64))
          ∧ settled q t = { q with
              mem := t.mem, banks := t.banks, others := t.others, poison := t.poison
              hart := { q.hart with eng := { s.hart.eng with link := t.hart.eng.link } } })
        ∧ (∀ l, scalarWrites q va l bytes → s.hart.weak.holdS = true → postable q l = true → retires (exec (.hst h a) s) q fun t =>
          heldStore q t false l va bytes ∧ t.mem = s.mem ∧ t.banks = s.banks ∧ t.hart.h = s.hart.h ∧ t.hart.x = s.hart.x)
        ∧ (∀ l, scalarWrites q va l bytes → s.hart.weak.holdS = true → postable q l = false → takesStore (drain q false) l bytes →
          retires (exec (.hst h a) s) (drain q false) fun t => stored (drain q false) t l bytes ∧ t.hart.h = s.hart.h ∧ t.hart.x = s.hart.x)
        ∧ (va % 64 ≠ 0 → traps q (.hst h a) 0x45 (rx s a))
        ∧ (∀ c x, va % 64 = 0 → locate q (q.hart.path q) va .store = .trap c x → traps q (.hst h a) c (BitVec.ofNat 64 x))
        ∧ (∀ key, s.hart.strike = none → va % 64 = 0 → locate q (q.hart.path q) va .store = .ok (.fifo key) → traps q (.hst h a) 0x4C (rx s a)))
    ∧ (n.toNat < 8 → givesX (exec (.hget h n a) s) s a (BitVec.ofNat 64 ((rh s h.toNat).word n.toNat)))

/-- R211 to R215: a vector load whose checks pass, all of whose pending elements can be loaded, writes them, and nothing
else; LDT and the others are ordered, GATH is not. It sees the vector stores before it; where the hart reads an earlier place of
the global order (R267, R269), which is the agenda's choice (log 118), the elements are loaded from there.

R53, R54, R212: where element k of an ordered one is the first that cannot be loaded, the hart halts with its cause: the elements below k
have been loaded, and their flags are in VFLAGS; the others have not. VSTART is k, TVAL its address, and TPOS names it. -/
def Obligations.VectorLoads : Prop :=
  ∀ (s u r : State) (p : Path) (i : Instr) (ty : Ty) (d : WinOp) (ops : List Opd) (un : Bool) (load : Nat → MRes (Nat × Flags)) (val : Nat → Nat × Flags),
    galleysOk s → loadsFrom s i ty u r p → loadSpec s r p ty i = some (d, ops, un, load) →
    vecReady s ty ops → stageOff s = false → fenced s clsV = false →
    let loadedBelow (t : State) (n : Nat) : Prop :=
      (∀ k, k < count d → (k < n → pending s d un k → readElem t d k = (val k).1 % 2 ^ wEw d.desc)
        ∧ (n ≤ k ∨ ¬pending s d un k → readElem t d k = readElem s d k))
      ∧ galleyKept s t (spansOf d n)
      ∧ (∀ b, b < 9 → (t.hart.vec.vflags.getLsbD b = true ↔
          s.hart.vec.vflags.getLsbD b = true ∨ ∃ k, k < n ∧ pending s d un k ∧ (val k).2.getLsbD b = true))
    ((∀ k, k < count d → pending s d un k → load k = .ok (val k) ∧ noTrap s (val k).2) →
      retires (exec i s) u fun t => loadedBelow t (count d) ∧ loadFrame u t ops un)
    ∧ (∀ k c x, un = false → u.hart.weak.viewV = none → s.hart.who.dispatch = false → k < count d → pending s d un k →
      (∀ j, j < k → pending s d un j → load j = .ok (val j) ∧ noTrap s (val j).2) → load k = .trap c x → handlerClass c = false →
      ∃ t, exec i s = .next t ∧ supervised u t c ∧ memoryKept u t ∧ loadedBelow t k
        ∧ t.hart.vec = { s.hart.vec with galley := t.hart.vec.galley, vflags := t.hart.vec.vflags, vstart := k }
        ∧ t.hart.trap = { s.hart.trap with tepc := s.hart.pc &&& 0x00FFFFFFFFFFFFFC#64, tcause := 0x8000000000000000#64 ||| c.setWidth 64
                                           tval := BitVec.ofNat 64 x, twin := d.desc, tpos := tposElem s.hart.trap.tpos d false k })

/-- R213 to R215: a vector store whose checks pass, all of whose pending elements can be stored, stores them in ascending
order: a byte at no element's address is unchanged, and so is everything else. Poison marks are cleared of lines that are written
whole, and of no others (R344). Where the hart's vector stores are held back (R267, log 117), `u` holds them.

R53, R54, R212: where element k of an ordered one is the first that cannot be stored, the hart halts with its cause: the elements below k
have been stored, and no other byte has changed but of the event log. VSTART is k, TVAL its address, and TPOS names it. -/
def Obligations.VectorStores : Prop :=
  ∀ (s u : State) (i : Instr) (ty : Ty) (d : WinOp) (ops : List Opd) (un : Bool) (f : State → Nat → MRes State) (addr : Nat → Option (Nat × Nat)),
    memOk s → banksOk s → storeSpec s ty i = some (d, ops, un, f, addr) → vecReady s ty ops → stageOff s = false → fenced s clsV = false →
    (∀ k c x, un = false → s.hart.who.dispatch = false → k < count d → pending s d un k → storesBelow s d un f k = .ok u → f u k = .trap c x →
      handlerClass c = false →
      ∃ t, exec i s = .next t ∧ supervised u t c ∧ memoryKept u t ∧ t.hart.weak.postV = u.hart.weak.postV
        ∧ t.hart.vec = { s.hart.vec with vstart := k }
        ∧ t.hart.trap = { s.hart.trap with tepc := s.hart.pc &&& 0x00FFFFFFFFFFFFFC#64, tcause := 0x8000000000000000#64 ||| c.setWidth 64
                                           tval := BitVec.ofNat 64 x, twin := d.desc, tpos := tposElem s.hart.trap.tpos d false k })
    ∧ (storesBelow s d un f (count d) = .ok u →
    let hit (x : Nat) : Prop := ∃ k va n a w lg, k < count d ∧ pending s d un k ∧ addr k = some (va, n)
      ∧ locate s (s.hart.path s) va .store = .ok (.pa a w lg) ∧ a ≤ x ∧ x < a + n
    retires (exec i s) s fun t =>
      t.mem = u.mem ∧ t.banks = u.banks ∧ t.hart.weak = { u.hart.weak with viewV := none }
      ∧ (s.hart.weak.postV = [] → ∀ x, ¬hit x → readPa t x = readPa s x)
      ∧ (∀ l, l ∈ t.poison ↔ l ∈ s.poison ∧ ∃ j, j < 64 ∧ ¬hit (64 * l + j))
      ∧ t.others.map unlinked = s.others.map unlinked ∧ t.hart.vec.vstart = 0
      ∧ settled s t = { s with mem := t.mem, banks := t.banks, others := t.others, poison := t.poison, hart := { s.hart with
          vec := { s.hart.vec with vstart := 0, cmask := if un then 0 else s.hart.vec.cmask }
          weak := t.hart.weak
          eng := { s.hart.eng with streams := t.hart.eng.streams, link := t.hart.eng.link } } })

/-- R203, R204: LDV from a FIFO port takes the window's bytes from the oldest entries, and STV to one adds them; with too
few entries, or too little room, the hart waits and nothing moves. The vector stores before it have performed. From a VSTART
between 0 and the count all entries move; a guard, and a count that is no multiple of 8 bytes, are tested in this order, and such an
access traps and moves nothing (log 42). That a halting trap also
writes TVAL is the model's reading (log 81). -/
def Obligations.FifoTransfers : Prop :=
  ∀ (s : State) (ty : Ty) (a : BitVec 5) (w : BitVec 6) (key : Nat),
    let u := dropView (drain s true)
    let d := winOp s w 0
    let n := count d * ty.width / 64
    let va := (rx s a).toNat
    galleysOk s → banksOk s → stageOff s = false → fenced s clsV = false → isFifoVa va = true → s.hart.vec.vstart < count d →
    let others (t : State) : Prop := (∀ k, k ≠ key → bankAt t k = bankAt u k) ∧ t.mem = u.mem ∧ t.hart.x = s.hart.x ∧ t.hart.vec.vstart = 0
    let refuses (i : Instr) (k : AccKind) : Prop :=
      let traps (c : BitVec 8) (x : Nat) : Prop := ∃ t, exec i s = .next t ∧ supervised u t c ∧ t.hart.trap.tval = BitVec.ofNat 64 x
        ∧ memoryKept u t ∧ (∀ key, bankAt t key = bankAt u key) ∧ t.hart.vec.galley = s.hart.vec.galley
      (hasGuard s = true → traps 0x4C va)
      ∧ (hasGuard s = false →
        (count d * ty.width % 64 ≠ 0 → traps 0x45 va)
        ∧ ∀ c x, count d * ty.width % 64 = 0 → locate u (u.hart.path u) va k = .trap c x → traps c x)
    let good : Prop := hasGuard s = false ∧ count d * ty.width % 64 = 0
    (vecReady s ty [dataDst s d ty] → refuses (.ldv a w) .load) ∧ (vecReady s ty [dataSrc d ty] → refuses (.stv a w) .store)
    ∧ (good → vecReady s ty [dataDst s d ty] → locate u (u.hart.path u) (rx s a).toNat .load = .ok (.fifo key) →
      (n ≤ (bankAt u key).fifo.length → retires (exec (.ldv a w) s) u fun t =>
        (∀ k, k < count d → readElem t d k = if s.hart.vec.vstart ≤ k
          then natOfWords ((bankAt u key).fifo.take n) / 2 ^ (ty.width * k) % 2 ^ ty.width else readElem s d k)
        ∧ galleyKept s t (spansOf d (count d))
        ∧ bankAt t key = { bankAt u key with fifo := (bankAt u key).fifo.drop n } ∧ others t)
      ∧ ((bankAt u key).fifo.length < n → exec (.ldv a w) s = .next (waitOn s (.fifo key))))
    ∧ (good → vecReady s ty [dataSrc d ty] → locate u (u.hart.path u) (rx s a).toNat .store = .ok (.fifo key) →
      ((bankAt u key).fifo.length + n ≤ 32768 → retires (exec (.stv a w) s) u fun t =>
        bankAt t key = { bankAt u key with
          fifo := (bankAt u key).fifo ++ wordsOfNat n (packElems ty.width ((List.range (count d)).map (srcElem s d))) }
        ∧ others t ∧ t.hart.vec.galley = s.hart.vec.galley)
      ∧ (32768 < (bankAt u key).fifo.length + n → exec (.stv a w) s = .next (waitOn s (.fifo key))))

/-- R217: GLINK loads its elements and holds an unbroken tag on the line of each; SCOND stores the elements whose lines are
tagged and unbroken, and no other byte, says in M0 which, and drops the link set; an element that fails performs no access, whatever
one would meet; without a link set it traps with SCOND_NOLINK.
The vector stores before either have performed. -/
def Obligations.LinkedAccess : Prop :=
  ∀ (s : State) (ty : Ty) (d a : BitVec 6) (b : BitVec 5) (loc : Nat → Loc),
    let u := dropView (drain s true)
    let wd := winOp s d 0
    let wa := winOp s a 1
    let va (k : Nat) : Nat := gathAddr s (rx s b) wa k
    let n := ty.width / 8
    let stores (k : Nat) : Prop := k < count wd ∧ performed s wd k ∧ holdsTag u (locLine (loc k)) = true ∧ locRemote (loc k) = false
    galleysOk s → memOk s → banksOk s → isLinkTy ty = true → stageOff s = false → fenced s clsV = false →
    (vecReady s ty (gathOpds s wd wa false true ty) → s.hart.vec.vstart < count wd →
      (∀ k, k < count wd → performed s wd k → placeOf u (s.hart.vpath s) (va k) n .load .fifoOnly = .ok (loc k) ∧ locPoisoned u (loc k) = false) →
      retires (exec (.glink d a b) s) u fun t =>
        (∀ k, k < count wd → readElem t wd k =
          if performed s wd k then loaded u (va k) n (loc k) % 2 ^ wEw wd.desc else readElem s wd k)
        ∧ galleyKept s t (spansOf wd (count wd))
        ∧ (∃ ls, t.hart.eng.link = some ls ∧ ∀ line f, (line, f) ∈ ls ↔
            f = true ∧ ∃ k, k < count wd ∧ performed s wd k ∧ locRemote (loc k) = false ∧ locLine (loc k) = line)
        ∧ settled u t = { u with hart := { u.hart with
            vec := { s.hart.vec with galley := t.hart.vec.galley, vstart := 0 }
            eng := { u.hart.eng with link := t.hart.eng.link, streams := t.hart.eng.streams } } })
    ∧ (vecReady s ty (gathOpds s wd wa true false ty) → s.hart.vec.vstart < count wd → s.hart.eng.link = none → s.hart.who.dispatch = false →
      ∃ t, exec (.scond d a b) s = .next t ∧ supervised s t 0x4B)
    ∧ (vecReady s ty (gathOpds s wd wa true false ty) → s.hart.vec.vstart < count wd → s.hart.eng.link ≠ none →
      (∀ k, k < count wd → performed s wd k → tagPlace s (s.hart.vpath s) (va k) n = .ok (loc k)) →
      (∀ k, stores k → placeOf s (s.hart.vpath s) (va k) n .store .fifoOnly = .ok (loc k) ∧ plainPlace s (loc k)) →
      retires (exec (.scond d a b) s) u fun t =>
        (∀ j, j < 1024 → (rm t 0).getLsbD j = if count wd ≤ j then false
          else if performed s wd j then holdsTag u (locLine (loc j)) && !locRemote (loc j) else (rm s 0).getLsbD j)
        ∧ (∀ k, stores k → (∀ j, k < j → stores j → locKey (loc j) ≠ locKey (loc k)) →
            locBytes t (loc k) n = toStore u (va k) n (srcElem s wd k))
        ∧ keptOutside u t n (fun l => ∃ k, stores k ∧ loc k = l)
        ∧ t.hart.eng.link = none ∧ (∀ q, q ≠ 0 → rm t q = rm s q) ∧ t.others.map unlinked = u.others.map unlinked
        ∧ settled u t = { u with mem := t.mem, banks := t.banks, others := t.others, hart := { u.hart with
            vec := { s.hart.vec with m := t.hart.vec.m, vstart := 0 }
            eng := { u.hart.eng with link := none, streams := t.hart.eng.streams } } })

/-- R216, R262: SCATADD forms one partial for each address, in ascending order of its elements, issues one bank add for each,
and completes; memory changes only when the adds perform. -/
def Obligations.ScatterAdds : Prop :=
  ∀ (s : State) (ty : Ty) (d a : BitVec 6) (b : BitVec 5) (loc : Nat → Loc),
    let wd := winOp s d 0
    let wa := winOp s a 1
    let ks := (List.range (count wd)).filter fun k => decide (s.hart.vec.vstart ≤ k) && guardOn s (k % neff wd)
      && !(decide (k < s.hart.vec.vstart + 1024) && s.hart.vec.cmask.getLsbD (k - s.hart.vec.vstart))
    isAddTy ty = true → vecReady s ty (gathOpds s wd wa true false ty) → stageOff s = false →
    (∀ k ∈ ks, placeOf s { s.hart.vpath s with remote := some true, post := none } (gathAddr s (rx s b) wa k) (ty.width / 8) .store .fifoOnly
      = .ok (loc k)) →
    retires (exec (.scatadd d a b) s) s fun t =>
      (∃ new, t.hart.eng.adds = s.hart.eng.adds ++ new ∧ (new.map (·.pa)).Nodup
        ∧ (∀ k ∈ ks, ∃ x ∈ new, x.pa = locKey (loc k))
        ∧ (∀ x ∈ new, x.cmd = none ∧ x.ty = fld s.hart.vec.vmode 0 8
          ∧ ∃ k rest, ks.filter (fun j => locKey (loc j) == x.pa) = k :: rest ∧ x.va = gathAddr s (rx s b) wa k
            ∧ x.part = rest.foldl (fun v j => bankSum ty v (srcElem s wd j)) (srcElem s wd k))
        ∧ settled s t = { s with nextId := s.nextId + new.length, hart := { s.hart with
            vec := { s.hart.vec with cmask := 0, vstart := 0 }
            eng := { s.hart.eng with adds := t.hart.eng.adds, streams := t.hart.eng.streams } } })

/-- R218, R219: AMO reads and writes its place as one, and X[d] takes the old value; the operations' new values (raw values of
storage under conversion are free, log 22). FADD ORs its flags into FCSR. With ACQ, the hart's later engine commands see memory
as it is from then on.

R220: VWAIT whose condition holds completes with the value in X[d]; else the hart is parked. Either sees the scalar stores before
it. -/
def Obligations.AtomicResults : Prop :=
  (∀ (s : State) (e n q r : BitVec 1) (p : BitVec 4) (d a b : BitVec 5) (l : Loc),
    let u := syncScalar s
    let w := if e = 1#1 then 64 else 32
    let m := loaded u (rx s a).toNat (w / 8) l
    let v := (rx s b).toNat % 2 ^ w
    let sum := amoFadd (if e = 1#1 then fmtF64 else fmtF32) (policyOf s.hart.fcsr) m v
    let new : Option Nat :=
      match p.toNat with
      | 0 => some ((m + v) % 2 ^ w)
      | 1 => some (m &&& v)
      | 2 => some (m ||| v)
      | 3 => some (m ^^^ v)
      | 4 => some (if intOf (n == 0#1) w v < intOf (n == 0#1) w m then v else m)
      | 5 => some (if intOf (n == 0#1) w m < intOf (n == 0#1) w v then v else m)
      | 6 => some v
      | 7 => some sum.1
      | _ => if m = (rx s d).toNat % 2 ^ w then some v else none
    p.toNat ≤ 8 → memOk s → banksOk s → fenced s clsS = false → (r = 1#1 → enginesBusy s.hart = false) →
    placeOf u (u.hart.path u) (rx s a).toNat (w / 8) .load .devFifo = .ok l →
    placeOf u (u.hart.path u) (rx s a).toNat (w / 8) .store .devFifo = .ok l → locPoisoned u l = false →
    (∀ x, new = some x → takesStore u l (toStore u (rx s a).toNat (w / 8) x)) →
    retires (exec (.amo d a b e n q r p) s) u fun t =>
      wroteX u t d (BitVec.ofNat 64 m)
      ∧ (∀ x, new = some x → stored u t l (toStore u (rx s a).toNat (w / 8) x)) ∧ (new = none → t.mem = u.mem ∧ t.banks = u.banks)
      ∧ t.hart.fcsr = (if p.toNat = 7 then s.hart.fcsr ||| BitVec.ofNat 64 (sum.2.toNat % 32) else s.hart.fcsr)
      ∧ t.others.map unlinked = u.others.map unlinked
      ∧ settled u t = { u with mem := t.mem, banks := t.banks, others := t.others, hart := { u.hart with
          x := t.hart.x, fcsr := t.hart.fcsr
          weak := if q = 1#1 then { u.hart.weak with viewE := [] } else u.hart.weak
          eng := { u.hart.eng with link := t.hart.eng.link } } })
  ∧ (∀ (s : State) (d a b : BitVec 5) (e : BitVec 1) (c : BitVec 3) (l : Loc),
    let u := syncScalar s
    let w := if e = 1#1 then 64 else 32
    let m := loaded u (rx s a).toNat (w / 8) l
    let v := (rx s b).toNat % 2 ^ w
    let holds : Prop :=
      match c.toNat with
      | 0 => m = v
      | 1 => m ≠ v
      | 2 => intOf true w m < intOf true w v
      | 3 => intOf true w v ≤ intOf true w m
      | 4 => m < v
      | 5 => v ≤ m
      | _ => m &&& v ≠ 0
    fenced s clsS = false → placeOf u (u.hart.path u) (rx s a).toNat (w / 8) .load .devFifo = .ok l → locPoisoned u l = false →
    (holds → givesX (exec (.vwait d a b e c) s) u d (BitVec.ofNat 64 m))
    ∧ (¬holds → exec (.vwait d a b e c) s = .next (waitOn u .vwait)))

/-- R218, R219: VAMO and VAMO.ORD perform one read-modify-write for every pending element, VAMO.ORD in ascending order and VAMO in
some serial order: each element of the window takes the value that its place then held, each place ends with the last new value,
and no other byte changes. FADD ORs its flags into VFLAGS. -/
def Obligations.VectorAtomics : Prop :=
  ∀ (s : State) (ty : Ty) (d a : BitVec 6) (b : BitVec 5) (q r : BitVec 1) (p : BitVec 4) (loc : Nat → Loc) (ord : Bool) (i : Instr),
    (i = .vamo d a b q r p ∧ ord = false) ∨ (i = .vamoOrd d a b q r p ∧ ord = true) →
    let u := acquire (q == 1#1) (dropView (drain s true))
    let wd := winOp s d 0
    let wa := winOp s a 1
    let n := ty.width / 8
    let va (k : Nat) : Nat := gathAddr s (rx s b) wa k
    let v (k : Nat) : Nat := srcElem s wd k
    let todo : List Nat := (List.range (count wd)).filter fun k => decide (pending s wd (!ord) k)
    let new (m x : Nat) : Nat :=
      match ty with
      | .int sg w =>
        (match p.toNat with
        | 0 => (m + x) % 2 ^ w
        | 1 => m &&& x
        | 2 => m ||| x
        | 3 => m ^^^ x
        | 4 => if intOf sg w x < intOf sg w m then x else m
        | 5 => if intOf sg w m < intOf sg w x then x else m
        | _ => x)
      | .flt f => if p.toNat = 7 then (amoFadd f (policyOf s.hart.vec.vmode) m x).1 else x
    let raw (k x : Nat) : Nat := rawValue u (identSpace u u.hart.who).asid (va k) n x
    -- what the place of element k holds once the elements `js` have been performed on it
    let after (js : List Nat) (k : Nat) : Nat :=
      (js.filter fun j => locKey (loc j) == locKey (loc k)).foldl (fun m j => raw j (new (raw j m) (v j)) % 2 ^ (8 * n))
        (natOfBytes (locBytes u (loc k) n))
    galleysOk s → memOk s → banksOk s → isAmoTy p.toNat ty = true → vecReady s ty (gathOpds s wd wa true true ty) →
    stageOff s = false → fenced s clsV = false → (r = 1#1 → enginesBusy s.hart = false) →
    (∀ k ∈ todo, locPoisoned u (loc k) = false ∧ plainPlace u (loc k)
      ∧ placeOf s (s.hart.vpath s) (va k) n .load .devFifo = .ok (loc k) ∧ placeOf s (s.hart.vpath s) (va k) n .store .devFifo = .ok (loc k)) →
    ∃ order : List Nat, order.Perm todo ∧ (ord = true → order = todo) ∧
      let old (k : Nat) : Nat := raw k (after (order.takeWhile (· ≠ k)) k)
      retires (exec i s) u fun t =>
        (∀ k, k < count wd → readElem t wd k = if k ∈ todo then old k % 2 ^ wEw wd.desc else readElem s wd k)
        ∧ (∀ k ∈ todo, locBytes t (loc k) n = bytesOfNat n (after order k))
        ∧ keptOutside u t n (fun l => ∃ k ∈ todo, loc k = l)
        ∧ (∀ x, x < 9 → (t.hart.vec.vflags.getLsbD x = true ↔ s.hart.vec.vflags.getLsbD x = true
            ∨ ∃ k ∈ todo, ∃ f, ty = .flt f ∧ p.toNat = 7 ∧ (amoFadd f (policyOf s.hart.vec.vmode) (old k) (v k)).2.getLsbD x = true))
        ∧ galleyKept s t (spansOf wd (count wd)) ∧ t.others.map unlinked = u.others.map unlinked
        ∧ settled u t = { u with mem := t.mem, banks := t.banks, others := t.others, hart := { u.hart with
            vec := { s.hart.vec with galley := t.hart.vec.galley, vflags := t.hart.vec.vflags, vstart := 0
                                     cmask := if ord then s.hart.vec.cmask else 0 }
            eng := { u.hart.eng with streams := t.hart.eng.streams, link := t.hart.eng.link } } }

/-- R221 to R223: STRM and STRMX bind a window to a walk, with the counter up by one: STRM to the raster from its start to the end of
the extents, STRMX to its block's start, counts and step vectors. A window that was bound is unbound first. STRMX of X0 unbinds; PREF has no
architectural effect. -/
def Obligations.StreamBindings : Prop :=
  ∀ (s : State) (h c : BitVec 4) (a b : BitVec 5) (w : BitVec 6) (l1 : BitVec 1) (l2 : BitVec 2) (ty : Ty) (g : Handle),
    let d := winOp s w 0
    let was := boundTo s w.toNat
    let down (k : Nat) : BitVec 16 := if was.any (·.ctr == k) then (rc s k).count - 1 else (rc s k).count
    let left : List Stream := match was with | some y => s.hart.eng.streams.filter (fun z => z.id ≠ y.id) | none => s.hart.eng.streams
    let counters (t : State) (up : Nat → Bool) : Prop := ∀ k, k < 16 →
      (rc t k).count = (if up k then down k + 1 else down k) ∧ { rc t k with count := 0 } = { rc s k with count := 0 }
    let bound (o : Out) (u : State) (i : Instr) (raster : Bool) (start counts : List Nat) (steps : List Int) : Prop := retires o u fun t =>
      (∃ x, t.hart.eng.streams = left ++ [x] ∧ x.win = w.toNat ∧ x.op = i ∧ x.ctr = c.toNat ∧ x.h = g ∧ x.vmode = s.hart.vec.vmode
        ∧ x.raster = raster ∧ x.start = start ∧ x.counts = counts ∧ x.steps = steps ∧ x.pos = 0 ∧ x.buf = [] ∧ x.faulted = false)
      ∧ counters t (fun k => k == c.toNat)
      ∧ settled u t = { u with nextId := u.nextId + 1, hart := { u.hart with c := t.hart.c, eng := { u.hart.eng with streams := t.hart.eng.streams } } }
    let ready : Prop := modeIll s.hart.vec.vmode = false ∧ modeTy s.hart.vec.vmode = some ty ∧ winFits s d = true ∧ wEw d.desc = ty.width
      ∧ isPair d = false ∧ (was = none → s.hart.eng.streams.length < 4) ∧ rh s h.toNat = g ∧ g.isA kindTensor = true
      ∧ cmdStalls s c.toNat = false
    let st := [(rx s a).toNat % 2 ^ 32, (rx s a).toNat / 2 ^ 32, (rx s b).toNat % 2 ^ 32, (rx s b).toNat / 2 ^ 32]
    (ready → bound (exec (.strm h c a b w) s) s (.strm h c a b w) true st [rasterPoints g st] [])
    ∧ (∀ ws, ready → blockRead s a 8 ws →
        let v := natOfWords ws
        let field (off n : Nat) : Nat := v / 2 ^ (8 * off) % 2 ^ n
        field 28 32 = 0 → field 56 64 = 0 → field 16 32 ≠ 0 → field 20 32 ≠ 0 → field 24 32 ≠ 0 →
        bound (exec (.strmx h c a w) s) (syncScalar s) (.strmx h c a w) false
          [field 0 32, field 4 32, field 8 32, field 12 32] [field 16 32, field 20 32, field 24 32]
          ((List.range 12).map fun j => (BitVec.ofNat 16 (field (32 + 2 * j) 16)).toInt))
    ∧ (modeIll s.hart.vec.vmode = false → retires (exec (.strmxUnbind w) s) s fun t =>
        t.hart.eng.streams = left ∧ counters t (fun _ => false)
        ∧ settled s t = { s with hart := { s.hart with c := t.hart.c, eng := { s.hart.eng with streams := t.hart.eng.streams } } })
    ∧ retires (exec (.pref a b l1 l2) s) s (fun t => settled s t = s)

/-! ## Engine commands, counters, fences, launches -/

/-- R227, R234 to R248: the engine instructions issue their command with what they capture, a block being read after the scalar
stores before it; RELAY sets its handle, writes the sheet map's header and records the conversion; a second COLL of one GROUP and
SEQ on the module is issued and faults, and so does one issued while the module freezes (R377). That a halting trap also writes
TVAL is the model's reading (log 81). -/
def Obligations.EngineCommands : Prop :=
  ∀ (s : State) (h hs c : BitVec 4) (a b : BitVec 5) (x sw o : BitVec 1) (t4 e : BitVec 4) (t2 k2 : BitVec 2) (ws : List Word),
    let u := syncScalar s
    let co := [(rx s a).toNat % 2 ^ 32, (rx s a).toNat / 2 ^ 32, (rx s b).toNat % 2 ^ 32, (rx s b).toNat / 2 ^ 32]
    let tensors : Prop := (rh s h.toNat).isA kindTensor = true ∧ (rh s hs.toNat).isA kindTensor = true
      ∧ (∀ d, d < 4 → co.getD d 0 + (rh s hs.toNat).ext d ≤ (rh s h.toNat).ext d)
    let pair (q : Cmd) : Prop := q.h = rh s h.toNat ∧ q.hs = rh s hs.toNat ∧ q.c = co
    let block (n : Nat) (q : Cmd) : Prop := q.block = bytesOfNat (8 * n) (natOfWords ws) ∧ q.addr = rx s a
    let v := natOfWords ws
    let key := (v / 2 ^ 192 % 2 ^ 32, v / 2 ^ 224 % 2 ^ 32)
    let turnedAway (i : Instr) : Prop := s.hart.who.dispatch = false → ∃ t, exec i s = .next t ∧ supervised u t 0x47 ∧ t.hart.trap.tval = rx s a
    cmdStalls s c.toNat = false →
    (tensors → (rh s h.toNat).esz = (rh s hs.toNat).esz → issues (exec (.copy h c a b hs) s) s (.copy h c a b hs) c pair)
    ∧ (tensors → issues (exec (.qcopy h c a b x hs) s) s (.qcopy h c a b x hs) c pair)
    ∧ (blockRead s a 8 ws → copyBlockBad v = false → issues (exec (.copyBlock c a) s) u (.copyBlock c a) c (block 8))
    ∧ (blockRead s a 8 ws → qcopyBlockBad v = false → issues (exec (.qcopyBlock c a) s) u (.qcopyBlock c a) c (block 8))
    ∧ (blockRead s a 16 ws → encfBad v = false → issues (exec (.encf c a e) s) u (.encf c a e) c (block 16))
    ∧ (blockRead s a 8 ws → collBad k2 v = false → key ∉ s.colls → s.hub.snap = 0 →
        retires (exec (.coll c a sw t2 o k2) s) u fun t => issuedCmd u t (.coll c a sw t2 o k2) c (block 8)
          ∧ t.colls = s.colls ++ [key] ∧ t.mem = u.mem ∧ t.hart.x = s.hart.x)
    ∧ (blockRead s a 8 ws → collBad k2 v = false → key ∈ s.colls ∨ s.hub.snap ≠ 0 →
        (∀ q ∈ s.hart.eng.cmds, q.id ≠ s.nextId) →
        retires (exec (.coll c a sw t2 o k2) s) u fun t => (rc t c.toNat).poison = true ∧ (rc t c.toNat).count = (rc s c.toNat).count
          ∧ t.hart.eng.cmds = s.hart.eng.cmds ∧ t.colls = (if key ∈ s.colls then s.colls else s.colls ++ [key]) ∧ t.hart.x = s.hart.x)
    ∧ (∀ m, relayBad (rh s h.toNat) t4.toNat (rx s a).toNat (rx s b).toNat = false →
        let g := relayHandle (rh s h.toNat) t4.toNat (rx s a).toNat (rx s b).toNat
        writeMap s g.smap (sheetHeader (rh s h.toNat).ld (sheetCount g g.newLayout)) = .ok m →
        retires (exec (.relay h c a b t4) s) s fun t => issuedCmd s t (.relay h c a b t4) c (fun q => q.h = g)
          ∧ rh t h.toNat = g ∧ (∀ k, k ≠ h.toNat → rh t k = rh s k) ∧ t.mem = m.mem ∧ t.banks = m.banks
          ∧ ∃ r, t.relays = r :: s.relays ∧ r.h = g ∧ r.oldLd = (rh s h.toNat).ld ∧ r.cmd = s.nextId
            ∧ r.sheets = List.replicate (sheetCount g g.newLayout) 0 ∧ r.failed = none ∧ r.dead = false)
    ∧ (blockRead s a 8 ws → (copyBlockBad v = true → turnedAway (.copyBlock c a)) ∧ (qcopyBlockBad v = true → turnedAway (.qcopyBlock c a))
        ∧ (collBad k2 v = true → turnedAway (.coll c a sw t2 o k2)))
    ∧ (blockRead s a 16 ws → encfBad v = true → turnedAway (.encf c a e))

/-- R229 to R233: CWAIT completes below its limit, traps with COUNTER_POISON on a poisoned counter, but for a tolerant one,
and on a pending errata state, and else parks the hart; CREAD reads a counter, and CREAD.CLR also clears its poison. A
load behind a CWAIT that completes reads memory as it is by then (log 118). That a halting trap also writes TVAL is the model's
reading (log 81). -/
def Obligations.CounterInstructions : Prop :=
  ∀ (s : State) (c : BitVec 4) (k : BitVec 6) (a : BitVec 5),
    let x := rc s c.toNat
    let word : Word := (if x.poison then 0x8000000000000000#64 else 0#64) ||| BitVec.ofNat 64 x.count.toNat
    let u := dropStreams s
    let wait (o : Out) (lim : Nat) (tol : Bool) : Prop :=
      (s.hart.eng.errPend = none →
        (x.count.toNat < max 1 lim → x.poison = false ∨ tol = true → retires o u fun t => settled u t = u)
        ∧ (x.poison = true → tol = true → retires o u fun t => settled u t = u)
        ∧ (x.poison = true → tol = false → s.hart.who.dispatch = false → ∃ t, o = .next t ∧ supervised s t 0xA0 ∧ t.hart.trap.tval = x.first)
        ∧ (x.poison = false → max 1 lim ≤ x.count.toNat → o = .next (waitOn s .cwait)))
      ∧ (∀ e, s.hart.eng.errPend = some e → s.hart.who.dispatch = false → ∃ t, o = .next t ∧ supervised s t 0xA0 ∧ t.hart.trap.tval = e)
    wait (exec (.cwait c k) s) k.toNat false
    ∧ wait (exec (.cwaitX c a) s) ((rx s a).toNat % 65536) ((rx s a).getLsbD 63)
    ∧ givesX (exec (.cread c a) s) s a word
    ∧ retires (exec (.creadClr c a) s) s (fun t => wroteX s t a word ∧ rc t c.toNat = { x with poison := false }
        ∧ (∀ n, n ≠ c.toNat → rc t n = rc s n) ∧ settled s t = { s with hart := { s.hart with x := t.hart.x, c := t.hart.c } })

/-- R99, R251, R252, R255, R257, R233, R273: SBARR arrives at a barrier, or sets it, and reads what it was; SBARW completes at its
count, or on ERR, and else parks; SBIND binds a barrier; FENCEX binds what is outstanding, and with either mask zero orders nothing and
only completes; VFENCE and BARA complete; BARW
and BAR complete once every other participant has arrived as often, and else park. The hart's stores before an SBARR, BARA or
BAR have performed then, its vector stores before a VFENCE, and before a FENCEX those of the streams that it names first; an access
behind a wait, and one of a class that a FENCEX names second, sees memory as it is by then (logs 117, 118).

That a halting trap also writes TVAL is the model's reading (log 81). -/
def Obligations.FencesAndBarriers : Prop :=
  ∀ (s : State) (d a : BitVec 5) (n : BitVec 6) (c : BitVec 4) (fb fa : BitVec 8) (sc : BitVec 3),
    let serial := s.hart.who.serial
    let b := sbGet s serial n.toNat
    let word : Word := (if b.2 then 0x8000000000000000#64 else 0#64) ||| BitVec.ofNat 64 b.1.toNat
    let all := drainAll s
    let seen := dropStreams s
    let arrivedOnce (t : State) : Prop := arrivals t.hart sc.toNat = arrivals s.hart sc.toNat + 1
      ∧ (∀ q, q < 6 → q ≠ sc.toNat → arrivals t.hart q = arrivals s.hart q)
    let open_ (m : Nat) : Prop := ∀ v ∈ s.others, takesPart s sc.toNat s.hart.who v = true → hartOver v = true ∨ m ≤ arrivals v sc.toNat
    let out : List Nat := outstandingOf s.hart fb
    galleysOk s →
    (∀ l, launchAt s serial = some l → retires (exec (.sbarr d a n) s) all fun t => wroteX all t d word
      ∧ sbGet t serial n.toNat = (if (rx s a).getLsbD 63 then ((rx s a).setWidth 32, false) else (b.1 + (rx s a).setWidth 32, b.2))
      ∧ (∀ m, m ≠ n.toNat → sbGet t serial m = sbGet s serial m)
      ∧ settled all t = { all with sched := { s.sched with launches := t.sched.launches }, hart := { all.hart with x := t.hart.x } })
    ∧ ((rx s a).toNat % 2 ^ 32 ≤ b.1.toNat ∨ b.2 = true → givesX (exec (.sbarw d a n) s) seen d word)
    ∧ (b.1.toNat < (rx s a).toNat % 2 ^ 32 → b.2 = false → exec (.sbarw d a n) s = .next (waitOn s .sbarw))
    ∧ retires (exec (.sbind c n) s) s (fun t => boundBarrier t c.toNat = some n.toNat ∧ (∀ k, k ≠ c.toNat → boundBarrier t k = boundBarrier s k)
        ∧ settled s t = { s with hart := { s.hart with eng := { s.hart.eng with sbind := t.hart.eng.sbind } } })
    ∧ (s.hart.eng.errPend = none →
      (fb = 0#8 ∨ fa = 0#8 → retires (exec (.fencex fb fa) s) s fun t => settled s t = s)
      ∧ (let u := dropViews fa (drainOf fb s)
       fb ≠ 0#8 → fa ≠ 0#8 → retires (exec (.fencex fb fa) s) u fun t =>
        (out = [] → settled u t = u)
        ∧ (out ≠ [] → ({ before := out, after := fa } : Fence) ∈ t.hart.eng.fences)
        ∧ (fb.getLsbD 0 = true → t.hart.weak.postS = []) ∧ (fb.getLsbD 1 = true → t.hart.weak.postV = [])
        ∧ (fa.getLsbD 0 = true → t.hart.weak.viewS = none) ∧ (fa.getLsbD 1 = true → t.hart.weak.viewV = none)
        ∧ (∀ p ∈ t.hart.weak.viewE, fa.getLsbD p.1 = false)
        ∧ settled u t = { u with hart := { u.hart with eng := { s.hart.eng with fences := t.hart.eng.fences, link := u.hart.eng.link } } })
      ∧ (let u := dropStreams (drain s true)
         retires (exec (.vfence sc) s) u fun t => settled u t = u ∧ t.hart.weak.postV = [])
      ∧ (sc.toNat ≤ 5 → retires (exec (.bara sc) s) all fun t => arrivedOnce t ∧ t.hart.weak.postS = [] ∧ t.hart.weak.postV = []
        ∧ settled all t = { all with hart := { all.hart with eng := { all.hart.eng with arrived := t.hart.eng.arrived } } })
      ∧ (sc.toNat ≤ 5 → (sc.toNat = 5 → s.hart.who.podid = 0) →
        (arrivals s.hart sc.toNat = 0 ∨ open_ (arrivals s.hart sc.toNat) → retires (exec (.barw sc) s) seen fun t => settled seen t = seen)
        ∧ (arrivals s.hart sc.toNat ≠ 0 → ¬open_ (arrivals s.hart sc.toNat) → exec (.barw sc) s = .next (waitOn s .barw))
        ∧ (open_ (arrivals s.hart sc.toNat + 1) → retires (exec (.bar sc) s) (dropStreams all) fun t => arrivedOnce t ∧ t.hart.eng.barWait = none
          ∧ settled (dropStreams all) t = { dropStreams all with hart := { (dropStreams all).hart with
              eng := { all.hart.eng with arrived := t.hart.eng.arrived, barWait := none } } })
        ∧ (¬open_ (arrivals s.hart sc.toNat + 1) → ∃ t, exec (.bar sc) s = .next t ∧ t.hart.status = .waiting .barw
            ∧ t.hart.pc = s.hart.pc ∧ arrivedOnce t ∧ t.hart.eng.barWait = some sc.toNat)))
    ∧ (∀ e, s.hart.eng.errPend = some e → s.hart.who.dispatch = false →
        ∀ i ∈ [Instr.fencex fb fa, .vfence sc, .bara sc, .barw sc, .bar sc], ∃ t, exec i s = .next t ∧ supervised s t 0xA0 ∧ t.hart.trap.tval = e)

/-- R259 to R262: GLD writes, for every pending point, the interpolated features of every level, and ORs their flags into
VFLAGS; GSCAT issues a command and one bank add for each place that its contributions name, with the partial that they form in
their order. What GLD reads of memory is what the hart's GRD class sees (R271, log 118). -/
def Obligations.GridInstructions : Prop :=
  ∀ (s : State) (g c : BitVec 4) (d w : BitVec 6) (f : Fmt) (val : Nat → Nat → Nat × Flags) (loc : Nat → Loc),
    let h := rh s g.toNat
    let wd := winOp s d 1
    let wc := winOp s w 2
    let n := gridPoints s wd
    let ps := (List.range n).filter fun p => decide (s.hart.vec.vstart ≤ p)
      && !(decide (p < s.hart.vec.vstart + 1024) && s.hart.vec.cmask.getLsbD (p - s.hart.vec.vstart))
    let adds := ps.flatMap (gscatPoint s h f wd wc)
    let sees := classView s { s.hart.path s with quadOf := none, post := none } 6
    let raised (t : State) (more : Nat → Prop) : Prop :=
      ∀ b, b < 9 → (t.hart.vec.vflags.getLsbD b = true ↔ s.hart.vec.vflags.getLsbD b = true
        ∨ (∃ p ∈ ps, (gridCoords s h wc p).2.getLsbD b = true) ∨ more b)
    galleysOk s →
    (gridChecks s (.gld g d w) h wd wc true = .ok (.flt f) → fenced s clsGRD = false → gridHeld s [wc] [wd] = false → s.hart.strike = none →
      (∀ p ∈ ps, ∀ j, j < h.gridL * h.gridF → gridCol sees.1 sees.2 h (gridCoords s h wc p).1 f j = .ok (val p j)) →
      retires (exec (.gld g d w) s) s fun t =>
        (∀ p ∈ ps, ∀ j, j < h.gridL * h.gridF → readCell t wd.desc (cell wd p j) = (val p j).1 % 2 ^ wEw wd.desc)
        ∧ galleyKept s t ((List.range n).flatMap fun p => (List.range (h.gridL * h.gridF)).map fun j => cellSpan wd.desc (cell wd p j))
        ∧ raised t (fun b => ∃ p ∈ ps, ∃ j, j < h.gridL * h.gridF ∧ (val p j).2.getLsbD b = true)
        ∧ settled s t = { s with hart := { s.hart with
            vec := { s.hart.vec with galley := t.hart.vec.galley, vflags := t.hart.vec.vflags, vstart := 0, cmask := 0 }
            eng := { s.hart.eng with streams := t.hart.eng.streams } } })
    ∧ (gridChecks s (.gscat g d w c) h wd wc false = .ok (.flt f) → cmdStalls s c.toNat = false → gridHeld s [wd, wc] [] = false →
      (∀ k, k < adds.length → placeOf s { s.hart.enginePath s with port := false } (adds.getD k (0, 0)).1 4 .store .fifoOnly = .ok (loc k)) →
      retires (exec (.gscat g d w c) s) s fun t =>
        issuedCmd s t (.gscat g d w c) c (fun _ => True)
        ∧ (∃ new, t.hart.eng.adds = s.hart.eng.adds ++ new ∧ (new.map (·.pa)).Nodup
          ∧ (∀ k, k < adds.length → ∃ x ∈ new, x.pa = locKey (loc k))
          ∧ (∀ x ∈ new, x.cmd = some s.nextId ∧ x.ty = 0x13#8
            ∧ ∃ k rest, (List.range adds.length).filter (fun j => locKey (loc j) == x.pa) = k :: rest ∧ x.va = (adds.getD k (0, 0)).1
              ∧ x.part = rest.foldl (fun v j => bankSum (.flt fmtF32) v (adds.getD j (0, 0)).2) (adds.getD k (0, 0)).2)
          ∧ settled s t = { s with nextId := s.nextId + 1 + new.length, hart := { s.hart with
              c := t.hart.c
              vec := { s.hart.vec with vflags := t.hart.vec.vflags, cmask := 0, vstart := 0 }
              eng := { s.hart.eng with cmds := t.hart.eng.cmds, adds := t.hart.eng.adds, streams := t.hart.eng.streams, sbind := t.hart.eng.sbind } } })
        ∧ raised t (fun _ => False))

/-- R30, R31, R135, R313, R314: LAUNCH of a malformed record gives 2; of a well-formed one it enqueues the record and gives
0, or with a full store gives 1, where LAUNCH.W parks. In a dispatch hart a malformed record ends the program (R310). -/
def Obligations.LaunchInstructions : Prop :=
  ∀ (s : State) (d a : BitVec 5) (ws : List Word) (bad : Bool),
    let u := syncScalar s
    let queued (o : Out) : Prop := retires o u fun t => wroteX u t d 0
      ∧ (∃ l, t.sched.launches = s.sched.launches ++ [l] ∧ l.desc = recOf ws ∧ l.queue = s.hart.who.queue ∧ l.fn = s.hart.who.fn
        ∧ l.troot = s.hart.who.troot ∧ l.gangs = [] ∧ l.started = 0 ∧ l.gdone = 0
        ∧ (l.aborted = true ↔ (fnAt s s.hart.who.fn).reset = true ∧ ¬(s.hart.who.fn = 0 ∧ s.hub.pfPend = true))
        ∧ ∀ m ∈ s.sched.launches, m.serial ≠ l.serial)
      ∧ t.mem = u.mem ∧ t.hart.vec = s.hart.vec
    s.hart.eng.launchRec = none → blockRead s a 8 ws → recBad u (identSpace u s.hart.who) s.hart.who.fn (launchMaxClass u) ws = .ok bad →
    (bad = true → s.hart.who.dispatch = false → givesX (exec (.launch d a) s) u d 2 ∧ givesX (exec (.launchW d a) s) u d 2)
    ∧ (bad = true → s.hart.who.dispatch = true → ∃ t, exec (.launch d a) s = .next t ∧ t.hart.status = .halted
        ∧ queueAt t s.hart.who.queue = { queueAt s s.hart.who.queue with cause := 0xA4, mberr := rx s a, err := true })
    ∧ (bad = false → s.sched.launches.length < 65536 → queued (exec (.launch d a) s) ∧ queued (exec (.launchW d a) s))
    ∧ (bad = false → 65536 ≤ s.sched.launches.length → givesX (exec (.launch d a) s) u d 1
        ∧ ∃ t, exec (.launchW d a) s = .next t ∧ t.hart.status = .waiting .launchW ∧ t.hart.eng.launchRec = some (true, ws) ∧ t.hart.pc = s.hart.pc)

/-! ## Steps without an encoding -/

/-- R178 to R185, R189, R191 to R193, R195 to R199, R230: the head of the queue starts, and an MFETCH at the head, or right behind a started
instruction, leaves the queue; a multiply, MZERO, WTOA, AMULR or AADDR that completes changes the words of its tile that its rule
names, ATOW and ARED write their window, and each ORs its flags into VFLAGS; MSTART's and MSTOP's parts set every word to 0, and
MCLAIM's the slot's scale plane to 127; a fetch delivers a row into its cells, and ends with its counter one lower. -/
def Obligations.MatrixEvents : Prop :=
  ∀ (s t : State) (hid : Nat) (e e2 : MEntry) (rest : List MEntry) (f : Nat) (k : Fetch),
    focus s hid = some t → galleysOk t →
    let word (u : State) (tile r c : Nat) : Nat := accGet u e.mvl tile r c
    let L := mvlLen e.mvl
    let starts (P : State → Prop) : Prop := ∃ u, exec (.matrixQueueStart hid) s = .next u ∧ u.mem = t.mem ∧ u.hart.x = t.hart.x ∧ P u
    let completed (fl : Nat → Prop) (P : State → Prop) : Prop := ∃ u, exec (.matrixInstructionComplete hid) s = .next u ∧ u.hart.mat.mq = rest
      ∧ u.hart.x = t.hart.x ∧ u.hart.pc = t.hart.pc ∧ u.mem = t.mem ∧ P u
      ∧ ∀ b, b < 9 → (u.hart.vec.vflags.getLsbD b = true ↔ t.hart.vec.vflags.getLsbD b = true
          ∨ ((0x11D#9).getLsbD b = true ∧ ((hasLoop e = true ∧ e.flags.getLsbD b = true) ∨ fl b)))
    (t.hart.mat.mq = e :: rest → queueRuns t.hart = true → e.started = false → counted e = true → isFetch e = false →
      exec (.matrixQueueStart hid) s = .next { t with hart := { t.hart with mat := { t.hart.mat with mq := { e with started := true } :: rest } } })
    ∧ (t.hart.mat.mq = e :: rest → queueRuns t.hart = true → e.started = false → isFetch e = true → starts fun u =>
        u.hart.mat.mq = rest ∧ ∀ g ∈ u.hart.mat.fetches, g.id = e.fetch → g.inQueue = false)
    ∧ (t.hart.mat.mq = e :: e2 :: rest → queueRuns t.hart = true → e.started = true → isFetch e2 = true → starts fun u =>
        u.hart.mat.mq = e :: rest ∧ ∀ g ∈ u.hart.mat.fetches, g.id = e2.fetch → g.inQueue = false)
    ∧ (t.hart.mat.mq = e :: rest → queueRuns t.hart = true → e.started = false → counted e = false → isFetch e = false → entryReady t e = true →
        starts fun u => u.hart.mat.mq = rest
          ∧ ((e.op = .mstop ∨ ∃ d a, e.op = .mstart d a) → ∀ tile r c, word u tile r c = 0)
          ∧ (∀ a, e.op = .mclaim a →
              let slot := e.bytes.headD 0
              let row := slot / mvlSpb e.mvl * L / 16
              let col := slot % mvlSpb e.mvl * L
              ∀ q c, tabGet 127#8 u.hart.mat.plane (q * 1024 + c) =
                if row ≤ q ∧ q < row + L / 16 ∧ col ≤ c ∧ c < col + L ∧ c < 1024 then 127#8
                else if c < 1024 then tabGet 127#8 t.hart.mat.plane (q * 1024 + c) else tabGet 127#8 u.hart.mat.plane (q * 1024 + c)))
    ∧ (t.hart.mat.mq = e :: rest → t.hart.who.resident = true → e.started = true → entryReady t e = true →
      (∀ tile new, tileSpec t e = some (tile, new) → (∀ r c v, new r c = some v → r < L → c < L → v.1 < 2 ^ 32) →
        (∀ r c v, new r c = some v → e.op ≠ .mzero (BitVec.ofNat 4 tile) → r < L ∧ c < L) →
        completed (fun b => ∃ r c v, r < L ∧ c < L ∧ new r c = some v ∧ v.2.getLsbD b = true) fun u =>
          (∀ r c, r < L → c < L → word u tile r c = match new r c with | some v => v.1 | none => word t tile r c)
          ∧ (∀ q r c, q ≠ tile → r < L → c < L → word u q r c = word t q r c)
          ∧ u.hart.vec.galley = t.hart.vec.galley)
      ∧ (∀ out, tileOut t e = some out →
        fits t.hart.who.grows (grbOf t.hart.who.shape) { cur := e.rcur, lo := e.rlo, hi := e.rhi } e.wa = true → isRect e.wa || wKind e.wa == kindRow || wKind e.wa == kindCol →
        (∀ tile d q, e.op = .ared tile d q → wKind e.wa = kindCol) →
        completed (fun b => ∃ o i, o < outerOf e.wa ∧ i < innerOf e.wa ∧ (out o i).2.getLsbD b = true) fun u =>
          (∀ o i, o < outerOf e.wa → i < innerOf e.wa →
            readCell u e.wa (cell (entryWin e e.wa) o i) = (out o i).1 % 2 ^ wEw e.wa)
          ∧ galleyKept t u ((List.range (outerOf e.wa)).flatMap fun o => (List.range (innerOf e.wa)).map fun i => cellSpan e.wa (cell (entryWin e e.wa) o i))
          ∧ u.hart.mat.acc = t.hart.mat.acc))
    ∧ (∀ val : Nat → Nat × Nat × Flags,
        let sees := engineView t clsMAT
        fetchAt t f = some k → rowMayGo t k = true → k.faulted = false →
        fits t.hart.who.grows (grbOf t.hart.who.shape) { cur := k.rcur, lo := k.rlo, hi := k.rhi } k.win = true →
        (∀ i, i < innerOf k.win → pageBlockTest sees.1 sees.2 k (fetchTy k) k.row i = .ok ()
          ∧ fetchElem sees.1 sees.2 k (fetchTy k) k.row i (Config.freeWord (t.freeIdx + i)).toNat = .ok (val i)) →
        ∃ u, exec (.mfetchRowValid hid f) s = .next u
          ∧ (∀ i, i < innerOf k.win → readCell u k.win (cell (fetchWin k) k.row i) = (val i).1 % 2 ^ wEw k.win)
          ∧ (∃ g, fetchAt u f = some g ∧ g.row = k.row + 1 ∧ g.faulted = false) ∧ u.mem = t.mem ∧ u.hart.x = t.hart.x ∧ u.hart.c = t.hart.c)
    ∧ (fetchAt t f = some k → k.inQueue = false → outerOf k.win ≤ k.row → k.ctr < 16 →
        ∃ u, exec (.mfetchComplete hid f) s = .next u ∧ u.hart.mat.fetches = t.hart.mat.fetches.filter (fun g => g.id ≠ k.id)
          ∧ (rc u k.ctr).count = (rc t k.ctr).count - 1 ∧ (∀ n, n ≠ k.ctr → rc u n = rc t n) ∧ u.mem = t.mem
          ∧ u.hart.vec.vflags = t.hart.vec.vflags ||| (k.flags &&& 0x11D#9))

/-- R216, R222, R228, R230, R235, R236, R238 to R243, R246, R247, R250, R253, R262, R279: engines. A copy writes its next unit of
4 KiB, byte by byte as its form says, read through its class's view (R271), and a bound command arrives; a command whose work is
done leaves the queue and its counter goes down; a collective delivers the reduction of what its participants contributed, before
its time-out; a fault poisons the counter; bank adds, refills and the sheets of a conversion. -/
def Obligations.EngineEvents : Prop :=
  ∀ (s t u : State) (hid c w : Nat) (k : Cmd),
    focus s hid = some t → memOk t →
    let p := t.hart.enginePath t
    let cpy := engineView t clsCPY
    let col := engineView t clsCOL
    let enc := engineView t clsENC
    (cmdAt t c = some k → depsDone t k.deps = true →
      (isCopy k = true → copyFinished t k = .ok false → copyUnit t k = .ok u →
        ∃ v, exec (.copyUnitArrival hid c) s = .next v ∧ v.mem = u.mem ∧ v.banks = u.banks ∧ v.hart.c = t.hart.c
          ∧ v.hart.eng.cmds = t.hart.eng.cmds.map fun x => if x.id = k.id then { x with units := x.units + 1 } else x)
      ∧ (∀ total per item ws, isCopy k = true → copyFinished t k = .ok false → copySpec cpy.1 cpy.2 k = some (total, per, item) →
          itemsGive item (k.units * per) (min total ((k.units + 1) * per) - k.units * per) ws → plainTargets t p ws →
          ∃ v, exec (.copyUnitArrival hid c) s = .next v ∧ engineWrote t v p ws
            ∧ ∀ n l, launchAt t t.hart.who.serial = some l → tabWf (0#32, false) l.sbs = true →
              sbGet v t.hart.who.serial n = if k.sb = some n then ((sbGet t t.hart.who.serial n).1 + 1, (sbGet t t.hart.who.serial n).2)
                else sbGet t t.hart.who.serial n)
      ∧ (∀ cause a, isCopy k = true → copyFinished t k = .ok false → copyUnit t k = .trap cause a →
          ∃ v, exec (.copyUnitArrival hid c) s = .next v ∧ poisoned t v k.ctr ∧ v.hart.eng.cmds = t.hart.eng.cmds.filter (fun x => x.id ≠ k.id))
      ∧ (isCopy k = true → copyFinished t k = .ok true → ∃ v, exec (.engineCommandEnd hid c) s = .next v ∧ cmdGone t v k ∧ v.mem = t.mem)
      ∧ (∀ h q a b y, k.op = .relay h q a b y → relayDone t k = true →
          ∃ v, exec (.engineCommandEnd hid c) s = .next v ∧ cmdGone t v k ∧ v.mem = t.mem)
      ∧ (∀ kind max ty parts ps, collForm k.op = some (kind, max, ty) → collComplete k.blk kind parts = true → collLate t k = false → linkUp t = true →
          collParts col.1 col.2 k.blk kind (ty.width / 8) parts = .ok ps →
          let ws := rawWrs t p ((collResult k.blk kind ty max ps).mapIdx fun j x => elemWr (collDst k.blk + j * (ty.width / 8)) 0 ty.width x).flatten
          plainTargets t p ws → ∃ v, exec (.collDelivery hid c parts) s = .next v ∧ cmdGone t v k ∧ engineWrote t v p ws)
      ∧ (∀ q a e bs, k.op = .encf q a e → k.units < encfBands (encfBlock k) → encfSbv (encfBlock k) = false →
          bandBytes enc.1 enc.2 (encfBlock k) k.units = .ok bs →
          ∃ v, exec (.encfBandRead hid c) s = .next v ∧ v.mem = t.mem
            ∧ v.hart.eng.cmds = t.hart.eng.cmds.map fun x => if x.id = k.id then { x with units := x.units + 1, block := x.block ++ bs } else x)
      ∧ (∀ q a e rf, k.op = .encf q a e → encfBands (encfBlock k) ≤ k.units → encfRef enc.1 enc.2 (encfBlock k) = .ok rf →
          let ws := rawWrs t p (encfWrites e.toNat (encfBlock k) (k.block.take 128) (k.block.drop 128 ++ rf))
          plainTargets t p ws → ∃ v, exec (.engineCommandEnd hid c) s = .next v ∧ cmdGone t v k ∧ engineWrote t v p ws))
    ∧ (cmdAt t c = some k → (collForm k.op).isSome = true → collLate t k = true → k.ctr < 16 →
        ∃ v, exec (.collTimeout hid c) s = .next v ∧ poisoned t v k.ctr ∧ v.hart.eng.cmds = t.hart.eng.cmds.filter (fun x => x.id ≠ k.id)
          ∧ (rc v k.ctr).count = (rc t k.ctr).count - 1)
    ∧ (∀ (cause : BitVec 8) (addr : Word), cmdAt t c = some k → isCopy k = true → engineCause cause = true → k.ctr < 16 →
        ∃ v, exec (.engineCommandFault hid c cause addr) s = .next v ∧ poisoned t v k.ctr
          ∧ v.hart.eng.cmds = t.hart.eng.cmds.filter (fun x => x.id ≠ k.id) ∧ (rc v k.ctr).count = (rc t k.ctr).count - 1)
    ∧ (∀ x ty a lf lg, t.hart.eng.adds.find? (·.id == c) = some x → depsDone t x.deps = true → tyOfCode x.ty = some ty →
        keyLoc x.pa = .pa a lf lg → locPoisoned t (.pa a lf lg) = false → (paRemote x.pa = true → linkUp t = true) →
        ∃ v, exec (.bankAdd hid c) s = .next v ∧ v.hart.eng.adds = t.hart.eng.adds.filter (fun y => y.id != c)
          ∧ (∀ p, readPa v p = if a ≤ p ∧ p < a + ty.width / 8
              then (toStore t x.va (ty.width / 8) (bankSum ty (natOfBytes (cellsAt t.mem a (ty.width / 8))) x.part)).getD (p - a) 0 else readPa t p)
          ∧ v.hart.x = t.hart.x ∧ v.hart.c = t.hart.c)
    ∧ (∀ q ty q', boundTo t w = some q → modeTy q.vmode = some ty → q.faulted = false → depsDone t q.deps = true → t.hart.who.resident = true →
        refillMore cpy.1 cpy.2 ty (4 * count (winOp t (BitVec.ofNat 6 w) 0).whole - q.buf.length) q = .ok q' →
        ∃ v, exec (.streamRefill hid w) s = .next v ∧ v.hart.eng.streams = t.hart.eng.streams.map (fun y => if y.id = q'.id then q' else y)
          ∧ q.buf <+: q'.buf ∧ q'.buf.length - q.buf.length = q'.pos - q.pos ∧ v.mem = t.mem)
    ∧ (∀ r j, s.relays.find? (·.id == c) = some r → r.hid = hid → relayRuns t r = true →
        (r.failed = none → r.sheets.findIdx? (· == 0) = some j → r.sheets.countP (· == 1) < 4 → setSheet (drainHarts t) r j 1 = .ok u →
          ∃ v, exec (.sheetMoving c) s = .next v ∧ v.mem = u.mem ∧ ∃ q ∈ v.relays, q.id = c ∧ q.sheets = r.sheets.set j 1)
        ∧ (∀ ws, r.sheets.findIdx? (· == 1) = some j → itemsGive (sheetSpec t p r j) 0 (sheetPoints r.h j).length ws → plainTargets t p ws →
          ∃ u1, engineWrote t u1 p ws ∧ (setSheet u1 r j 2 = .ok u →
            ∃ v, exec (.sheetNew c) s = .next v ∧ (r.failed = none → v.mem = u.mem) ∧ ∃ q ∈ v.relays, q.id = c ∧ q.sheets = r.sheets.set j 2)))

/-- R20, R129, R130, R135, R204, R220, R231, R252, R257, R337, R340, R376: the wakes. A parked hart whose condition holds
completes its instruction, and the wakes that order it before later accesses (R273) end the streams' views; a hart that stalls performs its instruction again; SCALL is
answered into the register it named, at the instruction after it; a remote access ends, by a response over a port that is up or
by the time-out. -/
def Obligations.Wakes : Prop :=
  ∀ (s t : State) (hid : Nat) (d a b : BitVec 5) (e : BitVec 1) (c3 : BitVec 3) (c : BitVec 4) (k n : BitVec 6) (l : Loc),
    focus s hid = some t →
    let again : State := { t with hart := { t.hart with status := .running } }
    let onwards (o : Out) : Prop := retires o t fun u => settled t u = dropStreams t
    (waitsAt t .vwait (.vwait d a b e c3) → fenced t clsS = false →
      let w := if e = 1#1 then 64 else 32
      let u := syncScalar t
      let m := loaded u (rx t a).toNat (w / 8) l
      placeOf u (u.hart.path u) (rx t a).toNat (w / 8) .load .devFifo = .ok l → locPoisoned u l = false →
      vwaitHolds c3.toNat w m ((rx t b).toNat % 2 ^ w) = true → givesX (exec (.vwaitWake hid) s) u d (BitVec.ofNat 64 m))
    ∧ (waitsAt t .cwait (.cwait c k) → (rc t c.toNat).poison = false → (rc t c.toNat).count.toNat < max 1 k.toNat → onwards (exec (.cwaitWake hid) s))
    ∧ (waitsAt t .sbarw (.sbarw d a n) → (rx t a).toNat % 2 ^ 32 ≤ (sbGet t t.hart.who.serial n.toNat).1.toNat →
      retires (exec (.sbarwWake hid) s) t fun u => wroteX t u d (sbWord (sbGet t t.hart.who.serial n.toNat))
        ∧ settled t u = { dropStreams t with hart := { (dropStreams t).hart with x := u.hart.x } })
    ∧ (waitsAt t .barw (.barw c3) → barrierOpen t c3.toNat = true → onwards (exec (.barwWake hid) s))
    ∧ (∀ ws, waitsAt t .launchW (.launchW d a) → t.hart.eng.launchRec = some (true, ws) → t.sched.launches.length < 65536 →
      retires (exec (.launchWWake hid) s) t fun u => wroteX t u d 0
        ∧ ∃ q, u.sched.launches = t.sched.launches ++ [q] ∧ q.desc = recOf ws ∧ q.fn = t.hart.who.fn)
    ∧ (∀ key, active t.hart = true → t.hart.status = .waiting (.fifo key) → (bankAt t key).changing = none → exec (.fifoAccessWake hid) s = .next again)
    ∧ (active t.hart = true → t.hart.status = .waiting .stall → exec (.dispatchStallEnd hid) s = .next again)
    ∧ (active t.hart = true → t.hart.status = .waiting .migration → exec (.migrationRewalk hid) s = .next again)
    ∧ (t.hart.status = .waiting .remote → t.hart.remote = none →
      (s.time - t.hart.waitFrom < 200000000 → linkUp s = true →
        exec (.remoteAccessResponse hid) s = .next { again with hart := { again.hart with remote := some true } })
      ∧ (200000000 ≤ s.time - t.hart.waitFrom → exec (.remoteAccessResponse hid) s = .next s
        ∧ exec (.remoteTimeout hid) s = .next { again with hart := { again.hart with remote := some false } })
      ∧ (linkUp s = false → exec (.remoteAccessResponse hid) s = .next s))
    ∧ (t.hart.status = .inScall d a →
      -- a saved hart's answer goes into its image, too (R349)
      let answers (v : Word) : Prop := retires (exec (.scallAnswer hid) s) t fun u => wroteX t u d v
        ∧ settled t u = { t with images := u.images, hart := { t.hart with x := u.hart.x } }
        ∧ (t.hart.who.resident = true ∨ t.hart.who.dispatch = true → u.images = t.images)
      let bytes (n : Nat) : MRes (List Byte) := loadBytes t { t.hart.path t with remote := some true, port := true } (rx t 4).toNat n
      let leafAt := lookup t (identSpace t t.hart.who) (rx t 4).toNat
      (rx t a = 0 → answers 1) ∧ (rx t a = 2 → answers (fnAt t t.hart.who.fn).errHead) ∧ (4 ≤ (rx t a).toNat → answers (BitVec.allOnes 64))
      ∧ (rx t a = 1 →
        ((rx t 5).toNat = 0 ∨ 256 < (rx t 5).toNat → answers (BitVec.allOnes 64))
        ∧ (1 ≤ (rx t 5).toNat → (rx t 5).toNat ≤ 256 →
          (∀ c x, bytes (rx t 5).toNat = .trap c x → answers (BitVec.allOnes 64))
          ∧ (∀ w, bytes (rx t 5).toNat = .wait w → exec (.scallAnswer hid) s = .next s)
          ∧ (∀ bs, bytes (rx t 5).toNat = .ok bs → ∃ u, exec (.scallAnswer hid) s = .next u ∧ wroteX t u d 0
              ∧ u.hart.pc = t.hart.pc + 4 ∧ u.hart.status = .running
              ∧ ((fnAt t t.hart.who.fn).evHead + 1 ≠ 0 → (fnAt u t.hart.who.fn).evHead = (fnAt t t.hart.who.fn).evHead + 1)
              ∧ (let f := fnAt t t.hart.who.fn
                 6 ≤ f.evLg → f.evLg ≤ 16 → ∃ r : List Byte, r.length = 64 ∧ r.take 2 = [4, 0xC0] ∧ r.drop 16 = (bs ++ List.replicate 48 0).take 48
                  ∧ u.mem = (logStore t t.hart.who.fn (f.evBase.toNat + f.evHead.toNat % 2 ^ f.evLg * 64) r).mem))))
      ∧ (rx t a = 3 →
        (2 ^ 56 ≤ (rx t 4).toNat ∨ 0xFE ≤ (rx t 4).toNat / 2 ^ 48 → answers (BitVec.allOnes 64))
        ∧ ((rx t 4).toNat < 2 ^ 56 → (rx t 4).toNat / 2 ^ 48 < 0xFE →
          (∀ w lg, leafAt = .leaf w lg → answers (w &&& 0x3FFFF#64))
          ∧ (leafAt = .migrating → exec (.scallAnswer hid) s = .next s)
          ∧ ((∀ w lg, leafAt ≠ .leaf w lg) → leafAt ≠ .migrating → answers (BitVec.allOnes 64)))))
    ∧ (∀ pc : Word, t.hart.status = .atBreak → exec (.debuggerResume hid pc) s = .next { again with hart := { again.hart with
        pc := pc &&& 0x00FFFFFFFFFFFFFC#64, trap := { t.hart.trap with tepc := pc &&& 0x00FFFFFFFFFFFFFC#64 } } })

/-- R12, R15 to R18, R21 to R23, R310, R313, R349: a launch that is over has its completion word stored and leaves the store,
with the message it asked for; a hart asked to stop stops at a pre-emption point, its stores having performed and the lane groups
of its core that waited for that point being retired (R370), or ends if its launch was aborted; a stopped hart whose engines have
drained is saved, and its link tags are broken. -/
def Obligations.LaunchEvents : Prop :=
  ∀ (s t u : State) (serial hid : Nat) (l : Launch),
    (launchAt s serial = some l → launchOver s l = true →
      storeNat s (fnPath s l.fn) l.desc.done 8
        (l.gdone * 2 ^ 32 + (if l.desc.deadline ≠ 0 ∧ l.desc.deadline < s.time then 65536 else 0)
          + (if l.aborted then l.cause.toNat * 256 + 2 else 1)) .fifoOnly = .ok u →
      ∃ v, exec (.completionWord serial) s = .next v ∧ v.mem = u.mem
        ∧ v.sched.launches = s.sched.launches.filter (fun x => x.serial ≠ serial)
        ∧ v.msix = s.msix ++ (if l.desc.irq && !l.quiet then [(qFunc (queueAt s l.queue), l.queue % 64)] else []))
    ∧ (focus s hid = some t → t.hart.stopReq = true → t.hart.who.dispatch = false → hartOver t.hart = false → midMatrix t.hart = false →
        t.hart.weak.late = [] → t.hart.status ≠ .waiting .remote → t.hart.remote = none →
        let core := coreOf t.hart.who
        (launchAborted t t.hart.who.serial = false → t.hart.stopped = false → t.hart.who.resident = true →
          ((coreAt t core).pending = [] →
            exec (.preemptionPointReached hid) s = .next { drainAll t with hart := { (drainAll t).hart with stopped := true } })
          ∧ (hubOk t → ∃ v, exec (.preemptionPointReached hid) s = .next v ∧ v.hart.stopped = true ∧ v.hart.weak.postS = [] ∧ v.hart.weak.postV = []
            ∧ (coreAt v core).failed = (coreAt t core).failed ++ (coreAt t core).pending))
        ∧ (launchAborted t t.hart.who.serial = true → ∃ v, exec (.preemptionPointReached hid) s = .next v
          ∧ v.hart.status = .halted ∧ v.hart.who.resident = false))
    ∧ (focus s hid = some t → t.hart.stopped = true → t.hart.who.resident = true → drained t.hart = true → midMatrix t.hart = false →
        launchAborted t t.hart.who.serial = false →
        ∃ v, exec (.contextSave hid) s = .next v ∧ v.hart.who = { t.hart.who with resident := false } ∧ v.hart.x = t.hart.x
          ∧ v.hart.vec = t.hart.vec ∧ v.hart.mat = t.hart.mat ∧ v.hart.trap = t.hart.trap ∧ v.hart.pc = t.hart.pc ∧ v.mem = t.mem
          ∧ (∀ ls, v.hart.eng.link = some ls → ∀ p ∈ ls, p.2 = false)
          ∧ (tabWf [] t.images = true → imageAt v t.hart.who.id = imageOf { t with hart := v.hart }))
    ∧ (∀ x : State,
      let field (off n : Nat) : Nat := natOfBytes (((imageOf x).drop off).take n)
      imageGood (imageOf x) x.hart.who.shape = true
      ∧ field 0 4 = 0x4B435849 ∧ field 4 2 = 1 ∧ field 8 4 = (imageOf x).length % 2 ^ 32
      ∧ (∀ r : BitVec 5, field (0x100 + 8 * r.toNat) 8 = (rx x r).toNat) ∧ field 0x200 8 = x.hart.pc.toNat
      ∧ (∀ r : BitVec 6, field (0x400 + 8 * r.toNat) 8 = (rw x r).toNat))

/-! ## The distributor, reliability, the host -/

/-- R11 to R14, R26, R316 to R321, R350, R354 to R356: the distributor reserves places for the first candidate that fits;
a confirmed reservation starts a gang at its entry, or resumes a saved hart with all that it held; ageing raises a waiting
gang; and yields, critical launches and time shares ask running gangs to stop. A placement takes residency from Dusk-queue work
(R322) and moves the round robin of its own function alone. A turn begins once no gang of another function runs in the partition;
until then those that do are asked to stop. A gang with a damaged image aborts its launch. -/
def Obligations.DistributorEvents : Prop :=
  ∀ (s : State) (c : Cand) (i n g : Nat) (ps : List Place) (r : Reservation) (l : Launch),
    (placing s = true → s.sched.reserved = none →
      (∀ die, firstThatFits (ageAll s) c i ps →
        ∃ t, exec (.freeCountReport die []) s = .next t
          ∧ t.sched.reserved = some { serial := c.l.serial, gang := c.gang, inst := i, places := ps }
          ∧ t = { s with sched := t.sched })
      ∧ (∀ die j qs p, firstThatFits (ageAll s) c i ps → placesOk (ageAll s) c (p.1 / coresPer c.l.desc.scope) (p :: qs) = true →
        j = p.1 / coresPer c.l.desc.scope →
        ∃ t, exec (.freeCountReport die (p :: qs)) s = .next t
          ∧ t.sched.reserved = some { serial := c.l.serial, gang := c.gang, inst := j, places := p :: qs }))
    ∧ (s.sched.reserved = some r → placing s = true →
      (let s1 : State := { s with sched := { s.sched with reserved := none } }
       candFor s1 r.serial r.gang c → placesOk s1 c r.inst r.places = true →
        (c.resume = false → ∃ t, exec (.placementConfirm true true) s = .next t
          ∧ t.hart = s.hart ∧ s.others <+: t.others ∧ t.others.length = s.others.length + r.places.length ∧ t.mem = s.mem
          ∧ (∀ k p, r.places[k]? = some p → ∃ h ∈ t.others, h.who.rank = k ∧ h.who.serial = c.l.serial ∧ h.who.gang = c.gang
              ∧ h.who.die = p.1 / 64 ∧ h.who.quad = p.1 / 4 % 16 ∧ h.who.core = p.1 % 4 ∧ h.who.slot = p.2 ∧ h.who.resident = true
              ∧ h.status = .running ∧ h.pc = BitVec.ofNat 64 c.l.desc.entry ∧ h.x = Hart.blank.x.set 1 (BitVec.ofNat 64 c.l.desc.args)
              ∧ h.vec = VecState.entry ∧ h.mat = MatState.entry ∧ h.trap = TrapState.entry ∧ h.fcsr = 0)
          ∧ (∀ j ∈ t.sched.dusk, duskMeets c.l.desc.shape r.places j = false)
          ∧ (tabWf (0, 0) s.sched.rr = true →
            let at_ := tabGet (0, 0) s.sched.rr c.l.fn
            let used := (if at_.1 = c.l.queue then at_.2 else 0) + 1
            tabGet (0, 0) t.sched.rr c.l.fn = (if c.l.desc.deadline ≠ 0 then at_
              else if qWeight (queueAt s c.l.queue) ≤ used then ((c.l.queue + 1) % 64, 0) else (c.l.queue, used))
            ∧ ∀ f, f ≠ c.l.fn → tabGet (0, 0) t.sched.rr f = tabGet (0, 0) s.sched.rr f))
        ∧ (c.resume = true → imagesGood s1 c = false → ∃ t, exec (.placementConfirm true true) s = .next t ∧ t.mem = s.mem
          ∧ ∀ m ∈ t.sched.launches, m.serial = r.serial → m.aborted = true)
        ∧ (∀ (h : Hart) (p : Place) (u : State), c.resume = true → imagesGood s1 c = true → gangRanks s1 c = [h] → r.places = [p] →
          focus s h.who.id = some u → u.hart = h → lookup u (identSpace u h.who) h.pc.toNat ≠ .invalid →
          ∃ t, exec (.placementConfirm true true) s = .next t ∧ t.mem = s.mem ∧ t.hart.who = placedAt h.who p
            ∧ t.hart.stopped = false ∧ t.hart.stopReq = h.stopReq ∧ t.hart.status = h.status ∧ t.hart.pc = h.pc ∧ t.hart.x = h.x
            ∧ t.hart.fcsr = h.fcsr ∧ t.hart.vec = h.vec ∧ t.hart.mat = h.mat ∧ t.hart.h = h.h ∧ t.hart.c = h.c
            ∧ t.hart.eng = h.eng ∧ t.hart.trap = h.trap)))
    ∧ (launchAt s n = some l → gangAt s n g = none → g = l.started → l.started < l.desc.count →
        l.aged < (s.time - max l.enqAt l.lastAt) / 10000000 →
        ∃ t m, exec (.aging n g) s = .next t ∧ launchAt t n = some m ∧ m = { l with aged := l.aged + 1 } ∧ t = { s with sched := t.sched })
    ∧ (mayYield s n g = true → ∃ t, exec (.gangYield n g) s = .next t ∧ askedToStop s t n g)
    ∧ (∀ pre post, candidates (ageAll s) = pre ++ c :: post →
        (∀ x ∈ pre, x.l.fn ≠ c.l.fn ∧ ripe (ageAll s) i x = false) → placing s = true → fitAny (ageAll s) noGang c = none →
        1000000 ≤ unplacedFor (ageAll s) c → leastInst (instsOf (ageAll s) c) (slotsMissing (ageAll s) c) i = true →
        (∀ x ∈ s.sched.blocked, ¬(x.1 = c.l.serial ∧ x.2.1 = c.gang)) →
        ∃ t, exec (.unplaceableReservation i) s = .next t
          ∧ t.sched.blocked = s.sched.blocked ++ [(c.l.serial, c.gang, i)] ∧ t = { s with sched := t.sched })
    ∧ (∀ vs, (candidates (ageAll s)).find? (fun x => x.l.serial == n) = some c → placing s = true → critical (ageAll s) c.l = true →
        fitAny (ageAll s) noGang c = none → fitAny (ageAll s) (leaving (ageAll s)) c = none →
        leastInst (instsOf (ageAll s) c) (victimCount (ageAll s) c) i = true → criticalVictims (ageAll s) c i = some vs →
        ∃ t, exec (.criticalLaunch n i) s = .next t ∧ (∀ v ∈ vs, ∀ h ∈ allHarts t,
            inGang v.1.serial v.2.index h = true → hartOver h = true ∨ h.stopReq = true) ∧ t.mem = s.mem)
    ∧ (∀ (v : Launch × Gang) (vs : List (Launch × Gang)), candFor (ageAll s) n g c → placing s = true →
        fitAny (ageAll s) noGang c = none → fitAny (ageAll s) (leaving (ageAll s)) c = none → 10000000 ≤ unplacedFor (ageAll s) c →
        victimsBy (ageAll s) (fun m x => decide (m.desc.cls ≤ c.e) && decide (10000000 ≤ (ageAll s).time - x.placeAt) && m.fn == c.l.fn
          && (c.resume || m.serial != c.l.serial)
          && gangOn (ageAll s) ((List.range 1024).filter fun k => natBit (placeDies (ageAll s) c.l.fn) (k / 64)) m x) = v :: vs →
        ∃ t, exec (.timeSharePreempt n g v.1.serial v.2.index) s = .next t ∧ askedToStop s t v.1.serial v.2.index)
    ∧ (∀ part f, partEn (partReg s part) = true → 2 ≤ (partFns s part).length → placing s = true →
        let o := exec (.worldSwitch part) s
        let begins (fn left : Nat) : Prop := ∃ t, o = .next t ∧ t = { s with sched := t.sched }
          ∧ turnAt t part = some { fn := fn, left := left, since := s.time, into := none }
        let switches (f : Nat) : Prop := (othersRun s f part = false → begins f (turnsOf s f))
          ∧ (othersRun s f part = true → ∃ t tn, o = .next t ∧ turnAt t part = some tn ∧ tn.into = some f
            ∧ ∀ m ∈ s.sched.launches, m.fn ≠ f → ∀ x ∈ m.gangs, x.status = .placed →
              gangOn s ((List.range 1024).filter fun k => natBit (partDies (partReg s part)) (k / 64)) m x = true →
              ∀ h ∈ allHarts t, inGang m.serial x.index h = true → hartOver h = true ∨ h.world = true ∧ (runningGang x = true → h.stopReq = true))
        (turnAt s part = none → nextFn s part 0 = some f → switches f)
        ∧ (∀ tn, turnAt s part = some tn → tn.into = none →
          (othersRun s tn.fn part = true → switches tn.fn)
          ∧ (othersRun s tn.fn part = false → s.time < tn.since + partSlice (partReg s part) * 100000 → o = .next s)
          ∧ (othersRun s tn.fn part = false → tn.since + partSlice (partReg s part) * 100000 ≤ s.time →
            (1 < tn.left → hasWork s tn.fn = true → fnPart s tn.fn = some part → begins tn.fn (tn.left - 1))
            ∧ (tn.left ≤ 1 ∨ hasWork s tn.fn = false ∨ fnPart s tn.fn ≠ some part → nextFn s part tn.fn = some f → switches f)))
        ∧ (∀ tn, turnAt s part = some tn → tn.into = some f → fnPart s f = some part → hasWork s f = true →
          (othersRun s f part = false → begins f (turnsOf s f)) ∧ (othersRun s f part = true → o = .next s)))

/-- R7, R8, R279, R305, R344, R346, R369, R370, R374 to R376, R393: failed lane groups and retired banks, error counts,
poisoned evictions, the ports' states, and a pod peer's accesses. -/
def Obligations.FleetEvents : Prop :=
  ∀ (s : State) (core grp die st quad bank pa dom port : Nat) (q : PeerReq) (v : Word) (lanes : BitVec 4),
    let p := portAt s port
    let closed := closeHours s
    let lo := wBits s.hub.podexp 0 16 * 2 ^ 30
    let hi := wBits s.hub.podexp 32 16 * 2 ^ 30
    let up (t : State) (m : Nat) : Prop := portAt t port = { p with state := m, ev := true, lanes := (portAt t port).lanes }
      ∧ t.msix = s.msix ++ [(0, 0)] ∧ t = { s with hub := { s.hub with ports := t.hub.ports }, msix := t.msix }
    let training (t : State) : Prop := portAt t port = { p with state := 1, ev := true, lanes := 0, retrains := (p.retrains + 1) % 65536, replays := 0 }
    let serves (c : Nat) : Prop := (coreAt s c).out = false ∧ grp ∉ (coreAt s c).failed ∧ grp ∉ (coreAt s c).pending
    (core < 1024 → grp < 9 → serves core →
      let n := (coreAt s core).failed.length + 1
      ∃ t, exec (.laneGroupFailure core grp) s = .next t ∧ (∀ k, k ≠ core → coreAt t k = coreAt s k)
        ∧ (gangsOn s core = [] → t.msix = s.msix ++ [(0, 0)] ∧ coreAt t core = { coreAt s core with
            failed := (coreAt s core).failed ++ [grp], degraded := decide (2 ≤ n), out := decide (5 < n) })
        ∧ (gangsOn s core ≠ [] → t.msix = s.msix ∧ coreAt t core = { coreAt s core with pending := (coreAt s core).pending ++ [grp] }
          ∧ ∀ h ∈ allHarts s, occupies noGang h = true → coreOf h.who = core →
            ∀ x ∈ allHarts t, inGang h.who.serial h.who.gang x = true → hartOver x = true ∨ x.stopReq = true))
    ∧ (hasStruct die st = true → (st = 2 → core < 64 ∧ grp < 9) → ∃ t, exec (.correctedError die ⟨st, core, grp⟩) s = .next t
        ∧ (s.hub.hourSecs < 3600 → closed = s)
        ∧ tabGet 0 t.hub.coloHour (die * 16 + st) = tabGet 0 closed.hub.coloHour (die * 16 + st) + 1
        ∧ (∀ k, k ≠ die * 16 + st → tabGet 0 t.hub.coloHour k = tabGet 0 closed.hub.coloHour k)
        ∧ (st ≠ 2 → t = { closed with hub := { closed.hub with coloHour := t.hub.coloHour } })
        ∧ (st = 2 →
          let c := die * 64 + core
          let now := (grp, s.time) :: (coreAt s c).residue.filter fun e => decide (s.time < e.2 + 3600000000000)
          (now.countP (·.1 == grp) ≤ 64 → t = { closed with hub := { closed.hub with coloHour := t.hub.coloHour }, cores := t.cores }
            ∧ coreAt t c = { coreAt s c with residue := now } ∧ ∀ k, k ≠ c → coreAt t k = coreAt s k)
          ∧ (64 < now.countP (·.1 == grp) → serves c →
            (gangsOn s c = [] → grp ∈ (coreAt t c).failed) ∧ (gangsOn s c ≠ [] → grp ∈ (coreAt t c).pending))))
    ∧ (∀ d, pa < 2 ^ 52 → (s.lines.filter (fun l => l.line == pa / 64) = [] → d = dom) →
        (∀ l ∈ s.lines, l.line = pa / 64 → l.own = d) → (fnAt s (ownerFn s d)).evLg = 0 →
        ∃ t, exec (.evictionDataError pa dom) s = .next t
        ∧ pa / 64 ∈ t.poison ∧ (∀ k, k ≠ pa / 64 → (k ∈ t.poison ↔ k ∈ s.poison)) ∧ t.mem = s.mem
        ∧ (∀ l, l ∈ t.lines ↔ l ∈ s.lines ∧ l.line ≠ pa / 64)
        ∧ t.msix = s.msix ++ [(ownerFn s d, 0)] ∧ (allHarts t).map unlinked = (allHarts s).map unlinked)
    ∧ (die < 16 → quad < 16 → bank < 64 → (bankAt s (bankKey die quad bank)).retired = false →
      ∃ t, exec (.bankRetirement die quad bank) s = .next t
        ∧ bankAt t (bankKey die quad bank) = { bankAt s (bankKey die quad bank) with retired := true, changing := none }
        ∧ (∀ k, k ≠ bankKey die quad bank → bankAt t k = bankAt s k)
        ∧ (∀ l, l ∈ t.lines ↔ l ∈ s.lines ∧ ¬(l.quad = some (die * 16 + quad) ∧ l.way = bank))
        ∧ t = { s with banks := t.banks, lines := t.lines, hub := { s.hub with colo := t.hub.colo } })
    ∧ (p.state = 2 ∨ p.state = 3 → ∃ t, exec (.flitReplay port) s = .next t
        ∧ (p.replays < 7 → portAt t port = { p with replays := p.replays + 1 }) ∧ (7 ≤ p.replays → training t)
        ∧ (∀ k, k ≠ port → portAt t k = portAt s k) ∧ tabGet 0 t.hub.coloHour 263 = tabGet 0 closed.hub.coloHour 263 + 1 ∧ t.mem = s.mem)
    ∧ (port < 32 → p.state = 0 ∨ p.state = 2 ∨ p.state = 3 → ∃ t, exec (.linkDown port) s = .next t ∧ training t
        ∧ (∀ k, k ≠ port → portAt t k = portAt s k) ∧ t.mem = s.mem ∧ t.hart = s.hart)
    ∧ (p.state = 1 →
        (lanes = 15#4 → ∃ t, exec (.linkTrainingEnd port lanes) s = .next t ∧ up t 2 ∧ (portAt t port).lanes = lanes)
        ∧ ((List.range 4).countP lanes.getLsbD ∈ [2, 3] → ∃ t, exec (.linkTrainingEnd port lanes) s = .next t ∧ up t 3
            ∧ (List.range 4).countP (portAt t port).lanes.getLsbD = 2 ∧ (portAt t port).lanes &&& lanes = (portAt t port).lanes)
        ∧ ((List.range 4).countP lanes.getLsbD < 2 → ∃ t, exec (.linkTrainingEnd port lanes) s = .next t ∧ up t 4 ∧ (portAt t port).lanes = 0))
    ∧ (hostReaches s 0 → port < 32 → p.state = 4 → ∃ t, exec (.linkTrainRequest port) s = .next t ∧ training t
        ∧ (∀ k, k ≠ port → portAt t k = portAt s k) ∧ t.mem = s.mem ∧ t.hart = s.hart)
    ∧ (port < 8 → s.hub.cxlUp.getLsbD port = true → ∃ t, exec (.cxlLinkLoss port) s = .next t ∧ t.hub.cxlUp = 0
        ∧ t = { s with hub := { s.hub with cxlUp := 0, colo := t.hub.colo } })
    ∧ (linkUp s = false → exec (.peerAccess q) s = .next s)
    ∧ (linkUp s = true → q.size ∈ [1, 2, 4, 8] → q.pa % q.size = 0 →
        (190 ≤ q.age → exec (.peerAccess q) s = .next s)
        ∧ (q.age < 190 → q.pa < lo ∨ hi < q.pa + q.size → ∃ t, exec (.peerAccess q) s = .next t ∧ logged s t (256 + q.rank) 3 (BitVec.ofNat 64 q.pa))
        ∧ (q.age < 190 → lo ≤ q.pa → q.pa + q.size ≤ hi → q.data = some v → q.page = false →
            ∃ t, exec (.peerAccess q) s = .next t ∧ logged s t (256 + q.rank) 4 (BitVec.ofNat 64 q.pa))
        ∧ (q.age < 190 → lo ≤ q.pa → q.pa + q.size ≤ hi → q.data = some v → q.page = true →
            (q.atom.isSome = true → q.pa / 64 ∉ s.poison) → memOk s →
            ∃ t, exec (.peerAccess q) s = .next t
              ∧ (let new := match q.atom with
                   | none => v.toNat
                   | some a => peerAtomValue a (8 * q.size) (readPaNat s q.pa q.size) (v.toNat % 2 ^ (8 * q.size))
                 ∀ x, readPa t x = if q.pa ≤ x ∧ x < q.pa + q.size then (bytesOfNat q.size new).getD (x - q.pa) 0 else readPa s x)
              ∧ t.banks = s.banks ∧ (allHarts t).map unlinked = (allHarts s).map unlinked))

/-- R303, R304, R307, R333, R341, R344, R346, R351, R352, R364, R372, R374, R380, R381: what a write of a register of BAR0 leaves,
a post, and the host's accesses to memory; an access that breaks a rule is logged and does nothing else. That a post to a function
in reset sets DROP is the model's reading (log 47). The registers whose writes ask for something are under HostRequests and
ModuleRequests. -/
def Obligations.HostRegisters : Prop :=
  ∀ (s : State) (fn off q f n : Nat) (v : Word) (bs : List Byte),
    hubOk s → hostReaches s fn →
    let holds (o : Out) (P : State → Prop) : Prop := ∃ t, o = .next t ∧ hubOnly s t ∧ P t
    -- a change of the partitions ends turns (R354)
    let maps (o : Out) (P : State → Prop) : Prop := ∃ t, o = .next t
      ∧ t = { s with hub := t.hub, sched := { s.sched with turns := t.sched.turns } } ∧ (∀ x ∈ t.sched.turns, x ∈ s.sched.turns) ∧ P t
    (barReg off = none → ∃ t, exec (.registerWrite fn off v) s = .next t ∧ logged s t fn 1 (BitVec.ofNat 64 off))
    ∧ (∀ r, barReg off = some r → barVisible s fn r = false →
        ∃ t, exec (.registerWrite fn off v) s = .next t ∧ logged s t fn 1 (BitVec.ofNat 64 off))
    ∧ (∀ r, barReg off = some r → barVisible s fn r = true → barReadOnly fn r = true →
        ∃ t, exec (.registerWrite fn off v) s = .next t ∧ logged s t fn 2 (BitVec.ofNat 64 off))
    ∧ (fn = 0 → holds (exec (.registerWrite 0 0x300 v) s) fun t => t.hub = { s.hub with podexp := v &&& 0x0000FFFF0000FFFF#64 })
    ∧ (fn = 0 → holds (exec (.registerWrite 0 0x310 v) s) fun t => t.hub = { s.hub with bar2win := v &&& 0x00FFFFF000000001#64 })
    ∧ (fn = 0 → holds (exec (.registerWrite 0 0x40000 v) s) fun t => t.hub = { s.hub with colsel := v &&& 0xFFFFFFFF#64 })
    ∧ (fn = 0 → q < 64 → holds (exec (.registerWrite 0 (0x10000 + 64 * q) v) s) fun t =>
        queueAt t q = { queueAt s q with cfg := (v &&& 0x7FF00#64) ||| BitVec.ofNat 64 (max 1 (v.toNat % 256)) }
        ∧ ∀ k, k ≠ q → queueAt t k = queueAt s k)
    ∧ (fn = 0 ∨ f = fn → f ≤ 64 →
        holds (exec (.registerWrite fn (0x20000 + 64 * f) v) s) (fun t => fnAt t f = { fnAt s f with errBase := v &&& 0x00FFFFFFFFFFF000#64 })
        ∧ holds (exec (.registerWrite fn (0x20018 + 64 * f) v) s) (fun t => fnAt t f = { fnAt s f with evBase := v &&& 0x00FFFFFFFFFFF000#64 })
        ∧ holds (exec (.registerWrite fn (0x20020 + 64 * f) v) s) (fun t => fnAt t f = { fnAt s f with evLg := v.toNat % 32 })
        ∧ holds (exec (.registerWrite fn (0x20030 + 64 * f) v) s) (fun t => fnAt t f = { fnAt s f with ovfStat := (fnAt s f).ovfStat &&& ~~~(v &&& 0xFF#64) })
        ∧ holds (exec (.registerWrite fn (0x20008 + 64 * f) v) s) (fun t => fnAt t f = { fnAt s f with errLg := v.toNat % 32 })
        ∧ holds (exec (.registerWrite fn (0x20038 + 64 * f) v) s) (fun t => fnAt t f = { fnAt s f with ovfVec := v &&& 0x13F#64 }))
    ∧ (q < 64 → fn = 0 ∨ qFunc (queueAt s q) = fn → holds (exec (.registerWrite fn (0x10010 + 64 * q) v) s) fun t =>
        queueAt t q = { queueAt s q with err := (queueAt s q).err && !v.getLsbD 7, drop := (queueAt s q).drop && !v.getLsbD 6 }
        ∧ ∀ k, k ≠ q → queueAt t k = queueAt s k)
    ∧ (fn = 0 → 1 ≤ n → n < 1024 → holds (exec (.registerWrite 0 (0x30000 + 8 * n) v) s) fun t =>
        tabGet 0 t.hub.ownmap n = v &&& 0xFF#64 ∧ ∀ k, k ≠ n → tabGet 0 t.hub.ownmap k = tabGet 0 s.hub.ownmap k)
    ∧ (fn = 0 → ∀ j : Fin 4, holds (exec (.registerWrite 0 (0x40040 + 8 * j.val) v) s) fun t =>
        t.hub = { s.hub with sec := { s.hub.sec with nonce := t.hub.sec.nonce } }
        ∧ t.hub.sec.nonce.get j = v ∧ ∀ k, k ≠ j → t.hub.sec.nonce.get k = s.hub.sec.nonce.get k)
    ∧ (fn = 0 → n < 32 → v.toNat % 8 ≠ 1 ∨ (portAt s n).state ≠ 4 → holds (exec (.registerWrite 0 (0x40100 + 8 * n) v) s) fun t =>
        portAt t n = (if v.getLsbD 8 then { portAt s n with ev := false } else portAt s n) ∧ ∀ k, k ≠ n → portAt t k = portAt s k)
    ∧ (fn = 0 → n < 1048576 → holds (exec (.registerWrite 0 (0x800000 + 8 * n) v) s) fun t =>
        t.hub = { s.hub with sec := { s.hub.sec with stage := t.hub.sec.stage } }
        ∧ (tabWf 0#8 s.hub.sec.stage = true → ∀ x, tabGet 0#8 t.hub.sec.stage x =
            if 8 * n ≤ x ∧ x < 8 * n + 8 then (bytesOfNat 8 v.toNat).getD (x - 8 * n) 0 else tabGet 0#8 s.hub.sec.stage x))
    ∧ (q < 64 → fn = 0 ∨ qFunc (queueAt s q) = fn → holds (exec (.mbpost fn q v) s) fun t =>
        queueAt t q = (if qEn (queueAt s q) = true ∧ (queueAt s q).posts.length < 16 ∧ v.toNat % 4 = 0 ∧ v.toNat / 2 ^ 56 = 0
            ∧ (fnAt s (qFunc (queueAt s q))).reset = false
          then { queueAt s q with posts := (queueAt s q).posts ++ [v] } else { queueAt s q with drop := true })
        ∧ ∀ k, k ≠ q → queueAt t k = queueAt s k)
    ∧ (fn = 0 → f ≤ 64 → fnLaunches s f = false → fnPrograms s f = false →
        holds (exec (.fnownWrite f v) s) (fun t => fnAt t f = { fnAt s f with own := v &&& 0x3FF#64 } ∧ ∀ k, k ≠ f → fnAt t k = fnAt s k)
        ∧ (v.getLsbD 0 = false ∨ asidUsed s f (v.toNat / 2 ^ 52) = false →
          holds (exec (.fnrootWrite f v) s) fun t => fnAt t f = { fnAt s f with root := v &&& 0xFFFFFFFFFFFFF801#64 } ∧ ∀ k, k ≠ f → fnAt t k = fnAt s k)
        ∧ (v.getLsbD 0 = true → asidUsed s f (v.toNat / 2 ^ 52) = true →
          holds (exec (.fnrootWrite f v) s) fun t => fnAt t f = { fnAt s f with root := v &&& 0xFFFFFFFFFFFFF800#64 } ∧ ∀ k, k ≠ f → fnAt t k = fnAt s k))
    ∧ (fn = 0 → n < 16 → (∀ g, g ≤ 64 → fnLaunches s g = false) →
        maps (exec (.partWrite n v) s) fun t => (∀ k, k ≠ n → partReg t k = partReg s k) ∧ (∀ x ∈ t.sched.turns, x.1 ≠ n) ∧ wBits (partReg t n) 0 16 = wBits v 0 16
          ∧ wBits (partReg t n) 32 16 = max 1 (wBits v 32 16)
          ∧ (partEn (partReg t n) = true ↔ v.getLsbD 16 = true ∧ wBits v 0 16 ≠ 0
              ∧ ∀ k, k < 16 → k ≠ n → partEn (partReg s k) = true → partDies (partReg s k) &&& wBits v 0 16 = 0))
    ∧ (fn = 0 → 1 ≤ f → f ≤ 64 → fnLaunches s f = false → (vfmapReg s f).getLsbD 15 = false →
        maps (exec (.vfmapWrite f v) s) fun t => (∀ k, k ≠ f → vfmapReg t k = vfmapReg s k)
          ∧ (∀ x ∈ t.sched.turns, x.1 = wBits (vfmapReg s f) 8 4 ∨ x.1 = wBits v 8 4 → x.2.fn ≠ f ∧ x.2.into ≠ some f)
          ∧ vfmapReg t f = (v &&& 0x8F00#64) ||| BitVec.ofNat 64 (max 1 (v.toNat % 256)))
    ∧ (fn = 0 → 0 < n → off / 4096 = (off + n - 1) / 4096 → off + n ≤ 2 ^ 36 →
        (s.hub.bar2win.getLsbD 0 = false → ∃ t, exec (.bar2Read off n) s = .next t
          ∧ logged s { t with hostData := s.hostData, hostEp := s.hostEp } 0 5 (BitVec.ofNat 64 off) ∧ t.hostData = List.replicate n (BitVec.allOnes 8) ∧ t.hostEp = false)
        ∧ (∀ ds : List Byte, s.hub.bar2win.getLsbD 0 = true → bar2Bytes s (bar2Va s off) n = .ok (ds.map some) →
            exec (.bar2Read off n) s = .next { s with hostData := ds, hostEp := false }))
    ∧ (fn = 0 → bs ≠ [] → off / 4096 = (off + bs.length - 1) / 4096 → off + bs.length ≤ 2 ^ 36 → s.hub.bar2win.getLsbD 0 = true →
        ∀ t, storeBlock s (fnPath s 0) (bar2Va s off) bs = .ok t → exec (.bar2Write off bs) s = .next t)
    ∧ (∀ kind, breaksRule s fn kind v.toNat = true → ∃ t, exec (.hostAccessViolation fn kind v) s = .next t ∧ logged s t fn kind v)

/-- R205, R306, R308, R323, R324, R336, R337, R358: sessions and bank modes, invalidations, the start of a posted program,
resets of functions, and the two steps of a page's migration. A change of a bank's mode, an invalidation and a migration wait for
the accesses that began before (R205, R281). A page whose frame is in the CXL tier out of service gets its old leaf again, which is
the model's reading (log 138). The physical function's reset follows those of the virtual functions; what HUBSTAT,
LINKSTAT and PWRSTAT read after it is the model's choice (log 116). -/
def Obligations.HostRequests : Prop :=
  ∀ (s : State) (v : Word) (die quad bank q f : Nat) (m : BankMode),
    hubOk s →
    let key := bankKey die quad bank
    (hostReaches s 0 → wBits v 49 15 = 0 → wBits v 12 13 = 0 → s.hub.sessRes ≠ 1 →
      (sessOp v = 1 → pinOk s v = true → ∃ t, exec (.sessionPin v) s = .next t ∧ t.hub.sessRes = 1 ∧ t.hub.sessReq = v
        ∧ (∀ k ∈ sessKeys v, bankAt t k = { bankAt s k with changing := some (pinMode v) })
        ∧ (∀ k, k ∉ sessKeys v → bankAt t k = bankAt s k) ∧ t = { s with hub := t.hub, banks := t.banks })
      ∧ (sessOp v = 1 → pinOk s v = false → ∃ t, exec (.sessionPin v) s = .next t ∧ t.hub.sessRes = 2 ∧ t.banks = s.banks)
      ∧ (sessOp v = 2 → releaseOk s v = true → banksOk s → ∃ t, exec (.sessionRelease v) s = .next t ∧ t.hub.sessRes = 1
        ∧ (∀ k ∈ sessBanks s v, bankAt t k = { bankAt s k with session := none, data := [], fifo := [] })
        ∧ (∀ k, k ∉ sessBanks s v → bankAt t k = bankAt s k)))
    ∧ (s.hub.sessRes = 1 → sessOp s.hub.sessReq = 1 → (∃ k ∈ sessKeys s.hub.sessReq, bankPending s k = true) → exec .sessionRequestDone s = .next s)
    ∧ (s.hub.sessRes = 1 → sessOp s.hub.sessReq = 1 → (∀ k ∈ sessKeys s.hub.sessReq, bankPending s k = false) →
        ∃ t, exec .sessionRequestDone s = .next t ∧ t.hub.sessRes = 0
        ∧ (∀ k ∈ sessKeys s.hub.sessReq, bankAt t k = { bankAt s k with
            session := some (sessId s.hub.sessReq), mode := pinMode s.hub.sessReq, data := [], fifo := [], changing := none })
        ∧ (∀ k, k ∉ sessKeys s.hub.sessReq → bankAt t k = bankAt s k) ∧ t.mem = s.mem)
    ∧ (die < 16 → quad < 16 → bank < 64 → (bankAt s key).session = none → (bankAt s key).retired = false → (bankAt s key).changing = none →
        ∃ t, exec (.bankModeChange die quad bank m) s = .next t ∧ bankAt t key = { bankAt s key with changing := some m }
          ∧ (∀ k, k ≠ key → bankAt t k = bankAt s k) ∧ t = { s with banks := t.banks })
    ∧ (bank < 64 → (bankAt s key).changing = some m → pinPending s key = false → bankPending s key = false → banksOk s →
        ∃ t, exec (.bankModeChangeDone die quad bank) s = .next t
          ∧ bankAt t key = { bankAt s key with mode := m, data := [], fifo := [], changing := none }
          ∧ (∀ k, k ≠ key → bankAt t k = bankAt s k) ∧ t.mem = s.mem
          ∧ (allHarts t).map unlinked = (allHarts s).map (fun h => unlinked (unviewed h))
          ∧ (∀ l, l ∈ t.lines ↔ l ∈ s.lines ∧ ¬(l.quad = some (die * 16 + quad) ∧ l.way = bank)))
    ∧ (hostReaches s 0 → s.hub.tlbRes ≠ 1 → wBits v 40 8 = 0 →
      let gone (o : Out) : Prop := ∃ t, o = .next t ∧ t.hub = { s.hub with tlbRes := 1, tlbReq := v }
        ∧ (∀ e, e ∈ t.tlb ↔ e ∈ s.tlb ∧ tlbMatch v e = false) ∧ (∀ e, e ∈ t.wcache ↔ e ∈ s.wcache ∧ walkMatch v e = false) ∧ t.mem = s.mem
      (wBits v 50 2 = 0 → gone (exec (.tlbinvPage v) s)) ∧ (wBits v 50 2 = 1 → gone (exec (.tlbinvAsid v) s))
      ∧ (wBits v 50 2 = 2 → gone (exec (.tlbinvAll v) s)))
    ∧ (s.hub.tlbRes = 1 → let x := invSpan s.hub.tlbReq
        exec .tlbinvDone s = .next (if translatedBefore s (asidMatch s.hub.tlbReq) x.1 x.2 then s else { s with hub := { s.hub with tlbRes := 0 } }))
    ∧ (∀ p rest, q < 64 → (queueAt s q).posts = p :: rest → queueBusy s q = false → s.hub.snap = 0 → (fnAt s (qFunc (queueAt s q))).reset = false →
        ∃ t h, exec (.dispatchProgramStart q) s = .next t ∧ queueAt t q = { queueAt s q with posts := rest } ∧ h ∈ t.others
          ∧ h.who.dispatch = true ∧ h.who.queue = q ∧ h.who.fn = qFunc (queueAt s q) ∧ h.status = .running ∧ h.pc = p
          ∧ h.x = Hart.blank.x.set 1 p ∧ t.mem = s.mem)
    ∧ (hostUp s = true →
      let resets (t : State) (g : Nat) : Prop := (fnAt t g).reset = true
        ∧ (∀ l ∈ t.sched.launches, l.fn = g → l.aborted = true ∧ l.quiet = true)
        ∧ (∀ k, k < 64 → qFunc (queueAt s k) = g → (queueAt t k).posts = [])
        ∧ t.mem = s.mem ∧ t.banks = s.banks
      (1 ≤ f → f ≤ 64 → ∃ t, exec (.functionLevelReset f) s = .next t ∧ resets t f)
      ∧ (∃ t, exec .vfEnableClear s = .next t ∧ ∀ g, 1 ≤ g → g ≤ 64 → resets t g)
      ∧ (∃ t, exec .pfFunctionLevelReset s = .next t ∧ (∀ g, 1 ≤ g → g ≤ 64 → resets t g) ∧ (fnAt t 0).reset = true ∧ t.hub.pfPend = true)
      ∧ (s.hub.pfPend = true → (∀ g, 1 ≤ g → g ≤ 64 → (fnAt s g).reset = false) →
          ∃ t, exec (.functionResetComplete 0) s = .next t ∧ resets t 0 ∧ t.hub.pfPend = false))
    ∧ (s.hub.pfPend = true → (∃ g, 1 ≤ g ∧ g ≤ 64 ∧ (fnAt s g).reset = true) → exec (.functionResetComplete 0) s = .next s)
    ∧ ((fnAt s 0).reset = true → s.hub.pfPend = false → fnLaunches s 0 = false →
        (∀ h ∈ allHarts s, h.who.dispatch = true → qFunc (queueAt s h.who.queue) = 0 → drained h = true) →
        ∃ t, exec (.functionResetComplete 0) s = .next t ∧ (∀ r, (∀ k, r ≠ .mbstat k) → regRead t r = regRead State.reset r)
          ∧ t.time = s.time ∧ t.mem = s.mem ∧ t.hub.colo = s.hub.colo ∧ t.hub.sec.rollback = s.hub.sec.rollback ∧ t.hub.sec.slots = s.hub.sec.slots)
    ∧ ((fnAt s f).reset = true → f ≠ 0 → fnLaunches s f = false →
        (∀ h ∈ allHarts s, h.who.dispatch = true → qFunc (queueAt s h.who.queue) = f → drained h = true) →
        ∃ t, exec (.functionResetComplete f) s = .next t
          ∧ fnAt t f = { FnRegs.init with root := (fnAt s f).root, own := (fnAt s f).own }
          ∧ (∀ k, k < 64 → qFunc (queueAt s k) = f → (queueAt t k).drop = false ∧ (queueAt t k).err = false
              ∧ (queueAt t k).cause = 0 ∧ (queueAt t k).mberr = 0) ∧ t.mem = s.mem)
    ∧ (∀ asid va frame at_ lg, translated va = true → (rootOf s asid).bind (fun r => entryFrom s va walkLevels r) = some (at_, lg) →
      let page := va / 2 ^ lg * 2 ^ lg
      let e : Word := BitVec.ofNat 64 (readPaNat s at_ 8)
      (s.hub.tlbRes = 1 → exec (.pageMigration asid va frame) s = .next s)
      ∧ (s.hub.tlbRes ≠ 1 → s.migs.find? (fun x => x.1 == asid && x.2.1 == page) = none → e.getLsbD 0 = true → leafOk s e lg = true → memOk s →
        ∃ t, exec (.pageMigration asid va frame) s = .next t ∧ readPaNat t at_ 8 = ((e &&& ~~~3#64) ||| 2#64).toNat
          ∧ (asid, page, e) ∈ t.migs ∧ t.hub.tlbRes = 1 ∧ t.hub.tlbReq = pageInvWord asid page lg ∧ (∀ x ∈ t.tlb, ¬(x.asid = asid ∧ x.vpn = page / 2 ^ x.size ∧ x.size = lg)) ∧ t.banks = s.banks)
      ∧ (∀ x, s.hub.tlbRes ≠ 1 → s.migs.find? (fun x => x.1 == asid && x.2.1 == page) = some x → leafOk s (withFrame x.2.2 frame) lg = true →
        frame % 65536 = 0 → memOk s →
        let src := leafFrame x.2.2
        let dst := leafFrame (withFrame x.2.2 frame)
        let entry (y : Nat) : Prop := at_ ≤ y ∧ y < at_ + 8
        let lost : Prop := cxlLost s src = true ∨ cxlLost s dst = true
        (translatedBefore s (· == asid) page (page + 2 ^ lg) = true → exec (.pageMigration asid va frame) s = .next s)
        ∧ (translatedBefore s (· == asid) page (page + 2 ^ lg) = false → lost → src = dst →
          ∃ t, exec (.pageMigration asid va frame) s = .next t ∧ readPaNat t at_ 8 = (withFrame x.2.2 frame).toNat
            ∧ (∀ y, ¬entry y → readPa t y = readPa s y) ∧ (∀ y ∈ t.migs, ¬(y.1 = asid ∧ y.2.1 = page)))
        ∧ (translatedBefore s (· == asid) page (page + 2 ^ lg) = false → ¬lost → src ≠ dst →
          ∃ t, exec (.pageMigration asid va frame) s = .next t ∧ readPaNat t at_ 8 = (withFrame x.2.2 frame).toNat
            ∧ (∀ y, y < 2 ^ lg → ¬entry (dst + y) → readPa t (dst + y) = readPa s (src + y))
            ∧ (∀ y, ¬(dst ≤ y ∧ y < dst + 2 ^ lg) → ¬entry y → readPa t y = readPa s y)
            ∧ (∀ y ∈ t.migs, ¬(y.1 = asid ∧ y.2.1 = page)))))

/-- R325, R358, R371, R373, R377, R379 to R381, R383, R384: freezing and thawing, firmware, attestation, power, heat, the
colophon, reset, and the steps of the bring-up. What a module reset keeps, how OFF comes to power-off, and what holds the dies
back while an image of theirs does not verify are the model's choices (log 80, log 90, log 114), and so is that a FREEZE while the
module thaws freezes it (log 127). -/
def Obligations.ModuleRequests : Prop :=
  ∀ (s : State) (n d temp : Nat) (v : Word) (up : BitVec 8),
    let c := s.hub.sec
    let keeps (o : Out) (h : Hub) : Prop := o = .next { s with hub := h }
    let sec (o : Out) (c' : Security) : Prop := keeps o { s.hub with sec := c' }
    let cap := min 12000 (max 3000 (v.toNat % 65536))
    let flushed (t : State) : Prop := t.hub.coloNv = s.hub.colo ∧ t.hub.hourNv = s.hub.coloHour ∧ t.hub.hourNvSecs = s.hub.hourSecs
    (hostReaches s 0 → s.hub.snap = 0 ∨ s.hub.snap = 3 → ∃ t, exec .freeze s = .next t ∧ t.hub.snap = 1 ∧ t.sched.reserved = none
      ∧ (∀ g ∈ placedGangs s, ∀ h ∈ allHarts t, inGang g.1 g.2 h = true → hartOver h = true ∨ h.stopReq = true))
    ∧ (hostReaches s 0 → (s.hub.snap = 2 → keeps (exec .thaw s) { s.hub with snap := 3 })
      ∧ (s.hub.snap = 1 → keeps (exec .thaw s) { s.hub with thawPend := true }))
    ∧ (s.hub.snap = 1 → placedGangs s = [] → (∀ p ∈ s.banks, p.2.changing = none) →
        (∀ h ∈ allHarts s, h.who.dispatch = true → h.status ≠ .waiting .remote ∧ h.remote = none) →
        keeps (exec .freezeComplete s) { s.hub with snap := if s.hub.thawPend then 3 else 2, thawPend := false
                                                    coloNv := if s.hub.offPend then s.hub.colo else s.hub.coloNv
                                                    hourNv := if s.hub.offPend then s.hub.coloHour else s.hub.hourNv
                                                    hourNvSecs := if s.hub.offPend then s.hub.hourSecs else s.hub.hourNvSecs })
    ∧ (hostUp s = true → (fnAt s 0).reset = false → c.fwRes ≠ 1 →
      sec (exec .fwVerifyStaged s) { c with fwRes := 1, fwOp := 1 } ∧ sec (exec .fwRaiseRollback s) { c with fwRes := 1, fwOp := 2 })
    ∧ (c.fwRes = 1 → c.fwOp = 1 → imageOk s (stagedImage s) = false → sec (exec .fwOperationDone s) { c with fwRes := 2 })
    ∧ (c.fwRes = 1 → c.fwOp = 1 → imageOk s (stagedImage s) = true → sec (exec .fwOperationDone s) { c with
        fwRes := 0, slots := if c.booted = some 0 then c.slots.set 1 (stagedImage s) else c.slots.set 0 (stagedImage s) })
    ∧ (∀ k : Fin 2, c.fwRes = 1 → c.fwOp = 2 → c.booted = some k.val → c.rollback < 64 → imageVersion (c.slots.get k) ≤ 64 →
        sec (exec .fwOperationDone s) { c with fwRes := 0, rollback := max c.rollback (imageVersion (c.slots.get k)) })
    ∧ (hostReaches s 0 → c.attRes ≠ 1 → sec (exec .attestationRequest s) { c with attRes := 1 })
    ∧ (c.attRes = 1 → (∃ sig : List Byte, sig.length = 384 ∧ (∀ j, j < 384 → sig.getD j 0 = Config.attSign (reportBody s) j)
        ∧ sec (exec .attestationDone s) { c with attRes := 0, report := reportBody s ++ sig }))
    ∧ (hostReaches s 0 → v.getLsbD 16 = false → keeps (exec (.powerCap v) s) { s.hub with pwrCap := cap })
    ∧ (hostReaches s 0 → s.hub.snap = 0 → 3000 ≤ s.hub.pwrCap → s.hub.pwrCap ≤ 12000 → ∃ t, exec .powerOff s = .next t
        ∧ t.hub.offPend = true ∧ t.hub.pwrCap = s.hub.pwrCap ∧ t.hub.snap = 1)
    ∧ (∃ t, exec (.powerThrottle n) s = .next t
        ∧ t = { s with hub := { s.hub with watts := n % 65536, pwrSteps := if s.hub.pwrCap < n then min 12 (s.hub.pwrSteps + 1) else s.hub.pwrSteps - 1 } }
        ∧ (s.hub.pwrCap < n → ∀ k, aclkOf t k = max 6 (aclkOf s k - 1)))
    ∧ (d < 16 → hubOk s → ∃ t, exec (.thermalThrottle d temp) s = .next t ∧ (dieAt t d).temp = temp % 256
        ∧ ((dieAt t d).hot = true ↔ 95 < temp % 256 ∨ temp % 256 = 95 ∧ (dieAt s d).hot = true)
        ∧ ((dieAt t d).hot = true → aclkOf t d = max 6 (aclkOf s d - 1)) ∧ ((dieAt t d).hot = false → (dieAt t d).heat = (dieAt s d).heat - 1)
        ∧ (dieAt t d).above = (if 105 < temp % 256 then some ((dieAt s d).above.getD s.time) else none)
        ∧ (∀ k, k ≠ d → dieAt t k = dieAt s k) ∧ t = { s with dies := t.dies })
    ∧ (∀ o, d < 16 → (dieAt s d).tripped = false → (dieAt s d).above = some o → o + 1000000 ≤ s.time →
        ∃ t, exec (.thermalTrip d) s = .next t ∧ (dieAt t d).tripped = true ∧ t.hub.coloNv = t.hub.colo ∧ t.hub.hourNv = t.hub.coloHour
        ∧ (∀ h ∈ allHarts t, occupies noGang h = true → h.who.die ≠ d) ∧ (∀ j ∈ t.sched.dusk, ∀ p ∈ j.places, p.1 / 64 ≠ d)
        ∧ (∀ h ∈ allHarts s, occupies noGang h = true → h.who.die = d → ∀ l ∈ t.sched.launches, l.serial = h.who.serial → l.aborted = true)
        ∧ t.mem = s.mem)
    ∧ (∃ t, exec .moduleReset s = .next t ∧ t.power = true ∧ t.hart = Hart.blank ∧ t.others = [] ∧ t.hub.ready = false ∧ t.hub.step = 0
        ∧ t.mem = [] ∧ t.hub.sec.slots = c.slots ∧ t.hub.sec.rollback = c.rollback ∧ t.hub.coloNv = s.hub.coloNv
        ∧ t.hub.coloHour = s.hub.coloHour ∧ t.hub.hourSecs = s.hub.hourSecs ∧ t.hub.sinceFlush = s.hub.sinceFlush ∧ (s.power = true → t.hub.colo = s.hub.colo))
    ∧ (∃ t, exec .powerLoss s = .next t ∧ t.power = false ∧ t.others = [] ∧ t.hub.colo = s.hub.coloNv ∧ t.hub.coloHour = s.hub.hourNv
        ∧ t.hub.hourSecs = s.hub.hourNvSecs ∧ t.hub.ready = false)
    ∧ (s.hub.step = 0 → c.booted = none → c.failed = false →
        (imageOk s c.slots[0] = true → ∃ t, exec .firmwareVerified s = .next t ∧ t.hub.step = 1 ∧ t.hub.sec.booted = some 0)
        ∧ (imageOk s c.slots[0] = false → imageOk s c.slots[1] = true → ∃ t, exec .firmwareVerified s = .next t ∧ t.hub.step = 1 ∧ t.hub.sec.booted = some 1)
        ∧ (imageOk s c.slots[0] = false → imageOk s c.slots[1] = false → sec (exec .firmwareVerified s) { c with failed := true }))
    ∧ (s.hub.step = 1 → keeps (exec .pcieLinkTrained s) { s.hub with step := 2 })
    ∧ (s.hub.step = 2 → exec .hbmTrained s = .next { s with time := 0, hub := { s.hub with step := 3 } })
    ∧ (s.hub.step = 3 → (List.range 8).countP up.getLsbD ∈ [1, 2, 4, 8] → n ≤ (List.range 8).countP up.getLsbD * 2 ^ 41 →
        keeps (exec (.cxlEnumerated up n) s) { s.hub with step := 4, cxlUp := up, cxlCap := n })
    ∧ (s.hub.step = 4 →
        ((∀ img ∈ agentImages s, imageOk s img = true) → keeps (exec .diesReleased s) { s.hub with
            step := 6, ready := true, sec := { c with measured := (c.measured ++ (agentImages s).map digest).take 8 } })
        ∧ ((∃ img ∈ agentImages s, imageOk s img = false) → exec .diesReleased s = .next s))
    ∧ (duskRuns s .flush = true → ∃ t, exec .colophonFlush s = .next t ∧ flushed t ∧ duskRuns t .flush = false
        ∧ t = { s with hub := { s.hub with coloNv := t.hub.coloNv, hourNv := t.hub.hourNv, hourNvSecs := t.hub.hourNvSecs }, sched := { s.sched with dusk := t.sched.dusk } })
    ∧ (s.hub.hourSecs < 3600 → exec .colophonHour s = .next s)
    ∧ (3600 ≤ s.hub.hourSecs → ∃ t, exec .colophonHour s = .next t
        ∧ t = { s with hub := { s.hub with coloHour := [], colo := t.hub.colo, hourSecs := s.hub.hourSecs - 3600 } }
        ∧ ∀ k e, k < 16 → e ≤ 6 → tabGet 0 t.hub.colo (coloKey 1 k e (errorBucket (tabGet 0 s.hub.coloHour (k * 16 + e))))
          = tabGet 0 s.hub.colo (coloKey 1 k e (errorBucket (tabGet 0 s.hub.coloHour (k * 16 + e)))) + 1)
end

