-- ==== Sys2Proof/Laws/State.lean ====
section
/-!
SUPPORT. What each named update of the state leaves alone: one lemma for each field and update.
-/
namespace Sys2Proof.Machine

open Sys2Proof


/-! `wx` -/
@[simp] theorem wx_hart_who (s : State) (r : BitVec 5) (v : Word) : (wx s r v).hart.who = s.hart.who := by unfold wx; split <;> rfl
@[simp] theorem wx_hart_status (s : State) (r : BitVec 5) (v : Word) : (wx s r v).hart.status = s.hart.status := by unfold wx; split <;> rfl
@[simp] theorem wx_hart_stopReq (s : State) (r : BitVec 5) (v : Word) : (wx s r v).hart.stopReq = s.hart.stopReq := by unfold wx; split <;> rfl
@[simp] theorem wx_hart_stopped (s : State) (r : BitVec 5) (v : Word) : (wx s r v).hart.stopped = s.hart.stopped := by unfold wx; split <;> rfl
@[simp] theorem wx_hart_sameCore (s : State) (r : BitVec 5) (v : Word) : (wx s r v).hart.sameCore = s.hart.sameCore := by unfold wx; split <;> rfl
@[simp] theorem wx_hart_world (s : State) (r : BitVec 5) (v : Word) : (wx s r v).hart.world = s.hart.world := by unfold wx; split <;> rfl
@[simp] theorem wx_hart_remote (s : State) (r : BitVec 5) (v : Word) : (wx s r v).hart.remote = s.hart.remote := by unfold wx; split <;> rfl
@[simp] theorem wx_hart_pins (s : State) (r : BitVec 5) (v : Word) : (wx s r v).hart.pins = s.hart.pins := by unfold wx; split <;> rfl
@[simp] theorem wx_hart_strike (s : State) (r : BitVec 5) (v : Word) : (wx s r v).hart.strike = s.hart.strike := by unfold wx; split <;> rfl
@[simp] theorem wx_hart_weak (s : State) (r : BitVec 5) (v : Word) : (wx s r v).hart.weak = s.hart.weak := by unfold wx; split <;> rfl
@[simp] theorem wx_hart_waitFrom (s : State) (r : BitVec 5) (v : Word) : (wx s r v).hart.waitFrom = s.hart.waitFrom := by unfold wx; split <;> rfl
@[simp] theorem wx_hart_pc (s : State) (r : BitVec 5) (v : Word) : (wx s r v).hart.pc = s.hart.pc := by unfold wx; split <;> rfl
@[simp] theorem wx_hart_fcsr (s : State) (r : BitVec 5) (v : Word) : (wx s r v).hart.fcsr = s.hart.fcsr := by unfold wx; split <;> rfl
@[simp] theorem wx_hart_vec (s : State) (r : BitVec 5) (v : Word) : (wx s r v).hart.vec = s.hart.vec := by unfold wx; split <;> rfl
@[simp] theorem wx_hart_mat (s : State) (r : BitVec 5) (v : Word) : (wx s r v).hart.mat = s.hart.mat := by unfold wx; split <;> rfl
@[simp] theorem wx_hart_h (s : State) (r : BitVec 5) (v : Word) : (wx s r v).hart.h = s.hart.h := by unfold wx; split <;> rfl
@[simp] theorem wx_hart_c (s : State) (r : BitVec 5) (v : Word) : (wx s r v).hart.c = s.hart.c := by unfold wx; split <;> rfl
@[simp] theorem wx_hart_eng (s : State) (r : BitVec 5) (v : Word) : (wx s r v).hart.eng = s.hart.eng := by unfold wx; split <;> rfl
@[simp] theorem wx_hart_trap (s : State) (r : BitVec 5) (v : Word) : (wx s r v).hart.trap = s.hart.trap := by unfold wx; split <;> rfl
@[simp] theorem wx_hart_ev (s : State) (r : BitVec 5) (v : Word) : (wx s r v).hart.ev = s.hart.ev := by unfold wx; split <;> rfl
@[simp] theorem wx_hart_evsel (s : State) (r : BitVec 5) (v : Word) : (wx s r v).hart.evsel = s.hart.evsel := by unfold wx; split <;> rfl
@[simp] theorem wx_hart_ccache (s : State) (r : BitVec 5) (v : Word) : (wx s r v).hart.ccache = s.hart.ccache := by unfold wx; split <;> rfl
@[simp] theorem wx_hart_icache (s : State) (r : BitVec 5) (v : Word) : (wx s r v).hart.icache = s.hart.icache := by unfold wx; split <;> rfl
@[simp] theorem wx_others (s : State) (r : BitVec 5) (v : Word) : (wx s r v).others = s.others := by unfold wx; split <;> rfl
@[simp] theorem wx_mem (s : State) (r : BitVec 5) (v : Word) : (wx s r v).mem = s.mem := by unfold wx; split <;> rfl
@[simp] theorem wx_poison (s : State) (r : BitVec 5) (v : Word) : (wx s r v).poison = s.poison := by unfold wx; split <;> rfl
@[simp] theorem wx_tlb (s : State) (r : BitVec 5) (v : Word) : (wx s r v).tlb = s.tlb := by unfold wx; split <;> rfl
@[simp] theorem wx_wcache (s : State) (r : BitVec 5) (v : Word) : (wx s r v).wcache = s.wcache := by unfold wx; split <;> rfl
@[simp] theorem wx_lines (s : State) (r : BitVec 5) (v : Word) : (wx s r v).lines = s.lines := by unfold wx; split <;> rfl
@[simp] theorem wx_images (s : State) (r : BitVec 5) (v : Word) : (wx s r v).images = s.images := by unfold wx; split <;> rfl
@[simp] theorem wx_migs (s : State) (r : BitVec 5) (v : Word) : (wx s r v).migs = s.migs := by unfold wx; split <;> rfl
@[simp] theorem wx_banks (s : State) (r : BitVec 5) (v : Word) : (wx s r v).banks = s.banks := by unfold wx; split <;> rfl
@[simp] theorem wx_cores (s : State) (r : BitVec 5) (v : Word) : (wx s r v).cores = s.cores := by unfold wx; split <;> rfl
@[simp] theorem wx_dies (s : State) (r : BitVec 5) (v : Word) : (wx s r v).dies = s.dies := by unfold wx; split <;> rfl
@[simp] theorem wx_relays (s : State) (r : BitVec 5) (v : Word) : (wx s r v).relays = s.relays := by unfold wx; split <;> rfl
@[simp] theorem wx_sched (s : State) (r : BitVec 5) (v : Word) : (wx s r v).sched = s.sched := by unfold wx; split <;> rfl
@[simp] theorem wx_hub (s : State) (r : BitVec 5) (v : Word) : (wx s r v).hub = s.hub := by unfold wx; split <;> rfl
@[simp] theorem wx_time (s : State) (r : BitVec 5) (v : Word) : (wx s r v).time = s.time := by unfold wx; split <;> rfl
@[simp] theorem wx_power (s : State) (r : BitVec 5) (v : Word) : (wx s r v).power = s.power := by unfold wx; split <;> rfl
@[simp] theorem wx_colls (s : State) (r : BitVec 5) (v : Word) : (wx s r v).colls = s.colls := by unfold wx; split <;> rfl
@[simp] theorem wx_msix (s : State) (r : BitVec 5) (v : Word) : (wx s r v).msix = s.msix := by unfold wx; split <;> rfl
@[simp] theorem wx_hostData (s : State) (r : BitVec 5) (v : Word) : (wx s r v).hostData = s.hostData := by unfold wx; split <;> rfl
@[simp] theorem wx_hostEp (s : State) (r : BitVec 5) (v : Word) : (wx s r v).hostEp = s.hostEp := by unfold wx; split <;> rfl
@[simp] theorem wx_nextId (s : State) (r : BitVec 5) (v : Word) : (wx s r v).nextId = s.nextId := by unfold wx; split <;> rfl
@[simp] theorem wx_freeIdx (s : State) (r : BitVec 5) (v : Word) : (wx s r v).freeIdx = s.freeIdx := by unfold wx; split <;> rfl
@[simp] theorem wx_agenda (s : State) (r : BitVec 5) (v : Word) : (wx s r v).agenda = s.agenda := by unfold wx; split <;> rfl

/-! `ww` -/
@[simp] theorem ww_hart_who (s : State) (r : BitVec 6) (v : Word) : (ww s r v).hart.who = s.hart.who := rfl
@[simp] theorem ww_hart_status (s : State) (r : BitVec 6) (v : Word) : (ww s r v).hart.status = s.hart.status := rfl
@[simp] theorem ww_hart_stopReq (s : State) (r : BitVec 6) (v : Word) : (ww s r v).hart.stopReq = s.hart.stopReq := rfl
@[simp] theorem ww_hart_stopped (s : State) (r : BitVec 6) (v : Word) : (ww s r v).hart.stopped = s.hart.stopped := rfl
@[simp] theorem ww_hart_sameCore (s : State) (r : BitVec 6) (v : Word) : (ww s r v).hart.sameCore = s.hart.sameCore := rfl
@[simp] theorem ww_hart_world (s : State) (r : BitVec 6) (v : Word) : (ww s r v).hart.world = s.hart.world := rfl
@[simp] theorem ww_hart_remote (s : State) (r : BitVec 6) (v : Word) : (ww s r v).hart.remote = s.hart.remote := rfl
@[simp] theorem ww_hart_pins (s : State) (r : BitVec 6) (v : Word) : (ww s r v).hart.pins = s.hart.pins := rfl
@[simp] theorem ww_hart_strike (s : State) (r : BitVec 6) (v : Word) : (ww s r v).hart.strike = s.hart.strike := rfl
@[simp] theorem ww_hart_weak (s : State) (r : BitVec 6) (v : Word) : (ww s r v).hart.weak = s.hart.weak := rfl
@[simp] theorem ww_hart_waitFrom (s : State) (r : BitVec 6) (v : Word) : (ww s r v).hart.waitFrom = s.hart.waitFrom := rfl
@[simp] theorem ww_hart_x (s : State) (r : BitVec 6) (v : Word) : (ww s r v).hart.x = s.hart.x := rfl
@[simp] theorem ww_hart_pc (s : State) (r : BitVec 6) (v : Word) : (ww s r v).hart.pc = s.hart.pc := rfl
@[simp] theorem ww_hart_fcsr (s : State) (r : BitVec 6) (v : Word) : (ww s r v).hart.fcsr = s.hart.fcsr := rfl
@[simp] theorem ww_hart_mat (s : State) (r : BitVec 6) (v : Word) : (ww s r v).hart.mat = s.hart.mat := rfl
@[simp] theorem ww_hart_h (s : State) (r : BitVec 6) (v : Word) : (ww s r v).hart.h = s.hart.h := rfl
@[simp] theorem ww_hart_c (s : State) (r : BitVec 6) (v : Word) : (ww s r v).hart.c = s.hart.c := rfl
@[simp] theorem ww_hart_eng (s : State) (r : BitVec 6) (v : Word) : (ww s r v).hart.eng = s.hart.eng := rfl
@[simp] theorem ww_hart_trap (s : State) (r : BitVec 6) (v : Word) : (ww s r v).hart.trap = s.hart.trap := rfl
@[simp] theorem ww_hart_ev (s : State) (r : BitVec 6) (v : Word) : (ww s r v).hart.ev = s.hart.ev := rfl
@[simp] theorem ww_hart_evsel (s : State) (r : BitVec 6) (v : Word) : (ww s r v).hart.evsel = s.hart.evsel := rfl
@[simp] theorem ww_hart_ccache (s : State) (r : BitVec 6) (v : Word) : (ww s r v).hart.ccache = s.hart.ccache := rfl
@[simp] theorem ww_hart_icache (s : State) (r : BitVec 6) (v : Word) : (ww s r v).hart.icache = s.hart.icache := rfl
@[simp] theorem ww_others (s : State) (r : BitVec 6) (v : Word) : (ww s r v).others = s.others := rfl
@[simp] theorem ww_mem (s : State) (r : BitVec 6) (v : Word) : (ww s r v).mem = s.mem := rfl
@[simp] theorem ww_poison (s : State) (r : BitVec 6) (v : Word) : (ww s r v).poison = s.poison := rfl
@[simp] theorem ww_tlb (s : State) (r : BitVec 6) (v : Word) : (ww s r v).tlb = s.tlb := rfl
@[simp] theorem ww_wcache (s : State) (r : BitVec 6) (v : Word) : (ww s r v).wcache = s.wcache := rfl
@[simp] theorem ww_lines (s : State) (r : BitVec 6) (v : Word) : (ww s r v).lines = s.lines := rfl
@[simp] theorem ww_images (s : State) (r : BitVec 6) (v : Word) : (ww s r v).images = s.images := rfl
@[simp] theorem ww_migs (s : State) (r : BitVec 6) (v : Word) : (ww s r v).migs = s.migs := rfl
@[simp] theorem ww_banks (s : State) (r : BitVec 6) (v : Word) : (ww s r v).banks = s.banks := rfl
@[simp] theorem ww_cores (s : State) (r : BitVec 6) (v : Word) : (ww s r v).cores = s.cores := rfl
@[simp] theorem ww_dies (s : State) (r : BitVec 6) (v : Word) : (ww s r v).dies = s.dies := rfl
@[simp] theorem ww_relays (s : State) (r : BitVec 6) (v : Word) : (ww s r v).relays = s.relays := rfl
@[simp] theorem ww_sched (s : State) (r : BitVec 6) (v : Word) : (ww s r v).sched = s.sched := rfl
@[simp] theorem ww_hub (s : State) (r : BitVec 6) (v : Word) : (ww s r v).hub = s.hub := rfl
@[simp] theorem ww_time (s : State) (r : BitVec 6) (v : Word) : (ww s r v).time = s.time := rfl
@[simp] theorem ww_power (s : State) (r : BitVec 6) (v : Word) : (ww s r v).power = s.power := rfl
@[simp] theorem ww_colls (s : State) (r : BitVec 6) (v : Word) : (ww s r v).colls = s.colls := rfl
@[simp] theorem ww_msix (s : State) (r : BitVec 6) (v : Word) : (ww s r v).msix = s.msix := rfl
@[simp] theorem ww_hostData (s : State) (r : BitVec 6) (v : Word) : (ww s r v).hostData = s.hostData := rfl
@[simp] theorem ww_hostEp (s : State) (r : BitVec 6) (v : Word) : (ww s r v).hostEp = s.hostEp := rfl
@[simp] theorem ww_nextId (s : State) (r : BitVec 6) (v : Word) : (ww s r v).nextId = s.nextId := rfl
@[simp] theorem ww_freeIdx (s : State) (r : BitVec 6) (v : Word) : (ww s r v).freeIdx = s.freeIdx := rfl
@[simp] theorem ww_agenda (s : State) (r : BitVec 6) (v : Word) : (ww s r v).agenda = s.agenda := rfl

/-! `wm` -/
@[simp] theorem wm_hart_who (s : State) (k : Nat) (v : BitVec 1024) : (wm s k v).hart.who = s.hart.who := by unfold wm; split <;> rfl
@[simp] theorem wm_hart_status (s : State) (k : Nat) (v : BitVec 1024) : (wm s k v).hart.status = s.hart.status := by unfold wm; split <;> rfl
@[simp] theorem wm_hart_stopReq (s : State) (k : Nat) (v : BitVec 1024) : (wm s k v).hart.stopReq = s.hart.stopReq := by unfold wm; split <;> rfl
@[simp] theorem wm_hart_stopped (s : State) (k : Nat) (v : BitVec 1024) : (wm s k v).hart.stopped = s.hart.stopped := by unfold wm; split <;> rfl
@[simp] theorem wm_hart_sameCore (s : State) (k : Nat) (v : BitVec 1024) : (wm s k v).hart.sameCore = s.hart.sameCore := by unfold wm; split <;> rfl
@[simp] theorem wm_hart_world (s : State) (k : Nat) (v : BitVec 1024) : (wm s k v).hart.world = s.hart.world := by unfold wm; split <;> rfl
@[simp] theorem wm_hart_remote (s : State) (k : Nat) (v : BitVec 1024) : (wm s k v).hart.remote = s.hart.remote := by unfold wm; split <;> rfl
@[simp] theorem wm_hart_pins (s : State) (k : Nat) (v : BitVec 1024) : (wm s k v).hart.pins = s.hart.pins := by unfold wm; split <;> rfl
@[simp] theorem wm_hart_strike (s : State) (k : Nat) (v : BitVec 1024) : (wm s k v).hart.strike = s.hart.strike := by unfold wm; split <;> rfl
@[simp] theorem wm_hart_weak (s : State) (k : Nat) (v : BitVec 1024) : (wm s k v).hart.weak = s.hart.weak := by unfold wm; split <;> rfl
@[simp] theorem wm_hart_waitFrom (s : State) (k : Nat) (v : BitVec 1024) : (wm s k v).hart.waitFrom = s.hart.waitFrom := by unfold wm; split <;> rfl
@[simp] theorem wm_hart_x (s : State) (k : Nat) (v : BitVec 1024) : (wm s k v).hart.x = s.hart.x := by unfold wm; split <;> rfl
@[simp] theorem wm_hart_pc (s : State) (k : Nat) (v : BitVec 1024) : (wm s k v).hart.pc = s.hart.pc := by unfold wm; split <;> rfl
@[simp] theorem wm_hart_fcsr (s : State) (k : Nat) (v : BitVec 1024) : (wm s k v).hart.fcsr = s.hart.fcsr := by unfold wm; split <;> rfl
@[simp] theorem wm_hart_mat (s : State) (k : Nat) (v : BitVec 1024) : (wm s k v).hart.mat = s.hart.mat := by unfold wm; split <;> rfl
@[simp] theorem wm_hart_h (s : State) (k : Nat) (v : BitVec 1024) : (wm s k v).hart.h = s.hart.h := by unfold wm; split <;> rfl
@[simp] theorem wm_hart_c (s : State) (k : Nat) (v : BitVec 1024) : (wm s k v).hart.c = s.hart.c := by unfold wm; split <;> rfl
@[simp] theorem wm_hart_eng (s : State) (k : Nat) (v : BitVec 1024) : (wm s k v).hart.eng = s.hart.eng := by unfold wm; split <;> rfl
@[simp] theorem wm_hart_trap (s : State) (k : Nat) (v : BitVec 1024) : (wm s k v).hart.trap = s.hart.trap := by unfold wm; split <;> rfl
@[simp] theorem wm_hart_ev (s : State) (k : Nat) (v : BitVec 1024) : (wm s k v).hart.ev = s.hart.ev := by unfold wm; split <;> rfl
@[simp] theorem wm_hart_evsel (s : State) (k : Nat) (v : BitVec 1024) : (wm s k v).hart.evsel = s.hart.evsel := by unfold wm; split <;> rfl
@[simp] theorem wm_hart_ccache (s : State) (k : Nat) (v : BitVec 1024) : (wm s k v).hart.ccache = s.hart.ccache := by unfold wm; split <;> rfl
@[simp] theorem wm_hart_icache (s : State) (k : Nat) (v : BitVec 1024) : (wm s k v).hart.icache = s.hart.icache := by unfold wm; split <;> rfl
@[simp] theorem wm_others (s : State) (k : Nat) (v : BitVec 1024) : (wm s k v).others = s.others := by unfold wm; split <;> rfl
@[simp] theorem wm_mem (s : State) (k : Nat) (v : BitVec 1024) : (wm s k v).mem = s.mem := by unfold wm; split <;> rfl
@[simp] theorem wm_poison (s : State) (k : Nat) (v : BitVec 1024) : (wm s k v).poison = s.poison := by unfold wm; split <;> rfl
@[simp] theorem wm_tlb (s : State) (k : Nat) (v : BitVec 1024) : (wm s k v).tlb = s.tlb := by unfold wm; split <;> rfl
@[simp] theorem wm_wcache (s : State) (k : Nat) (v : BitVec 1024) : (wm s k v).wcache = s.wcache := by unfold wm; split <;> rfl
@[simp] theorem wm_lines (s : State) (k : Nat) (v : BitVec 1024) : (wm s k v).lines = s.lines := by unfold wm; split <;> rfl
@[simp] theorem wm_images (s : State) (k : Nat) (v : BitVec 1024) : (wm s k v).images = s.images := by unfold wm; split <;> rfl
@[simp] theorem wm_migs (s : State) (k : Nat) (v : BitVec 1024) : (wm s k v).migs = s.migs := by unfold wm; split <;> rfl
@[simp] theorem wm_banks (s : State) (k : Nat) (v : BitVec 1024) : (wm s k v).banks = s.banks := by unfold wm; split <;> rfl
@[simp] theorem wm_cores (s : State) (k : Nat) (v : BitVec 1024) : (wm s k v).cores = s.cores := by unfold wm; split <;> rfl
@[simp] theorem wm_dies (s : State) (k : Nat) (v : BitVec 1024) : (wm s k v).dies = s.dies := by unfold wm; split <;> rfl
@[simp] theorem wm_relays (s : State) (k : Nat) (v : BitVec 1024) : (wm s k v).relays = s.relays := by unfold wm; split <;> rfl
@[simp] theorem wm_sched (s : State) (k : Nat) (v : BitVec 1024) : (wm s k v).sched = s.sched := by unfold wm; split <;> rfl
@[simp] theorem wm_hub (s : State) (k : Nat) (v : BitVec 1024) : (wm s k v).hub = s.hub := by unfold wm; split <;> rfl
@[simp] theorem wm_time (s : State) (k : Nat) (v : BitVec 1024) : (wm s k v).time = s.time := by unfold wm; split <;> rfl
@[simp] theorem wm_power (s : State) (k : Nat) (v : BitVec 1024) : (wm s k v).power = s.power := by unfold wm; split <;> rfl
@[simp] theorem wm_colls (s : State) (k : Nat) (v : BitVec 1024) : (wm s k v).colls = s.colls := by unfold wm; split <;> rfl
@[simp] theorem wm_msix (s : State) (k : Nat) (v : BitVec 1024) : (wm s k v).msix = s.msix := by unfold wm; split <;> rfl
@[simp] theorem wm_hostData (s : State) (k : Nat) (v : BitVec 1024) : (wm s k v).hostData = s.hostData := by unfold wm; split <;> rfl
@[simp] theorem wm_hostEp (s : State) (k : Nat) (v : BitVec 1024) : (wm s k v).hostEp = s.hostEp := by unfold wm; split <;> rfl
@[simp] theorem wm_nextId (s : State) (k : Nat) (v : BitVec 1024) : (wm s k v).nextId = s.nextId := by unfold wm; split <;> rfl
@[simp] theorem wm_freeIdx (s : State) (k : Nat) (v : BitVec 1024) : (wm s k v).freeIdx = s.freeIdx := by unfold wm; split <;> rfl
@[simp] theorem wm_agenda (s : State) (k : Nat) (v : BitVec 1024) : (wm s k v).agenda = s.agenda := by unfold wm; split <;> rfl

/-! `wh` -/
@[simp] theorem wh_hart_who (s : State) (k : Nat) (v : Handle) : (wh s k v).hart.who = s.hart.who := by unfold wh; split <;> rfl
@[simp] theorem wh_hart_status (s : State) (k : Nat) (v : Handle) : (wh s k v).hart.status = s.hart.status := by unfold wh; split <;> rfl
@[simp] theorem wh_hart_stopReq (s : State) (k : Nat) (v : Handle) : (wh s k v).hart.stopReq = s.hart.stopReq := by unfold wh; split <;> rfl
@[simp] theorem wh_hart_stopped (s : State) (k : Nat) (v : Handle) : (wh s k v).hart.stopped = s.hart.stopped := by unfold wh; split <;> rfl
@[simp] theorem wh_hart_sameCore (s : State) (k : Nat) (v : Handle) : (wh s k v).hart.sameCore = s.hart.sameCore := by unfold wh; split <;> rfl
@[simp] theorem wh_hart_world (s : State) (k : Nat) (v : Handle) : (wh s k v).hart.world = s.hart.world := by unfold wh; split <;> rfl
@[simp] theorem wh_hart_remote (s : State) (k : Nat) (v : Handle) : (wh s k v).hart.remote = s.hart.remote := by unfold wh; split <;> rfl
@[simp] theorem wh_hart_pins (s : State) (k : Nat) (v : Handle) : (wh s k v).hart.pins = s.hart.pins := by unfold wh; split <;> rfl
@[simp] theorem wh_hart_strike (s : State) (k : Nat) (v : Handle) : (wh s k v).hart.strike = s.hart.strike := by unfold wh; split <;> rfl
@[simp] theorem wh_hart_weak (s : State) (k : Nat) (v : Handle) : (wh s k v).hart.weak = s.hart.weak := by unfold wh; split <;> rfl
@[simp] theorem wh_hart_waitFrom (s : State) (k : Nat) (v : Handle) : (wh s k v).hart.waitFrom = s.hart.waitFrom := by unfold wh; split <;> rfl
@[simp] theorem wh_hart_x (s : State) (k : Nat) (v : Handle) : (wh s k v).hart.x = s.hart.x := by unfold wh; split <;> rfl
@[simp] theorem wh_hart_pc (s : State) (k : Nat) (v : Handle) : (wh s k v).hart.pc = s.hart.pc := by unfold wh; split <;> rfl
@[simp] theorem wh_hart_fcsr (s : State) (k : Nat) (v : Handle) : (wh s k v).hart.fcsr = s.hart.fcsr := by unfold wh; split <;> rfl
@[simp] theorem wh_hart_vec (s : State) (k : Nat) (v : Handle) : (wh s k v).hart.vec = s.hart.vec := by unfold wh; split <;> rfl
@[simp] theorem wh_hart_mat (s : State) (k : Nat) (v : Handle) : (wh s k v).hart.mat = s.hart.mat := by unfold wh; split <;> rfl
@[simp] theorem wh_hart_c (s : State) (k : Nat) (v : Handle) : (wh s k v).hart.c = s.hart.c := by unfold wh; split <;> rfl
@[simp] theorem wh_hart_eng (s : State) (k : Nat) (v : Handle) : (wh s k v).hart.eng = s.hart.eng := by unfold wh; split <;> rfl
@[simp] theorem wh_hart_trap (s : State) (k : Nat) (v : Handle) : (wh s k v).hart.trap = s.hart.trap := by unfold wh; split <;> rfl
@[simp] theorem wh_hart_ev (s : State) (k : Nat) (v : Handle) : (wh s k v).hart.ev = s.hart.ev := by unfold wh; split <;> rfl
@[simp] theorem wh_hart_evsel (s : State) (k : Nat) (v : Handle) : (wh s k v).hart.evsel = s.hart.evsel := by unfold wh; split <;> rfl
@[simp] theorem wh_hart_ccache (s : State) (k : Nat) (v : Handle) : (wh s k v).hart.ccache = s.hart.ccache := by unfold wh; split <;> rfl
@[simp] theorem wh_hart_icache (s : State) (k : Nat) (v : Handle) : (wh s k v).hart.icache = s.hart.icache := by unfold wh; split <;> rfl
@[simp] theorem wh_others (s : State) (k : Nat) (v : Handle) : (wh s k v).others = s.others := by unfold wh; split <;> rfl
@[simp] theorem wh_mem (s : State) (k : Nat) (v : Handle) : (wh s k v).mem = s.mem := by unfold wh; split <;> rfl
@[simp] theorem wh_poison (s : State) (k : Nat) (v : Handle) : (wh s k v).poison = s.poison := by unfold wh; split <;> rfl
@[simp] theorem wh_tlb (s : State) (k : Nat) (v : Handle) : (wh s k v).tlb = s.tlb := by unfold wh; split <;> rfl
@[simp] theorem wh_wcache (s : State) (k : Nat) (v : Handle) : (wh s k v).wcache = s.wcache := by unfold wh; split <;> rfl
@[simp] theorem wh_lines (s : State) (k : Nat) (v : Handle) : (wh s k v).lines = s.lines := by unfold wh; split <;> rfl
@[simp] theorem wh_images (s : State) (k : Nat) (v : Handle) : (wh s k v).images = s.images := by unfold wh; split <;> rfl
@[simp] theorem wh_migs (s : State) (k : Nat) (v : Handle) : (wh s k v).migs = s.migs := by unfold wh; split <;> rfl
@[simp] theorem wh_banks (s : State) (k : Nat) (v : Handle) : (wh s k v).banks = s.banks := by unfold wh; split <;> rfl
@[simp] theorem wh_cores (s : State) (k : Nat) (v : Handle) : (wh s k v).cores = s.cores := by unfold wh; split <;> rfl
@[simp] theorem wh_dies (s : State) (k : Nat) (v : Handle) : (wh s k v).dies = s.dies := by unfold wh; split <;> rfl
@[simp] theorem wh_relays (s : State) (k : Nat) (v : Handle) : (wh s k v).relays = s.relays := by unfold wh; split <;> rfl
@[simp] theorem wh_sched (s : State) (k : Nat) (v : Handle) : (wh s k v).sched = s.sched := by unfold wh; split <;> rfl
@[simp] theorem wh_hub (s : State) (k : Nat) (v : Handle) : (wh s k v).hub = s.hub := by unfold wh; split <;> rfl
@[simp] theorem wh_time (s : State) (k : Nat) (v : Handle) : (wh s k v).time = s.time := by unfold wh; split <;> rfl
@[simp] theorem wh_power (s : State) (k : Nat) (v : Handle) : (wh s k v).power = s.power := by unfold wh; split <;> rfl
@[simp] theorem wh_colls (s : State) (k : Nat) (v : Handle) : (wh s k v).colls = s.colls := by unfold wh; split <;> rfl
@[simp] theorem wh_msix (s : State) (k : Nat) (v : Handle) : (wh s k v).msix = s.msix := by unfold wh; split <;> rfl
@[simp] theorem wh_hostData (s : State) (k : Nat) (v : Handle) : (wh s k v).hostData = s.hostData := by unfold wh; split <;> rfl
@[simp] theorem wh_hostEp (s : State) (k : Nat) (v : Handle) : (wh s k v).hostEp = s.hostEp := by unfold wh; split <;> rfl
@[simp] theorem wh_nextId (s : State) (k : Nat) (v : Handle) : (wh s k v).nextId = s.nextId := by unfold wh; split <;> rfl
@[simp] theorem wh_freeIdx (s : State) (k : Nat) (v : Handle) : (wh s k v).freeIdx = s.freeIdx := by unfold wh; split <;> rfl
@[simp] theorem wh_agenda (s : State) (k : Nat) (v : Handle) : (wh s k v).agenda = s.agenda := by unfold wh; split <;> rfl

/-! `wc` -/
@[simp] theorem wc_hart_who (s : State) (k : Nat) (v : Counter) : (wc s k v).hart.who = s.hart.who := by unfold wc; split <;> rfl
@[simp] theorem wc_hart_status (s : State) (k : Nat) (v : Counter) : (wc s k v).hart.status = s.hart.status := by unfold wc; split <;> rfl
@[simp] theorem wc_hart_stopReq (s : State) (k : Nat) (v : Counter) : (wc s k v).hart.stopReq = s.hart.stopReq := by unfold wc; split <;> rfl
@[simp] theorem wc_hart_stopped (s : State) (k : Nat) (v : Counter) : (wc s k v).hart.stopped = s.hart.stopped := by unfold wc; split <;> rfl
@[simp] theorem wc_hart_sameCore (s : State) (k : Nat) (v : Counter) : (wc s k v).hart.sameCore = s.hart.sameCore := by unfold wc; split <;> rfl
@[simp] theorem wc_hart_world (s : State) (k : Nat) (v : Counter) : (wc s k v).hart.world = s.hart.world := by unfold wc; split <;> rfl
@[simp] theorem wc_hart_remote (s : State) (k : Nat) (v : Counter) : (wc s k v).hart.remote = s.hart.remote := by unfold wc; split <;> rfl
@[simp] theorem wc_hart_pins (s : State) (k : Nat) (v : Counter) : (wc s k v).hart.pins = s.hart.pins := by unfold wc; split <;> rfl
@[simp] theorem wc_hart_strike (s : State) (k : Nat) (v : Counter) : (wc s k v).hart.strike = s.hart.strike := by unfold wc; split <;> rfl
@[simp] theorem wc_hart_weak (s : State) (k : Nat) (v : Counter) : (wc s k v).hart.weak = s.hart.weak := by unfold wc; split <;> rfl
@[simp] theorem wc_hart_waitFrom (s : State) (k : Nat) (v : Counter) : (wc s k v).hart.waitFrom = s.hart.waitFrom := by unfold wc; split <;> rfl
@[simp] theorem wc_hart_x (s : State) (k : Nat) (v : Counter) : (wc s k v).hart.x = s.hart.x := by unfold wc; split <;> rfl
@[simp] theorem wc_hart_pc (s : State) (k : Nat) (v : Counter) : (wc s k v).hart.pc = s.hart.pc := by unfold wc; split <;> rfl
@[simp] theorem wc_hart_fcsr (s : State) (k : Nat) (v : Counter) : (wc s k v).hart.fcsr = s.hart.fcsr := by unfold wc; split <;> rfl
@[simp] theorem wc_hart_vec (s : State) (k : Nat) (v : Counter) : (wc s k v).hart.vec = s.hart.vec := by unfold wc; split <;> rfl
@[simp] theorem wc_hart_mat (s : State) (k : Nat) (v : Counter) : (wc s k v).hart.mat = s.hart.mat := by unfold wc; split <;> rfl
@[simp] theorem wc_hart_h (s : State) (k : Nat) (v : Counter) : (wc s k v).hart.h = s.hart.h := by unfold wc; split <;> rfl
@[simp] theorem wc_hart_eng (s : State) (k : Nat) (v : Counter) : (wc s k v).hart.eng = s.hart.eng := by unfold wc; split <;> rfl
@[simp] theorem wc_hart_trap (s : State) (k : Nat) (v : Counter) : (wc s k v).hart.trap = s.hart.trap := by unfold wc; split <;> rfl
@[simp] theorem wc_hart_ev (s : State) (k : Nat) (v : Counter) : (wc s k v).hart.ev = s.hart.ev := by unfold wc; split <;> rfl
@[simp] theorem wc_hart_evsel (s : State) (k : Nat) (v : Counter) : (wc s k v).hart.evsel = s.hart.evsel := by unfold wc; split <;> rfl
@[simp] theorem wc_hart_ccache (s : State) (k : Nat) (v : Counter) : (wc s k v).hart.ccache = s.hart.ccache := by unfold wc; split <;> rfl
@[simp] theorem wc_hart_icache (s : State) (k : Nat) (v : Counter) : (wc s k v).hart.icache = s.hart.icache := by unfold wc; split <;> rfl
@[simp] theorem wc_others (s : State) (k : Nat) (v : Counter) : (wc s k v).others = s.others := by unfold wc; split <;> rfl
@[simp] theorem wc_mem (s : State) (k : Nat) (v : Counter) : (wc s k v).mem = s.mem := by unfold wc; split <;> rfl
@[simp] theorem wc_poison (s : State) (k : Nat) (v : Counter) : (wc s k v).poison = s.poison := by unfold wc; split <;> rfl
@[simp] theorem wc_tlb (s : State) (k : Nat) (v : Counter) : (wc s k v).tlb = s.tlb := by unfold wc; split <;> rfl
@[simp] theorem wc_wcache (s : State) (k : Nat) (v : Counter) : (wc s k v).wcache = s.wcache := by unfold wc; split <;> rfl
@[simp] theorem wc_lines (s : State) (k : Nat) (v : Counter) : (wc s k v).lines = s.lines := by unfold wc; split <;> rfl
@[simp] theorem wc_images (s : State) (k : Nat) (v : Counter) : (wc s k v).images = s.images := by unfold wc; split <;> rfl
@[simp] theorem wc_migs (s : State) (k : Nat) (v : Counter) : (wc s k v).migs = s.migs := by unfold wc; split <;> rfl
@[simp] theorem wc_banks (s : State) (k : Nat) (v : Counter) : (wc s k v).banks = s.banks := by unfold wc; split <;> rfl
@[simp] theorem wc_cores (s : State) (k : Nat) (v : Counter) : (wc s k v).cores = s.cores := by unfold wc; split <;> rfl
@[simp] theorem wc_dies (s : State) (k : Nat) (v : Counter) : (wc s k v).dies = s.dies := by unfold wc; split <;> rfl
@[simp] theorem wc_relays (s : State) (k : Nat) (v : Counter) : (wc s k v).relays = s.relays := by unfold wc; split <;> rfl
@[simp] theorem wc_sched (s : State) (k : Nat) (v : Counter) : (wc s k v).sched = s.sched := by unfold wc; split <;> rfl
@[simp] theorem wc_hub (s : State) (k : Nat) (v : Counter) : (wc s k v).hub = s.hub := by unfold wc; split <;> rfl
@[simp] theorem wc_time (s : State) (k : Nat) (v : Counter) : (wc s k v).time = s.time := by unfold wc; split <;> rfl
@[simp] theorem wc_power (s : State) (k : Nat) (v : Counter) : (wc s k v).power = s.power := by unfold wc; split <;> rfl
@[simp] theorem wc_colls (s : State) (k : Nat) (v : Counter) : (wc s k v).colls = s.colls := by unfold wc; split <;> rfl
@[simp] theorem wc_msix (s : State) (k : Nat) (v : Counter) : (wc s k v).msix = s.msix := by unfold wc; split <;> rfl
@[simp] theorem wc_hostData (s : State) (k : Nat) (v : Counter) : (wc s k v).hostData = s.hostData := by unfold wc; split <;> rfl
@[simp] theorem wc_hostEp (s : State) (k : Nat) (v : Counter) : (wc s k v).hostEp = s.hostEp := by unfold wc; split <;> rfl
@[simp] theorem wc_nextId (s : State) (k : Nat) (v : Counter) : (wc s k v).nextId = s.nextId := by unfold wc; split <;> rfl
@[simp] theorem wc_freeIdx (s : State) (k : Nat) (v : Counter) : (wc s k v).freeIdx = s.freeIdx := by unfold wc; split <;> rfl
@[simp] theorem wc_agenda (s : State) (k : Nat) (v : Counter) : (wc s k v).agenda = s.agenda := by unfold wc; split <;> rfl

/-! `withVec` -/
@[simp] theorem withVec_hart_who (s : State) (f : VecState → VecState) : (withVec s f).hart.who = s.hart.who := rfl
@[simp] theorem withVec_hart_status (s : State) (f : VecState → VecState) : (withVec s f).hart.status = s.hart.status := rfl
@[simp] theorem withVec_hart_stopReq (s : State) (f : VecState → VecState) : (withVec s f).hart.stopReq = s.hart.stopReq := rfl
@[simp] theorem withVec_hart_stopped (s : State) (f : VecState → VecState) : (withVec s f).hart.stopped = s.hart.stopped := rfl
@[simp] theorem withVec_hart_sameCore (s : State) (f : VecState → VecState) : (withVec s f).hart.sameCore = s.hart.sameCore := rfl
@[simp] theorem withVec_hart_world (s : State) (f : VecState → VecState) : (withVec s f).hart.world = s.hart.world := rfl
@[simp] theorem withVec_hart_remote (s : State) (f : VecState → VecState) : (withVec s f).hart.remote = s.hart.remote := rfl
@[simp] theorem withVec_hart_pins (s : State) (f : VecState → VecState) : (withVec s f).hart.pins = s.hart.pins := rfl
@[simp] theorem withVec_hart_strike (s : State) (f : VecState → VecState) : (withVec s f).hart.strike = s.hart.strike := rfl
@[simp] theorem withVec_hart_weak (s : State) (f : VecState → VecState) : (withVec s f).hart.weak = s.hart.weak := rfl
@[simp] theorem withVec_hart_waitFrom (s : State) (f : VecState → VecState) : (withVec s f).hart.waitFrom = s.hart.waitFrom := rfl
@[simp] theorem withVec_hart_x (s : State) (f : VecState → VecState) : (withVec s f).hart.x = s.hart.x := rfl
@[simp] theorem withVec_hart_pc (s : State) (f : VecState → VecState) : (withVec s f).hart.pc = s.hart.pc := rfl
@[simp] theorem withVec_hart_fcsr (s : State) (f : VecState → VecState) : (withVec s f).hart.fcsr = s.hart.fcsr := rfl
@[simp] theorem withVec_hart_mat (s : State) (f : VecState → VecState) : (withVec s f).hart.mat = s.hart.mat := rfl
@[simp] theorem withVec_hart_h (s : State) (f : VecState → VecState) : (withVec s f).hart.h = s.hart.h := rfl
@[simp] theorem withVec_hart_c (s : State) (f : VecState → VecState) : (withVec s f).hart.c = s.hart.c := rfl
@[simp] theorem withVec_hart_eng (s : State) (f : VecState → VecState) : (withVec s f).hart.eng = s.hart.eng := rfl
@[simp] theorem withVec_hart_trap (s : State) (f : VecState → VecState) : (withVec s f).hart.trap = s.hart.trap := rfl
@[simp] theorem withVec_hart_ev (s : State) (f : VecState → VecState) : (withVec s f).hart.ev = s.hart.ev := rfl
@[simp] theorem withVec_hart_evsel (s : State) (f : VecState → VecState) : (withVec s f).hart.evsel = s.hart.evsel := rfl
@[simp] theorem withVec_hart_ccache (s : State) (f : VecState → VecState) : (withVec s f).hart.ccache = s.hart.ccache := rfl
@[simp] theorem withVec_hart_icache (s : State) (f : VecState → VecState) : (withVec s f).hart.icache = s.hart.icache := rfl
@[simp] theorem withVec_others (s : State) (f : VecState → VecState) : (withVec s f).others = s.others := rfl
@[simp] theorem withVec_mem (s : State) (f : VecState → VecState) : (withVec s f).mem = s.mem := rfl
@[simp] theorem withVec_poison (s : State) (f : VecState → VecState) : (withVec s f).poison = s.poison := rfl
@[simp] theorem withVec_tlb (s : State) (f : VecState → VecState) : (withVec s f).tlb = s.tlb := rfl
@[simp] theorem withVec_wcache (s : State) (f : VecState → VecState) : (withVec s f).wcache = s.wcache := rfl
@[simp] theorem withVec_lines (s : State) (f : VecState → VecState) : (withVec s f).lines = s.lines := rfl
@[simp] theorem withVec_images (s : State) (f : VecState → VecState) : (withVec s f).images = s.images := rfl
@[simp] theorem withVec_migs (s : State) (f : VecState → VecState) : (withVec s f).migs = s.migs := rfl
@[simp] theorem withVec_banks (s : State) (f : VecState → VecState) : (withVec s f).banks = s.banks := rfl
@[simp] theorem withVec_cores (s : State) (f : VecState → VecState) : (withVec s f).cores = s.cores := rfl
@[simp] theorem withVec_dies (s : State) (f : VecState → VecState) : (withVec s f).dies = s.dies := rfl
@[simp] theorem withVec_relays (s : State) (f : VecState → VecState) : (withVec s f).relays = s.relays := rfl
@[simp] theorem withVec_sched (s : State) (f : VecState → VecState) : (withVec s f).sched = s.sched := rfl
@[simp] theorem withVec_hub (s : State) (f : VecState → VecState) : (withVec s f).hub = s.hub := rfl
@[simp] theorem withVec_time (s : State) (f : VecState → VecState) : (withVec s f).time = s.time := rfl
@[simp] theorem withVec_power (s : State) (f : VecState → VecState) : (withVec s f).power = s.power := rfl
@[simp] theorem withVec_colls (s : State) (f : VecState → VecState) : (withVec s f).colls = s.colls := rfl
@[simp] theorem withVec_msix (s : State) (f : VecState → VecState) : (withVec s f).msix = s.msix := rfl
@[simp] theorem withVec_hostData (s : State) (f : VecState → VecState) : (withVec s f).hostData = s.hostData := rfl
@[simp] theorem withVec_hostEp (s : State) (f : VecState → VecState) : (withVec s f).hostEp = s.hostEp := rfl
@[simp] theorem withVec_nextId (s : State) (f : VecState → VecState) : (withVec s f).nextId = s.nextId := rfl
@[simp] theorem withVec_freeIdx (s : State) (f : VecState → VecState) : (withVec s f).freeIdx = s.freeIdx := rfl
@[simp] theorem withVec_agenda (s : State) (f : VecState → VecState) : (withVec s f).agenda = s.agenda := rfl

/-! `withMat` -/
@[simp] theorem withMat_hart_who (s : State) (f : MatState → MatState) : (withMat s f).hart.who = s.hart.who := rfl
@[simp] theorem withMat_hart_status (s : State) (f : MatState → MatState) : (withMat s f).hart.status = s.hart.status := rfl
@[simp] theorem withMat_hart_stopReq (s : State) (f : MatState → MatState) : (withMat s f).hart.stopReq = s.hart.stopReq := rfl
@[simp] theorem withMat_hart_stopped (s : State) (f : MatState → MatState) : (withMat s f).hart.stopped = s.hart.stopped := rfl
@[simp] theorem withMat_hart_sameCore (s : State) (f : MatState → MatState) : (withMat s f).hart.sameCore = s.hart.sameCore := rfl
@[simp] theorem withMat_hart_world (s : State) (f : MatState → MatState) : (withMat s f).hart.world = s.hart.world := rfl
@[simp] theorem withMat_hart_remote (s : State) (f : MatState → MatState) : (withMat s f).hart.remote = s.hart.remote := rfl
@[simp] theorem withMat_hart_pins (s : State) (f : MatState → MatState) : (withMat s f).hart.pins = s.hart.pins := rfl
@[simp] theorem withMat_hart_strike (s : State) (f : MatState → MatState) : (withMat s f).hart.strike = s.hart.strike := rfl
@[simp] theorem withMat_hart_weak (s : State) (f : MatState → MatState) : (withMat s f).hart.weak = s.hart.weak := rfl
@[simp] theorem withMat_hart_waitFrom (s : State) (f : MatState → MatState) : (withMat s f).hart.waitFrom = s.hart.waitFrom := rfl
@[simp] theorem withMat_hart_x (s : State) (f : MatState → MatState) : (withMat s f).hart.x = s.hart.x := rfl
@[simp] theorem withMat_hart_pc (s : State) (f : MatState → MatState) : (withMat s f).hart.pc = s.hart.pc := rfl
@[simp] theorem withMat_hart_fcsr (s : State) (f : MatState → MatState) : (withMat s f).hart.fcsr = s.hart.fcsr := rfl
@[simp] theorem withMat_hart_vec (s : State) (f : MatState → MatState) : (withMat s f).hart.vec = s.hart.vec := rfl
@[simp] theorem withMat_hart_h (s : State) (f : MatState → MatState) : (withMat s f).hart.h = s.hart.h := rfl
@[simp] theorem withMat_hart_c (s : State) (f : MatState → MatState) : (withMat s f).hart.c = s.hart.c := rfl
@[simp] theorem withMat_hart_eng (s : State) (f : MatState → MatState) : (withMat s f).hart.eng = s.hart.eng := rfl
@[simp] theorem withMat_hart_trap (s : State) (f : MatState → MatState) : (withMat s f).hart.trap = s.hart.trap := rfl
@[simp] theorem withMat_hart_ev (s : State) (f : MatState → MatState) : (withMat s f).hart.ev = s.hart.ev := rfl
@[simp] theorem withMat_hart_evsel (s : State) (f : MatState → MatState) : (withMat s f).hart.evsel = s.hart.evsel := rfl
@[simp] theorem withMat_hart_ccache (s : State) (f : MatState → MatState) : (withMat s f).hart.ccache = s.hart.ccache := rfl
@[simp] theorem withMat_hart_icache (s : State) (f : MatState → MatState) : (withMat s f).hart.icache = s.hart.icache := rfl
@[simp] theorem withMat_others (s : State) (f : MatState → MatState) : (withMat s f).others = s.others := rfl
@[simp] theorem withMat_mem (s : State) (f : MatState → MatState) : (withMat s f).mem = s.mem := rfl
@[simp] theorem withMat_poison (s : State) (f : MatState → MatState) : (withMat s f).poison = s.poison := rfl
@[simp] theorem withMat_tlb (s : State) (f : MatState → MatState) : (withMat s f).tlb = s.tlb := rfl
@[simp] theorem withMat_wcache (s : State) (f : MatState → MatState) : (withMat s f).wcache = s.wcache := rfl
@[simp] theorem withMat_lines (s : State) (f : MatState → MatState) : (withMat s f).lines = s.lines := rfl
@[simp] theorem withMat_images (s : State) (f : MatState → MatState) : (withMat s f).images = s.images := rfl
@[simp] theorem withMat_migs (s : State) (f : MatState → MatState) : (withMat s f).migs = s.migs := rfl
@[simp] theorem withMat_banks (s : State) (f : MatState → MatState) : (withMat s f).banks = s.banks := rfl
@[simp] theorem withMat_cores (s : State) (f : MatState → MatState) : (withMat s f).cores = s.cores := rfl
@[simp] theorem withMat_dies (s : State) (f : MatState → MatState) : (withMat s f).dies = s.dies := rfl
@[simp] theorem withMat_relays (s : State) (f : MatState → MatState) : (withMat s f).relays = s.relays := rfl
@[simp] theorem withMat_sched (s : State) (f : MatState → MatState) : (withMat s f).sched = s.sched := rfl
@[simp] theorem withMat_hub (s : State) (f : MatState → MatState) : (withMat s f).hub = s.hub := rfl
@[simp] theorem withMat_time (s : State) (f : MatState → MatState) : (withMat s f).time = s.time := rfl
@[simp] theorem withMat_power (s : State) (f : MatState → MatState) : (withMat s f).power = s.power := rfl
@[simp] theorem withMat_colls (s : State) (f : MatState → MatState) : (withMat s f).colls = s.colls := rfl
@[simp] theorem withMat_msix (s : State) (f : MatState → MatState) : (withMat s f).msix = s.msix := rfl
@[simp] theorem withMat_hostData (s : State) (f : MatState → MatState) : (withMat s f).hostData = s.hostData := rfl
@[simp] theorem withMat_hostEp (s : State) (f : MatState → MatState) : (withMat s f).hostEp = s.hostEp := rfl
@[simp] theorem withMat_nextId (s : State) (f : MatState → MatState) : (withMat s f).nextId = s.nextId := rfl
@[simp] theorem withMat_freeIdx (s : State) (f : MatState → MatState) : (withMat s f).freeIdx = s.freeIdx := rfl
@[simp] theorem withMat_agenda (s : State) (f : MatState → MatState) : (withMat s f).agenda = s.agenda := rfl

/-! `withEng` -/
@[simp] theorem withEng_hart_who (s : State) (f : EngState → EngState) : (withEng s f).hart.who = s.hart.who := rfl
@[simp] theorem withEng_hart_status (s : State) (f : EngState → EngState) : (withEng s f).hart.status = s.hart.status := rfl
@[simp] theorem withEng_hart_stopReq (s : State) (f : EngState → EngState) : (withEng s f).hart.stopReq = s.hart.stopReq := rfl
@[simp] theorem withEng_hart_stopped (s : State) (f : EngState → EngState) : (withEng s f).hart.stopped = s.hart.stopped := rfl
@[simp] theorem withEng_hart_sameCore (s : State) (f : EngState → EngState) : (withEng s f).hart.sameCore = s.hart.sameCore := rfl
@[simp] theorem withEng_hart_world (s : State) (f : EngState → EngState) : (withEng s f).hart.world = s.hart.world := rfl
@[simp] theorem withEng_hart_remote (s : State) (f : EngState → EngState) : (withEng s f).hart.remote = s.hart.remote := rfl
@[simp] theorem withEng_hart_pins (s : State) (f : EngState → EngState) : (withEng s f).hart.pins = s.hart.pins := rfl
@[simp] theorem withEng_hart_strike (s : State) (f : EngState → EngState) : (withEng s f).hart.strike = s.hart.strike := rfl
@[simp] theorem withEng_hart_weak (s : State) (f : EngState → EngState) : (withEng s f).hart.weak = s.hart.weak := rfl
@[simp] theorem withEng_hart_waitFrom (s : State) (f : EngState → EngState) : (withEng s f).hart.waitFrom = s.hart.waitFrom := rfl
@[simp] theorem withEng_hart_x (s : State) (f : EngState → EngState) : (withEng s f).hart.x = s.hart.x := rfl
@[simp] theorem withEng_hart_pc (s : State) (f : EngState → EngState) : (withEng s f).hart.pc = s.hart.pc := rfl
@[simp] theorem withEng_hart_fcsr (s : State) (f : EngState → EngState) : (withEng s f).hart.fcsr = s.hart.fcsr := rfl
@[simp] theorem withEng_hart_vec (s : State) (f : EngState → EngState) : (withEng s f).hart.vec = s.hart.vec := rfl
@[simp] theorem withEng_hart_mat (s : State) (f : EngState → EngState) : (withEng s f).hart.mat = s.hart.mat := rfl
@[simp] theorem withEng_hart_h (s : State) (f : EngState → EngState) : (withEng s f).hart.h = s.hart.h := rfl
@[simp] theorem withEng_hart_c (s : State) (f : EngState → EngState) : (withEng s f).hart.c = s.hart.c := rfl
@[simp] theorem withEng_hart_trap (s : State) (f : EngState → EngState) : (withEng s f).hart.trap = s.hart.trap := rfl
@[simp] theorem withEng_hart_ev (s : State) (f : EngState → EngState) : (withEng s f).hart.ev = s.hart.ev := rfl
@[simp] theorem withEng_hart_evsel (s : State) (f : EngState → EngState) : (withEng s f).hart.evsel = s.hart.evsel := rfl
@[simp] theorem withEng_hart_ccache (s : State) (f : EngState → EngState) : (withEng s f).hart.ccache = s.hart.ccache := rfl
@[simp] theorem withEng_hart_icache (s : State) (f : EngState → EngState) : (withEng s f).hart.icache = s.hart.icache := rfl
@[simp] theorem withEng_others (s : State) (f : EngState → EngState) : (withEng s f).others = s.others := rfl
@[simp] theorem withEng_mem (s : State) (f : EngState → EngState) : (withEng s f).mem = s.mem := rfl
@[simp] theorem withEng_poison (s : State) (f : EngState → EngState) : (withEng s f).poison = s.poison := rfl
@[simp] theorem withEng_tlb (s : State) (f : EngState → EngState) : (withEng s f).tlb = s.tlb := rfl
@[simp] theorem withEng_wcache (s : State) (f : EngState → EngState) : (withEng s f).wcache = s.wcache := rfl
@[simp] theorem withEng_lines (s : State) (f : EngState → EngState) : (withEng s f).lines = s.lines := rfl
@[simp] theorem withEng_images (s : State) (f : EngState → EngState) : (withEng s f).images = s.images := rfl
@[simp] theorem withEng_migs (s : State) (f : EngState → EngState) : (withEng s f).migs = s.migs := rfl
@[simp] theorem withEng_banks (s : State) (f : EngState → EngState) : (withEng s f).banks = s.banks := rfl
@[simp] theorem withEng_cores (s : State) (f : EngState → EngState) : (withEng s f).cores = s.cores := rfl
@[simp] theorem withEng_dies (s : State) (f : EngState → EngState) : (withEng s f).dies = s.dies := rfl
@[simp] theorem withEng_relays (s : State) (f : EngState → EngState) : (withEng s f).relays = s.relays := rfl
@[simp] theorem withEng_sched (s : State) (f : EngState → EngState) : (withEng s f).sched = s.sched := rfl
@[simp] theorem withEng_hub (s : State) (f : EngState → EngState) : (withEng s f).hub = s.hub := rfl
@[simp] theorem withEng_time (s : State) (f : EngState → EngState) : (withEng s f).time = s.time := rfl
@[simp] theorem withEng_power (s : State) (f : EngState → EngState) : (withEng s f).power = s.power := rfl
@[simp] theorem withEng_colls (s : State) (f : EngState → EngState) : (withEng s f).colls = s.colls := rfl
@[simp] theorem withEng_msix (s : State) (f : EngState → EngState) : (withEng s f).msix = s.msix := rfl
@[simp] theorem withEng_hostData (s : State) (f : EngState → EngState) : (withEng s f).hostData = s.hostData := rfl
@[simp] theorem withEng_hostEp (s : State) (f : EngState → EngState) : (withEng s f).hostEp = s.hostEp := rfl
@[simp] theorem withEng_nextId (s : State) (f : EngState → EngState) : (withEng s f).nextId = s.nextId := rfl
@[simp] theorem withEng_freeIdx (s : State) (f : EngState → EngState) : (withEng s f).freeIdx = s.freeIdx := rfl
@[simp] theorem withEng_agenda (s : State) (f : EngState → EngState) : (withEng s f).agenda = s.agenda := rfl

/-! `orVflags` -/
@[simp] theorem orVflags_hart_who (s : State) (f : Flags) : (orVflags s f).hart.who = s.hart.who := rfl
@[simp] theorem orVflags_hart_status (s : State) (f : Flags) : (orVflags s f).hart.status = s.hart.status := rfl
@[simp] theorem orVflags_hart_stopReq (s : State) (f : Flags) : (orVflags s f).hart.stopReq = s.hart.stopReq := rfl
@[simp] theorem orVflags_hart_stopped (s : State) (f : Flags) : (orVflags s f).hart.stopped = s.hart.stopped := rfl
@[simp] theorem orVflags_hart_sameCore (s : State) (f : Flags) : (orVflags s f).hart.sameCore = s.hart.sameCore := rfl
@[simp] theorem orVflags_hart_world (s : State) (f : Flags) : (orVflags s f).hart.world = s.hart.world := rfl
@[simp] theorem orVflags_hart_remote (s : State) (f : Flags) : (orVflags s f).hart.remote = s.hart.remote := rfl
@[simp] theorem orVflags_hart_pins (s : State) (f : Flags) : (orVflags s f).hart.pins = s.hart.pins := rfl
@[simp] theorem orVflags_hart_strike (s : State) (f : Flags) : (orVflags s f).hart.strike = s.hart.strike := rfl
@[simp] theorem orVflags_hart_weak (s : State) (f : Flags) : (orVflags s f).hart.weak = s.hart.weak := rfl
@[simp] theorem orVflags_hart_waitFrom (s : State) (f : Flags) : (orVflags s f).hart.waitFrom = s.hart.waitFrom := rfl
@[simp] theorem orVflags_hart_x (s : State) (f : Flags) : (orVflags s f).hart.x = s.hart.x := rfl
@[simp] theorem orVflags_hart_pc (s : State) (f : Flags) : (orVflags s f).hart.pc = s.hart.pc := rfl
@[simp] theorem orVflags_hart_fcsr (s : State) (f : Flags) : (orVflags s f).hart.fcsr = s.hart.fcsr := rfl
@[simp] theorem orVflags_hart_mat (s : State) (f : Flags) : (orVflags s f).hart.mat = s.hart.mat := rfl
@[simp] theorem orVflags_hart_h (s : State) (f : Flags) : (orVflags s f).hart.h = s.hart.h := rfl
@[simp] theorem orVflags_hart_c (s : State) (f : Flags) : (orVflags s f).hart.c = s.hart.c := rfl
@[simp] theorem orVflags_hart_eng (s : State) (f : Flags) : (orVflags s f).hart.eng = s.hart.eng := rfl
@[simp] theorem orVflags_hart_trap (s : State) (f : Flags) : (orVflags s f).hart.trap = s.hart.trap := rfl
@[simp] theorem orVflags_hart_ev (s : State) (f : Flags) : (orVflags s f).hart.ev = s.hart.ev := rfl
@[simp] theorem orVflags_hart_evsel (s : State) (f : Flags) : (orVflags s f).hart.evsel = s.hart.evsel := rfl
@[simp] theorem orVflags_hart_ccache (s : State) (f : Flags) : (orVflags s f).hart.ccache = s.hart.ccache := rfl
@[simp] theorem orVflags_hart_icache (s : State) (f : Flags) : (orVflags s f).hart.icache = s.hart.icache := rfl
@[simp] theorem orVflags_others (s : State) (f : Flags) : (orVflags s f).others = s.others := rfl
@[simp] theorem orVflags_mem (s : State) (f : Flags) : (orVflags s f).mem = s.mem := rfl
@[simp] theorem orVflags_poison (s : State) (f : Flags) : (orVflags s f).poison = s.poison := rfl
@[simp] theorem orVflags_tlb (s : State) (f : Flags) : (orVflags s f).tlb = s.tlb := rfl
@[simp] theorem orVflags_wcache (s : State) (f : Flags) : (orVflags s f).wcache = s.wcache := rfl
@[simp] theorem orVflags_lines (s : State) (f : Flags) : (orVflags s f).lines = s.lines := rfl
@[simp] theorem orVflags_images (s : State) (f : Flags) : (orVflags s f).images = s.images := rfl
@[simp] theorem orVflags_migs (s : State) (f : Flags) : (orVflags s f).migs = s.migs := rfl
@[simp] theorem orVflags_banks (s : State) (f : Flags) : (orVflags s f).banks = s.banks := rfl
@[simp] theorem orVflags_cores (s : State) (f : Flags) : (orVflags s f).cores = s.cores := rfl
@[simp] theorem orVflags_dies (s : State) (f : Flags) : (orVflags s f).dies = s.dies := rfl
@[simp] theorem orVflags_relays (s : State) (f : Flags) : (orVflags s f).relays = s.relays := rfl
@[simp] theorem orVflags_sched (s : State) (f : Flags) : (orVflags s f).sched = s.sched := rfl
@[simp] theorem orVflags_hub (s : State) (f : Flags) : (orVflags s f).hub = s.hub := rfl
@[simp] theorem orVflags_time (s : State) (f : Flags) : (orVflags s f).time = s.time := rfl
@[simp] theorem orVflags_power (s : State) (f : Flags) : (orVflags s f).power = s.power := rfl
@[simp] theorem orVflags_colls (s : State) (f : Flags) : (orVflags s f).colls = s.colls := rfl
@[simp] theorem orVflags_msix (s : State) (f : Flags) : (orVflags s f).msix = s.msix := rfl
@[simp] theorem orVflags_hostData (s : State) (f : Flags) : (orVflags s f).hostData = s.hostData := rfl
@[simp] theorem orVflags_hostEp (s : State) (f : Flags) : (orVflags s f).hostEp = s.hostEp := rfl
@[simp] theorem orVflags_nextId (s : State) (f : Flags) : (orVflags s f).nextId = s.nextId := rfl
@[simp] theorem orVflags_freeIdx (s : State) (f : Flags) : (orVflags s f).freeIdx = s.freeIdx := rfl
@[simp] theorem orVflags_agenda (s : State) (f : Flags) : (orVflags s f).agenda = s.agenda := rfl

/-! `orFcsr` -/
@[simp] theorem orFcsr_hart_who (s : State) (f : Flags) : (orFcsr s f).hart.who = s.hart.who := rfl
@[simp] theorem orFcsr_hart_status (s : State) (f : Flags) : (orFcsr s f).hart.status = s.hart.status := rfl
@[simp] theorem orFcsr_hart_stopReq (s : State) (f : Flags) : (orFcsr s f).hart.stopReq = s.hart.stopReq := rfl
@[simp] theorem orFcsr_hart_stopped (s : State) (f : Flags) : (orFcsr s f).hart.stopped = s.hart.stopped := rfl
@[simp] theorem orFcsr_hart_sameCore (s : State) (f : Flags) : (orFcsr s f).hart.sameCore = s.hart.sameCore := rfl
@[simp] theorem orFcsr_hart_world (s : State) (f : Flags) : (orFcsr s f).hart.world = s.hart.world := rfl
@[simp] theorem orFcsr_hart_remote (s : State) (f : Flags) : (orFcsr s f).hart.remote = s.hart.remote := rfl
@[simp] theorem orFcsr_hart_pins (s : State) (f : Flags) : (orFcsr s f).hart.pins = s.hart.pins := rfl
@[simp] theorem orFcsr_hart_strike (s : State) (f : Flags) : (orFcsr s f).hart.strike = s.hart.strike := rfl
@[simp] theorem orFcsr_hart_weak (s : State) (f : Flags) : (orFcsr s f).hart.weak = s.hart.weak := rfl
@[simp] theorem orFcsr_hart_waitFrom (s : State) (f : Flags) : (orFcsr s f).hart.waitFrom = s.hart.waitFrom := rfl
@[simp] theorem orFcsr_hart_x (s : State) (f : Flags) : (orFcsr s f).hart.x = s.hart.x := rfl
@[simp] theorem orFcsr_hart_pc (s : State) (f : Flags) : (orFcsr s f).hart.pc = s.hart.pc := rfl
@[simp] theorem orFcsr_hart_vec (s : State) (f : Flags) : (orFcsr s f).hart.vec = s.hart.vec := rfl
@[simp] theorem orFcsr_hart_mat (s : State) (f : Flags) : (orFcsr s f).hart.mat = s.hart.mat := rfl
@[simp] theorem orFcsr_hart_h (s : State) (f : Flags) : (orFcsr s f).hart.h = s.hart.h := rfl
@[simp] theorem orFcsr_hart_c (s : State) (f : Flags) : (orFcsr s f).hart.c = s.hart.c := rfl
@[simp] theorem orFcsr_hart_eng (s : State) (f : Flags) : (orFcsr s f).hart.eng = s.hart.eng := rfl
@[simp] theorem orFcsr_hart_trap (s : State) (f : Flags) : (orFcsr s f).hart.trap = s.hart.trap := rfl
@[simp] theorem orFcsr_hart_ev (s : State) (f : Flags) : (orFcsr s f).hart.ev = s.hart.ev := rfl
@[simp] theorem orFcsr_hart_evsel (s : State) (f : Flags) : (orFcsr s f).hart.evsel = s.hart.evsel := rfl
@[simp] theorem orFcsr_hart_ccache (s : State) (f : Flags) : (orFcsr s f).hart.ccache = s.hart.ccache := rfl
@[simp] theorem orFcsr_hart_icache (s : State) (f : Flags) : (orFcsr s f).hart.icache = s.hart.icache := rfl
@[simp] theorem orFcsr_others (s : State) (f : Flags) : (orFcsr s f).others = s.others := rfl
@[simp] theorem orFcsr_mem (s : State) (f : Flags) : (orFcsr s f).mem = s.mem := rfl
@[simp] theorem orFcsr_poison (s : State) (f : Flags) : (orFcsr s f).poison = s.poison := rfl
@[simp] theorem orFcsr_tlb (s : State) (f : Flags) : (orFcsr s f).tlb = s.tlb := rfl
@[simp] theorem orFcsr_wcache (s : State) (f : Flags) : (orFcsr s f).wcache = s.wcache := rfl
@[simp] theorem orFcsr_lines (s : State) (f : Flags) : (orFcsr s f).lines = s.lines := rfl
@[simp] theorem orFcsr_images (s : State) (f : Flags) : (orFcsr s f).images = s.images := rfl
@[simp] theorem orFcsr_migs (s : State) (f : Flags) : (orFcsr s f).migs = s.migs := rfl
@[simp] theorem orFcsr_banks (s : State) (f : Flags) : (orFcsr s f).banks = s.banks := rfl
@[simp] theorem orFcsr_cores (s : State) (f : Flags) : (orFcsr s f).cores = s.cores := rfl
@[simp] theorem orFcsr_dies (s : State) (f : Flags) : (orFcsr s f).dies = s.dies := rfl
@[simp] theorem orFcsr_relays (s : State) (f : Flags) : (orFcsr s f).relays = s.relays := rfl
@[simp] theorem orFcsr_sched (s : State) (f : Flags) : (orFcsr s f).sched = s.sched := rfl
@[simp] theorem orFcsr_hub (s : State) (f : Flags) : (orFcsr s f).hub = s.hub := rfl
@[simp] theorem orFcsr_time (s : State) (f : Flags) : (orFcsr s f).time = s.time := rfl
@[simp] theorem orFcsr_power (s : State) (f : Flags) : (orFcsr s f).power = s.power := rfl
@[simp] theorem orFcsr_colls (s : State) (f : Flags) : (orFcsr s f).colls = s.colls := rfl
@[simp] theorem orFcsr_msix (s : State) (f : Flags) : (orFcsr s f).msix = s.msix := rfl
@[simp] theorem orFcsr_hostData (s : State) (f : Flags) : (orFcsr s f).hostData = s.hostData := rfl
@[simp] theorem orFcsr_hostEp (s : State) (f : Flags) : (orFcsr s f).hostEp = s.hostEp := rfl
@[simp] theorem orFcsr_nextId (s : State) (f : Flags) : (orFcsr s f).nextId = s.nextId := rfl
@[simp] theorem orFcsr_freeIdx (s : State) (f : Flags) : (orFcsr s f).freeIdx = s.freeIdx := rfl
@[simp] theorem orFcsr_agenda (s : State) (f : Flags) : (orFcsr s f).agenda = s.agenda := rfl

/-! `completeQuiet` -/
@[simp] theorem completeQuiet_hart_who (s : State) (p : Word) : (completeQuiet s p).hart.who = s.hart.who := rfl
@[simp] theorem completeQuiet_hart_stopReq (s : State) (p : Word) : (completeQuiet s p).hart.stopReq = s.hart.stopReq := rfl
@[simp] theorem completeQuiet_hart_stopped (s : State) (p : Word) : (completeQuiet s p).hart.stopped = s.hart.stopped := rfl
@[simp] theorem completeQuiet_hart_sameCore (s : State) (p : Word) : (completeQuiet s p).hart.sameCore = s.hart.sameCore := rfl
@[simp] theorem completeQuiet_hart_world (s : State) (p : Word) : (completeQuiet s p).hart.world = s.hart.world := rfl
@[simp] theorem completeQuiet_hart_strike (s : State) (p : Word) : (completeQuiet s p).hart.strike = s.hart.strike := rfl
@[simp] theorem completeQuiet_hart_weak (s : State) (p : Word) : (completeQuiet s p).hart.weak = s.hart.weak := rfl
@[simp] theorem completeQuiet_hart_waitFrom (s : State) (p : Word) : (completeQuiet s p).hart.waitFrom = s.hart.waitFrom := rfl
@[simp] theorem completeQuiet_hart_x (s : State) (p : Word) : (completeQuiet s p).hart.x = s.hart.x := rfl
@[simp] theorem completeQuiet_hart_fcsr (s : State) (p : Word) : (completeQuiet s p).hart.fcsr = s.hart.fcsr := rfl
@[simp] theorem completeQuiet_hart_vec (s : State) (p : Word) : (completeQuiet s p).hart.vec = s.hart.vec := rfl
@[simp] theorem completeQuiet_hart_mat (s : State) (p : Word) : (completeQuiet s p).hart.mat = s.hart.mat := rfl
@[simp] theorem completeQuiet_hart_h (s : State) (p : Word) : (completeQuiet s p).hart.h = s.hart.h := rfl
@[simp] theorem completeQuiet_hart_c (s : State) (p : Word) : (completeQuiet s p).hart.c = s.hart.c := rfl
@[simp] theorem completeQuiet_hart_eng (s : State) (p : Word) : (completeQuiet s p).hart.eng = s.hart.eng := rfl
@[simp] theorem completeQuiet_hart_trap (s : State) (p : Word) : (completeQuiet s p).hart.trap = s.hart.trap := rfl
@[simp] theorem completeQuiet_hart_ev (s : State) (p : Word) : (completeQuiet s p).hart.ev = s.hart.ev := rfl
@[simp] theorem completeQuiet_hart_evsel (s : State) (p : Word) : (completeQuiet s p).hart.evsel = s.hart.evsel := rfl
@[simp] theorem completeQuiet_hart_ccache (s : State) (p : Word) : (completeQuiet s p).hart.ccache = s.hart.ccache := rfl
@[simp] theorem completeQuiet_hart_icache (s : State) (p : Word) : (completeQuiet s p).hart.icache = s.hart.icache := rfl
@[simp] theorem completeQuiet_others (s : State) (p : Word) : (completeQuiet s p).others = s.others := rfl
@[simp] theorem completeQuiet_mem (s : State) (p : Word) : (completeQuiet s p).mem = s.mem := rfl
@[simp] theorem completeQuiet_poison (s : State) (p : Word) : (completeQuiet s p).poison = s.poison := rfl
@[simp] theorem completeQuiet_tlb (s : State) (p : Word) : (completeQuiet s p).tlb = s.tlb := rfl
@[simp] theorem completeQuiet_wcache (s : State) (p : Word) : (completeQuiet s p).wcache = s.wcache := rfl
@[simp] theorem completeQuiet_lines (s : State) (p : Word) : (completeQuiet s p).lines = s.lines := rfl
@[simp] theorem completeQuiet_images (s : State) (p : Word) : (completeQuiet s p).images = s.images := rfl
@[simp] theorem completeQuiet_migs (s : State) (p : Word) : (completeQuiet s p).migs = s.migs := rfl
@[simp] theorem completeQuiet_banks (s : State) (p : Word) : (completeQuiet s p).banks = s.banks := rfl
@[simp] theorem completeQuiet_cores (s : State) (p : Word) : (completeQuiet s p).cores = s.cores := rfl
@[simp] theorem completeQuiet_dies (s : State) (p : Word) : (completeQuiet s p).dies = s.dies := rfl
@[simp] theorem completeQuiet_relays (s : State) (p : Word) : (completeQuiet s p).relays = s.relays := rfl
@[simp] theorem completeQuiet_sched (s : State) (p : Word) : (completeQuiet s p).sched = s.sched := rfl
@[simp] theorem completeQuiet_hub (s : State) (p : Word) : (completeQuiet s p).hub = s.hub := rfl
@[simp] theorem completeQuiet_time (s : State) (p : Word) : (completeQuiet s p).time = s.time := rfl
@[simp] theorem completeQuiet_power (s : State) (p : Word) : (completeQuiet s p).power = s.power := rfl
@[simp] theorem completeQuiet_colls (s : State) (p : Word) : (completeQuiet s p).colls = s.colls := rfl
@[simp] theorem completeQuiet_msix (s : State) (p : Word) : (completeQuiet s p).msix = s.msix := rfl
@[simp] theorem completeQuiet_hostData (s : State) (p : Word) : (completeQuiet s p).hostData = s.hostData := rfl
@[simp] theorem completeQuiet_hostEp (s : State) (p : Word) : (completeQuiet s p).hostEp = s.hostEp := rfl
@[simp] theorem completeQuiet_nextId (s : State) (p : Word) : (completeQuiet s p).nextId = s.nextId := rfl
@[simp] theorem completeQuiet_freeIdx (s : State) (p : Word) : (completeQuiet s p).freeIdx = s.freeIdx := rfl
@[simp] theorem completeQuiet_agenda (s : State) (p : Word) : (completeQuiet s p).agenda = s.agenda := rfl

/-! `waitOn` -/
@[simp] theorem waitOn_hart_who (s : State) (w : Wait) : (waitOn s w).hart.who = s.hart.who := rfl
@[simp] theorem waitOn_hart_stopReq (s : State) (w : Wait) : (waitOn s w).hart.stopReq = s.hart.stopReq := rfl
@[simp] theorem waitOn_hart_stopped (s : State) (w : Wait) : (waitOn s w).hart.stopped = s.hart.stopped := rfl
@[simp] theorem waitOn_hart_sameCore (s : State) (w : Wait) : (waitOn s w).hart.sameCore = s.hart.sameCore := rfl
@[simp] theorem waitOn_hart_world (s : State) (w : Wait) : (waitOn s w).hart.world = s.hart.world := rfl
@[simp] theorem waitOn_hart_remote (s : State) (w : Wait) : (waitOn s w).hart.remote = s.hart.remote := rfl
@[simp] theorem waitOn_hart_strike (s : State) (w : Wait) : (waitOn s w).hart.strike = s.hart.strike := rfl
@[simp] theorem waitOn_hart_weak (s : State) (w : Wait) : (waitOn s w).hart.weak = s.hart.weak := rfl
@[simp] theorem waitOn_hart_x (s : State) (w : Wait) : (waitOn s w).hart.x = s.hart.x := rfl
@[simp] theorem waitOn_hart_pc (s : State) (w : Wait) : (waitOn s w).hart.pc = s.hart.pc := rfl
@[simp] theorem waitOn_hart_fcsr (s : State) (w : Wait) : (waitOn s w).hart.fcsr = s.hart.fcsr := rfl
@[simp] theorem waitOn_hart_vec (s : State) (w : Wait) : (waitOn s w).hart.vec = s.hart.vec := rfl
@[simp] theorem waitOn_hart_mat (s : State) (w : Wait) : (waitOn s w).hart.mat = s.hart.mat := rfl
@[simp] theorem waitOn_hart_h (s : State) (w : Wait) : (waitOn s w).hart.h = s.hart.h := rfl
@[simp] theorem waitOn_hart_c (s : State) (w : Wait) : (waitOn s w).hart.c = s.hart.c := rfl
@[simp] theorem waitOn_hart_eng (s : State) (w : Wait) : (waitOn s w).hart.eng = s.hart.eng := rfl
@[simp] theorem waitOn_hart_trap (s : State) (w : Wait) : (waitOn s w).hart.trap = s.hart.trap := rfl
@[simp] theorem waitOn_hart_ev (s : State) (w : Wait) : (waitOn s w).hart.ev = s.hart.ev := rfl
@[simp] theorem waitOn_hart_evsel (s : State) (w : Wait) : (waitOn s w).hart.evsel = s.hart.evsel := rfl
@[simp] theorem waitOn_hart_ccache (s : State) (w : Wait) : (waitOn s w).hart.ccache = s.hart.ccache := rfl
@[simp] theorem waitOn_hart_icache (s : State) (w : Wait) : (waitOn s w).hart.icache = s.hart.icache := rfl
@[simp] theorem waitOn_others (s : State) (w : Wait) : (waitOn s w).others = s.others := rfl
@[simp] theorem waitOn_mem (s : State) (w : Wait) : (waitOn s w).mem = s.mem := rfl
@[simp] theorem waitOn_poison (s : State) (w : Wait) : (waitOn s w).poison = s.poison := rfl
@[simp] theorem waitOn_tlb (s : State) (w : Wait) : (waitOn s w).tlb = s.tlb := rfl
@[simp] theorem waitOn_wcache (s : State) (w : Wait) : (waitOn s w).wcache = s.wcache := rfl
@[simp] theorem waitOn_lines (s : State) (w : Wait) : (waitOn s w).lines = s.lines := rfl
@[simp] theorem waitOn_images (s : State) (w : Wait) : (waitOn s w).images = s.images := rfl
@[simp] theorem waitOn_migs (s : State) (w : Wait) : (waitOn s w).migs = s.migs := rfl
@[simp] theorem waitOn_banks (s : State) (w : Wait) : (waitOn s w).banks = s.banks := rfl
@[simp] theorem waitOn_cores (s : State) (w : Wait) : (waitOn s w).cores = s.cores := rfl
@[simp] theorem waitOn_dies (s : State) (w : Wait) : (waitOn s w).dies = s.dies := rfl
@[simp] theorem waitOn_relays (s : State) (w : Wait) : (waitOn s w).relays = s.relays := rfl
@[simp] theorem waitOn_sched (s : State) (w : Wait) : (waitOn s w).sched = s.sched := rfl
@[simp] theorem waitOn_hub (s : State) (w : Wait) : (waitOn s w).hub = s.hub := rfl
@[simp] theorem waitOn_time (s : State) (w : Wait) : (waitOn s w).time = s.time := rfl
@[simp] theorem waitOn_power (s : State) (w : Wait) : (waitOn s w).power = s.power := rfl
@[simp] theorem waitOn_colls (s : State) (w : Wait) : (waitOn s w).colls = s.colls := rfl
@[simp] theorem waitOn_msix (s : State) (w : Wait) : (waitOn s w).msix = s.msix := rfl
@[simp] theorem waitOn_hostData (s : State) (w : Wait) : (waitOn s w).hostData = s.hostData := rfl
@[simp] theorem waitOn_hostEp (s : State) (w : Wait) : (waitOn s w).hostEp = s.hostEp := rfl
@[simp] theorem waitOn_nextId (s : State) (w : Wait) : (waitOn s w).nextId = s.nextId := rfl
@[simp] theorem waitOn_freeIdx (s : State) (w : Wait) : (waitOn s w).freeIdx = s.freeIdx := rfl
@[simp] theorem waitOn_agenda (s : State) (w : Wait) : (waitOn s w).agenda = s.agenda := rfl

/-! `setPosted` -/
@[simp] theorem setPosted_hart_who (s : State) (v : Bool) (xs : List Posted) : (setPosted s v xs).hart.who = s.hart.who := rfl
@[simp] theorem setPosted_hart_status (s : State) (v : Bool) (xs : List Posted) : (setPosted s v xs).hart.status = s.hart.status := rfl
@[simp] theorem setPosted_hart_stopReq (s : State) (v : Bool) (xs : List Posted) : (setPosted s v xs).hart.stopReq = s.hart.stopReq := rfl
@[simp] theorem setPosted_hart_stopped (s : State) (v : Bool) (xs : List Posted) : (setPosted s v xs).hart.stopped = s.hart.stopped := rfl
@[simp] theorem setPosted_hart_sameCore (s : State) (v : Bool) (xs : List Posted) : (setPosted s v xs).hart.sameCore = s.hart.sameCore := rfl
@[simp] theorem setPosted_hart_world (s : State) (v : Bool) (xs : List Posted) : (setPosted s v xs).hart.world = s.hart.world := rfl
@[simp] theorem setPosted_hart_remote (s : State) (v : Bool) (xs : List Posted) : (setPosted s v xs).hart.remote = s.hart.remote := rfl
@[simp] theorem setPosted_hart_pins (s : State) (v : Bool) (xs : List Posted) : (setPosted s v xs).hart.pins = s.hart.pins := rfl
@[simp] theorem setPosted_hart_strike (s : State) (v : Bool) (xs : List Posted) : (setPosted s v xs).hart.strike = s.hart.strike := rfl
@[simp] theorem setPosted_hart_waitFrom (s : State) (v : Bool) (xs : List Posted) : (setPosted s v xs).hart.waitFrom = s.hart.waitFrom := rfl
@[simp] theorem setPosted_hart_x (s : State) (v : Bool) (xs : List Posted) : (setPosted s v xs).hart.x = s.hart.x := rfl
@[simp] theorem setPosted_hart_pc (s : State) (v : Bool) (xs : List Posted) : (setPosted s v xs).hart.pc = s.hart.pc := rfl
@[simp] theorem setPosted_hart_fcsr (s : State) (v : Bool) (xs : List Posted) : (setPosted s v xs).hart.fcsr = s.hart.fcsr := rfl
@[simp] theorem setPosted_hart_vec (s : State) (v : Bool) (xs : List Posted) : (setPosted s v xs).hart.vec = s.hart.vec := rfl
@[simp] theorem setPosted_hart_mat (s : State) (v : Bool) (xs : List Posted) : (setPosted s v xs).hart.mat = s.hart.mat := rfl
@[simp] theorem setPosted_hart_h (s : State) (v : Bool) (xs : List Posted) : (setPosted s v xs).hart.h = s.hart.h := rfl
@[simp] theorem setPosted_hart_c (s : State) (v : Bool) (xs : List Posted) : (setPosted s v xs).hart.c = s.hart.c := rfl
@[simp] theorem setPosted_hart_eng (s : State) (v : Bool) (xs : List Posted) : (setPosted s v xs).hart.eng = s.hart.eng := rfl
@[simp] theorem setPosted_hart_trap (s : State) (v : Bool) (xs : List Posted) : (setPosted s v xs).hart.trap = s.hart.trap := rfl
@[simp] theorem setPosted_hart_ev (s : State) (v : Bool) (xs : List Posted) : (setPosted s v xs).hart.ev = s.hart.ev := rfl
@[simp] theorem setPosted_hart_evsel (s : State) (v : Bool) (xs : List Posted) : (setPosted s v xs).hart.evsel = s.hart.evsel := rfl
@[simp] theorem setPosted_hart_ccache (s : State) (v : Bool) (xs : List Posted) : (setPosted s v xs).hart.ccache = s.hart.ccache := rfl
@[simp] theorem setPosted_hart_icache (s : State) (v : Bool) (xs : List Posted) : (setPosted s v xs).hart.icache = s.hart.icache := rfl
@[simp] theorem setPosted_others (s : State) (v : Bool) (xs : List Posted) : (setPosted s v xs).others = s.others := rfl
@[simp] theorem setPosted_mem (s : State) (v : Bool) (xs : List Posted) : (setPosted s v xs).mem = s.mem := rfl
@[simp] theorem setPosted_poison (s : State) (v : Bool) (xs : List Posted) : (setPosted s v xs).poison = s.poison := rfl
@[simp] theorem setPosted_tlb (s : State) (v : Bool) (xs : List Posted) : (setPosted s v xs).tlb = s.tlb := rfl
@[simp] theorem setPosted_wcache (s : State) (v : Bool) (xs : List Posted) : (setPosted s v xs).wcache = s.wcache := rfl
@[simp] theorem setPosted_lines (s : State) (v : Bool) (xs : List Posted) : (setPosted s v xs).lines = s.lines := rfl
@[simp] theorem setPosted_images (s : State) (v : Bool) (xs : List Posted) : (setPosted s v xs).images = s.images := rfl
@[simp] theorem setPosted_migs (s : State) (v : Bool) (xs : List Posted) : (setPosted s v xs).migs = s.migs := rfl
@[simp] theorem setPosted_banks (s : State) (v : Bool) (xs : List Posted) : (setPosted s v xs).banks = s.banks := rfl
@[simp] theorem setPosted_cores (s : State) (v : Bool) (xs : List Posted) : (setPosted s v xs).cores = s.cores := rfl
@[simp] theorem setPosted_dies (s : State) (v : Bool) (xs : List Posted) : (setPosted s v xs).dies = s.dies := rfl
@[simp] theorem setPosted_relays (s : State) (v : Bool) (xs : List Posted) : (setPosted s v xs).relays = s.relays := rfl
@[simp] theorem setPosted_sched (s : State) (v : Bool) (xs : List Posted) : (setPosted s v xs).sched = s.sched := rfl
@[simp] theorem setPosted_hub (s : State) (v : Bool) (xs : List Posted) : (setPosted s v xs).hub = s.hub := rfl
@[simp] theorem setPosted_time (s : State) (v : Bool) (xs : List Posted) : (setPosted s v xs).time = s.time := rfl
@[simp] theorem setPosted_power (s : State) (v : Bool) (xs : List Posted) : (setPosted s v xs).power = s.power := rfl
@[simp] theorem setPosted_colls (s : State) (v : Bool) (xs : List Posted) : (setPosted s v xs).colls = s.colls := rfl
@[simp] theorem setPosted_msix (s : State) (v : Bool) (xs : List Posted) : (setPosted s v xs).msix = s.msix := rfl
@[simp] theorem setPosted_hostData (s : State) (v : Bool) (xs : List Posted) : (setPosted s v xs).hostData = s.hostData := rfl
@[simp] theorem setPosted_hostEp (s : State) (v : Bool) (xs : List Posted) : (setPosted s v xs).hostEp = s.hostEp := rfl
@[simp] theorem setPosted_nextId (s : State) (v : Bool) (xs : List Posted) : (setPosted s v xs).nextId = s.nextId := rfl
@[simp] theorem setPosted_freeIdx (s : State) (v : Bool) (xs : List Posted) : (setPosted s v xs).freeIdx = s.freeIdx := rfl
@[simp] theorem setPosted_agenda (s : State) (v : Bool) (xs : List Posted) : (setPosted s v xs).agenda = s.agenda := rfl

/-! `dropView` -/
@[simp] theorem dropView_hart_who (s : State) : (dropView s).hart.who = s.hart.who := rfl
@[simp] theorem dropView_hart_status (s : State) : (dropView s).hart.status = s.hart.status := rfl
@[simp] theorem dropView_hart_stopReq (s : State) : (dropView s).hart.stopReq = s.hart.stopReq := rfl
@[simp] theorem dropView_hart_stopped (s : State) : (dropView s).hart.stopped = s.hart.stopped := rfl
@[simp] theorem dropView_hart_sameCore (s : State) : (dropView s).hart.sameCore = s.hart.sameCore := rfl
@[simp] theorem dropView_hart_world (s : State) : (dropView s).hart.world = s.hart.world := rfl
@[simp] theorem dropView_hart_remote (s : State) : (dropView s).hart.remote = s.hart.remote := rfl
@[simp] theorem dropView_hart_pins (s : State) : (dropView s).hart.pins = s.hart.pins := rfl
@[simp] theorem dropView_hart_strike (s : State) : (dropView s).hart.strike = s.hart.strike := rfl
@[simp] theorem dropView_hart_waitFrom (s : State) : (dropView s).hart.waitFrom = s.hart.waitFrom := rfl
@[simp] theorem dropView_hart_x (s : State) : (dropView s).hart.x = s.hart.x := rfl
@[simp] theorem dropView_hart_pc (s : State) : (dropView s).hart.pc = s.hart.pc := rfl
@[simp] theorem dropView_hart_fcsr (s : State) : (dropView s).hart.fcsr = s.hart.fcsr := rfl
@[simp] theorem dropView_hart_vec (s : State) : (dropView s).hart.vec = s.hart.vec := rfl
@[simp] theorem dropView_hart_mat (s : State) : (dropView s).hart.mat = s.hart.mat := rfl
@[simp] theorem dropView_hart_h (s : State) : (dropView s).hart.h = s.hart.h := rfl
@[simp] theorem dropView_hart_c (s : State) : (dropView s).hart.c = s.hart.c := rfl
@[simp] theorem dropView_hart_eng (s : State) : (dropView s).hart.eng = s.hart.eng := rfl
@[simp] theorem dropView_hart_trap (s : State) : (dropView s).hart.trap = s.hart.trap := rfl
@[simp] theorem dropView_hart_ev (s : State) : (dropView s).hart.ev = s.hart.ev := rfl
@[simp] theorem dropView_hart_evsel (s : State) : (dropView s).hart.evsel = s.hart.evsel := rfl
@[simp] theorem dropView_hart_ccache (s : State) : (dropView s).hart.ccache = s.hart.ccache := rfl
@[simp] theorem dropView_hart_icache (s : State) : (dropView s).hart.icache = s.hart.icache := rfl
@[simp] theorem dropView_others (s : State) : (dropView s).others = s.others := rfl
@[simp] theorem dropView_mem (s : State) : (dropView s).mem = s.mem := rfl
@[simp] theorem dropView_poison (s : State) : (dropView s).poison = s.poison := rfl
@[simp] theorem dropView_tlb (s : State) : (dropView s).tlb = s.tlb := rfl
@[simp] theorem dropView_wcache (s : State) : (dropView s).wcache = s.wcache := rfl
@[simp] theorem dropView_lines (s : State) : (dropView s).lines = s.lines := rfl
@[simp] theorem dropView_images (s : State) : (dropView s).images = s.images := rfl
@[simp] theorem dropView_migs (s : State) : (dropView s).migs = s.migs := rfl
@[simp] theorem dropView_banks (s : State) : (dropView s).banks = s.banks := rfl
@[simp] theorem dropView_cores (s : State) : (dropView s).cores = s.cores := rfl
@[simp] theorem dropView_dies (s : State) : (dropView s).dies = s.dies := rfl
@[simp] theorem dropView_relays (s : State) : (dropView s).relays = s.relays := rfl
@[simp] theorem dropView_sched (s : State) : (dropView s).sched = s.sched := rfl
@[simp] theorem dropView_hub (s : State) : (dropView s).hub = s.hub := rfl
@[simp] theorem dropView_time (s : State) : (dropView s).time = s.time := rfl
@[simp] theorem dropView_power (s : State) : (dropView s).power = s.power := rfl
@[simp] theorem dropView_colls (s : State) : (dropView s).colls = s.colls := rfl
@[simp] theorem dropView_msix (s : State) : (dropView s).msix = s.msix := rfl
@[simp] theorem dropView_hostData (s : State) : (dropView s).hostData = s.hostData := rfl
@[simp] theorem dropView_hostEp (s : State) : (dropView s).hostEp = s.hostEp := rfl
@[simp] theorem dropView_nextId (s : State) : (dropView s).nextId = s.nextId := rfl
@[simp] theorem dropView_freeIdx (s : State) : (dropView s).freeIdx = s.freeIdx := rfl
@[simp] theorem dropView_agenda (s : State) : (dropView s).agenda = s.agenda := rfl

/-! `dropScalar` -/
@[simp] theorem dropScalar_hart_who (s : State) : (dropScalar s).hart.who = s.hart.who := rfl
@[simp] theorem dropScalar_hart_status (s : State) : (dropScalar s).hart.status = s.hart.status := rfl
@[simp] theorem dropScalar_hart_stopReq (s : State) : (dropScalar s).hart.stopReq = s.hart.stopReq := rfl
@[simp] theorem dropScalar_hart_stopped (s : State) : (dropScalar s).hart.stopped = s.hart.stopped := rfl
@[simp] theorem dropScalar_hart_sameCore (s : State) : (dropScalar s).hart.sameCore = s.hart.sameCore := rfl
@[simp] theorem dropScalar_hart_world (s : State) : (dropScalar s).hart.world = s.hart.world := rfl
@[simp] theorem dropScalar_hart_remote (s : State) : (dropScalar s).hart.remote = s.hart.remote := rfl
@[simp] theorem dropScalar_hart_pins (s : State) : (dropScalar s).hart.pins = s.hart.pins := rfl
@[simp] theorem dropScalar_hart_strike (s : State) : (dropScalar s).hart.strike = s.hart.strike := rfl
@[simp] theorem dropScalar_hart_waitFrom (s : State) : (dropScalar s).hart.waitFrom = s.hart.waitFrom := rfl
@[simp] theorem dropScalar_hart_x (s : State) : (dropScalar s).hart.x = s.hart.x := rfl
@[simp] theorem dropScalar_hart_pc (s : State) : (dropScalar s).hart.pc = s.hart.pc := rfl
@[simp] theorem dropScalar_hart_fcsr (s : State) : (dropScalar s).hart.fcsr = s.hart.fcsr := rfl
@[simp] theorem dropScalar_hart_vec (s : State) : (dropScalar s).hart.vec = s.hart.vec := rfl
@[simp] theorem dropScalar_hart_mat (s : State) : (dropScalar s).hart.mat = s.hart.mat := rfl
@[simp] theorem dropScalar_hart_h (s : State) : (dropScalar s).hart.h = s.hart.h := rfl
@[simp] theorem dropScalar_hart_c (s : State) : (dropScalar s).hart.c = s.hart.c := rfl
@[simp] theorem dropScalar_hart_eng (s : State) : (dropScalar s).hart.eng = s.hart.eng := rfl
@[simp] theorem dropScalar_hart_trap (s : State) : (dropScalar s).hart.trap = s.hart.trap := rfl
@[simp] theorem dropScalar_hart_ev (s : State) : (dropScalar s).hart.ev = s.hart.ev := rfl
@[simp] theorem dropScalar_hart_evsel (s : State) : (dropScalar s).hart.evsel = s.hart.evsel := rfl
@[simp] theorem dropScalar_hart_ccache (s : State) : (dropScalar s).hart.ccache = s.hart.ccache := rfl
@[simp] theorem dropScalar_hart_icache (s : State) : (dropScalar s).hart.icache = s.hart.icache := rfl
@[simp] theorem dropScalar_others (s : State) : (dropScalar s).others = s.others := rfl
@[simp] theorem dropScalar_mem (s : State) : (dropScalar s).mem = s.mem := rfl
@[simp] theorem dropScalar_poison (s : State) : (dropScalar s).poison = s.poison := rfl
@[simp] theorem dropScalar_tlb (s : State) : (dropScalar s).tlb = s.tlb := rfl
@[simp] theorem dropScalar_wcache (s : State) : (dropScalar s).wcache = s.wcache := rfl
@[simp] theorem dropScalar_lines (s : State) : (dropScalar s).lines = s.lines := rfl
@[simp] theorem dropScalar_images (s : State) : (dropScalar s).images = s.images := rfl
@[simp] theorem dropScalar_migs (s : State) : (dropScalar s).migs = s.migs := rfl
@[simp] theorem dropScalar_banks (s : State) : (dropScalar s).banks = s.banks := rfl
@[simp] theorem dropScalar_cores (s : State) : (dropScalar s).cores = s.cores := rfl
@[simp] theorem dropScalar_dies (s : State) : (dropScalar s).dies = s.dies := rfl
@[simp] theorem dropScalar_relays (s : State) : (dropScalar s).relays = s.relays := rfl
@[simp] theorem dropScalar_sched (s : State) : (dropScalar s).sched = s.sched := rfl
@[simp] theorem dropScalar_hub (s : State) : (dropScalar s).hub = s.hub := rfl
@[simp] theorem dropScalar_time (s : State) : (dropScalar s).time = s.time := rfl
@[simp] theorem dropScalar_power (s : State) : (dropScalar s).power = s.power := rfl
@[simp] theorem dropScalar_colls (s : State) : (dropScalar s).colls = s.colls := rfl
@[simp] theorem dropScalar_msix (s : State) : (dropScalar s).msix = s.msix := rfl
@[simp] theorem dropScalar_hostData (s : State) : (dropScalar s).hostData = s.hostData := rfl
@[simp] theorem dropScalar_hostEp (s : State) : (dropScalar s).hostEp = s.hostEp := rfl
@[simp] theorem dropScalar_nextId (s : State) : (dropScalar s).nextId = s.nextId := rfl
@[simp] theorem dropScalar_freeIdx (s : State) : (dropScalar s).freeIdx = s.freeIdx := rfl
@[simp] theorem dropScalar_agenda (s : State) : (dropScalar s).agenda = s.agenda := rfl

/-! `writePa` -/
@[simp] theorem writePa_hart (s : State) (a : Nat) (b : Byte) : (writePa s a b).hart = s.hart := rfl
@[simp] theorem writePa_others (s : State) (a : Nat) (b : Byte) : (writePa s a b).others = s.others := rfl
@[simp] theorem writePa_poison (s : State) (a : Nat) (b : Byte) : (writePa s a b).poison = s.poison := rfl
@[simp] theorem writePa_tlb (s : State) (a : Nat) (b : Byte) : (writePa s a b).tlb = s.tlb := rfl
@[simp] theorem writePa_wcache (s : State) (a : Nat) (b : Byte) : (writePa s a b).wcache = s.wcache := rfl
@[simp] theorem writePa_lines (s : State) (a : Nat) (b : Byte) : (writePa s a b).lines = s.lines := rfl
@[simp] theorem writePa_images (s : State) (a : Nat) (b : Byte) : (writePa s a b).images = s.images := rfl
@[simp] theorem writePa_migs (s : State) (a : Nat) (b : Byte) : (writePa s a b).migs = s.migs := rfl
@[simp] theorem writePa_banks (s : State) (a : Nat) (b : Byte) : (writePa s a b).banks = s.banks := rfl
@[simp] theorem writePa_cores (s : State) (a : Nat) (b : Byte) : (writePa s a b).cores = s.cores := rfl
@[simp] theorem writePa_dies (s : State) (a : Nat) (b : Byte) : (writePa s a b).dies = s.dies := rfl
@[simp] theorem writePa_relays (s : State) (a : Nat) (b : Byte) : (writePa s a b).relays = s.relays := rfl
@[simp] theorem writePa_sched (s : State) (a : Nat) (b : Byte) : (writePa s a b).sched = s.sched := rfl
@[simp] theorem writePa_hub (s : State) (a : Nat) (b : Byte) : (writePa s a b).hub = s.hub := rfl
@[simp] theorem writePa_time (s : State) (a : Nat) (b : Byte) : (writePa s a b).time = s.time := rfl
@[simp] theorem writePa_power (s : State) (a : Nat) (b : Byte) : (writePa s a b).power = s.power := rfl
@[simp] theorem writePa_colls (s : State) (a : Nat) (b : Byte) : (writePa s a b).colls = s.colls := rfl
@[simp] theorem writePa_msix (s : State) (a : Nat) (b : Byte) : (writePa s a b).msix = s.msix := rfl
@[simp] theorem writePa_hostData (s : State) (a : Nat) (b : Byte) : (writePa s a b).hostData = s.hostData := rfl
@[simp] theorem writePa_hostEp (s : State) (a : Nat) (b : Byte) : (writePa s a b).hostEp = s.hostEp := rfl
@[simp] theorem writePa_nextId (s : State) (a : Nat) (b : Byte) : (writePa s a b).nextId = s.nextId := rfl
@[simp] theorem writePa_freeIdx (s : State) (a : Nat) (b : Byte) : (writePa s a b).freeIdx = s.freeIdx := rfl
@[simp] theorem writePa_agenda (s : State) (a : Nat) (b : Byte) : (writePa s a b).agenda = s.agenda := rfl

/-! `setBank` -/
@[simp] theorem setBank_hart (s : State) (k : Nat) (b : Bank) : (setBank s k b).hart = s.hart := rfl
@[simp] theorem setBank_others (s : State) (k : Nat) (b : Bank) : (setBank s k b).others = s.others := rfl
@[simp] theorem setBank_mem (s : State) (k : Nat) (b : Bank) : (setBank s k b).mem = s.mem := rfl
@[simp] theorem setBank_poison (s : State) (k : Nat) (b : Bank) : (setBank s k b).poison = s.poison := rfl
@[simp] theorem setBank_tlb (s : State) (k : Nat) (b : Bank) : (setBank s k b).tlb = s.tlb := rfl
@[simp] theorem setBank_wcache (s : State) (k : Nat) (b : Bank) : (setBank s k b).wcache = s.wcache := rfl
@[simp] theorem setBank_lines (s : State) (k : Nat) (b : Bank) : (setBank s k b).lines = s.lines := rfl
@[simp] theorem setBank_images (s : State) (k : Nat) (b : Bank) : (setBank s k b).images = s.images := rfl
@[simp] theorem setBank_migs (s : State) (k : Nat) (b : Bank) : (setBank s k b).migs = s.migs := rfl
@[simp] theorem setBank_cores (s : State) (k : Nat) (b : Bank) : (setBank s k b).cores = s.cores := rfl
@[simp] theorem setBank_dies (s : State) (k : Nat) (b : Bank) : (setBank s k b).dies = s.dies := rfl
@[simp] theorem setBank_relays (s : State) (k : Nat) (b : Bank) : (setBank s k b).relays = s.relays := rfl
@[simp] theorem setBank_sched (s : State) (k : Nat) (b : Bank) : (setBank s k b).sched = s.sched := rfl
@[simp] theorem setBank_hub (s : State) (k : Nat) (b : Bank) : (setBank s k b).hub = s.hub := rfl
@[simp] theorem setBank_time (s : State) (k : Nat) (b : Bank) : (setBank s k b).time = s.time := rfl
@[simp] theorem setBank_power (s : State) (k : Nat) (b : Bank) : (setBank s k b).power = s.power := rfl
@[simp] theorem setBank_colls (s : State) (k : Nat) (b : Bank) : (setBank s k b).colls = s.colls := rfl
@[simp] theorem setBank_msix (s : State) (k : Nat) (b : Bank) : (setBank s k b).msix = s.msix := rfl
@[simp] theorem setBank_hostData (s : State) (k : Nat) (b : Bank) : (setBank s k b).hostData = s.hostData := rfl
@[simp] theorem setBank_hostEp (s : State) (k : Nat) (b : Bank) : (setBank s k b).hostEp = s.hostEp := rfl
@[simp] theorem setBank_nextId (s : State) (k : Nat) (b : Bank) : (setBank s k b).nextId = s.nextId := rfl
@[simp] theorem setBank_freeIdx (s : State) (k : Nat) (b : Bank) : (setBank s k b).freeIdx = s.freeIdx := rfl
@[simp] theorem setBank_agenda (s : State) (k : Nat) (b : Bank) : (setBank s k b).agenda = s.agenda := rfl

/-! `setFn` -/
@[simp] theorem setFn_hart (s : State) (f : Nat) (r : FnRegs) : (setFn s f r).hart = s.hart := rfl
@[simp] theorem setFn_others (s : State) (f : Nat) (r : FnRegs) : (setFn s f r).others = s.others := rfl
@[simp] theorem setFn_mem (s : State) (f : Nat) (r : FnRegs) : (setFn s f r).mem = s.mem := rfl
@[simp] theorem setFn_poison (s : State) (f : Nat) (r : FnRegs) : (setFn s f r).poison = s.poison := rfl
@[simp] theorem setFn_tlb (s : State) (f : Nat) (r : FnRegs) : (setFn s f r).tlb = s.tlb := rfl
@[simp] theorem setFn_wcache (s : State) (f : Nat) (r : FnRegs) : (setFn s f r).wcache = s.wcache := rfl
@[simp] theorem setFn_lines (s : State) (f : Nat) (r : FnRegs) : (setFn s f r).lines = s.lines := rfl
@[simp] theorem setFn_images (s : State) (f : Nat) (r : FnRegs) : (setFn s f r).images = s.images := rfl
@[simp] theorem setFn_migs (s : State) (f : Nat) (r : FnRegs) : (setFn s f r).migs = s.migs := rfl
@[simp] theorem setFn_banks (s : State) (f : Nat) (r : FnRegs) : (setFn s f r).banks = s.banks := rfl
@[simp] theorem setFn_cores (s : State) (f : Nat) (r : FnRegs) : (setFn s f r).cores = s.cores := rfl
@[simp] theorem setFn_dies (s : State) (f : Nat) (r : FnRegs) : (setFn s f r).dies = s.dies := rfl
@[simp] theorem setFn_relays (s : State) (f : Nat) (r : FnRegs) : (setFn s f r).relays = s.relays := rfl
@[simp] theorem setFn_sched (s : State) (f : Nat) (r : FnRegs) : (setFn s f r).sched = s.sched := rfl
@[simp] theorem setFn_time (s : State) (f : Nat) (r : FnRegs) : (setFn s f r).time = s.time := rfl
@[simp] theorem setFn_power (s : State) (f : Nat) (r : FnRegs) : (setFn s f r).power = s.power := rfl
@[simp] theorem setFn_colls (s : State) (f : Nat) (r : FnRegs) : (setFn s f r).colls = s.colls := rfl
@[simp] theorem setFn_msix (s : State) (f : Nat) (r : FnRegs) : (setFn s f r).msix = s.msix := rfl
@[simp] theorem setFn_hostData (s : State) (f : Nat) (r : FnRegs) : (setFn s f r).hostData = s.hostData := rfl
@[simp] theorem setFn_hostEp (s : State) (f : Nat) (r : FnRegs) : (setFn s f r).hostEp = s.hostEp := rfl
@[simp] theorem setFn_nextId (s : State) (f : Nat) (r : FnRegs) : (setFn s f r).nextId = s.nextId := rfl
@[simp] theorem setFn_freeIdx (s : State) (f : Nat) (r : FnRegs) : (setFn s f r).freeIdx = s.freeIdx := rfl
@[simp] theorem setFn_agenda (s : State) (f : Nat) (r : FnRegs) : (setFn s f r).agenda = s.agenda := rfl

/-! `setQueue` -/
@[simp] theorem setQueue_hart (s : State) (q : Nat) (r : QueueRegs) : (setQueue s q r).hart = s.hart := rfl
@[simp] theorem setQueue_others (s : State) (q : Nat) (r : QueueRegs) : (setQueue s q r).others = s.others := rfl
@[simp] theorem setQueue_mem (s : State) (q : Nat) (r : QueueRegs) : (setQueue s q r).mem = s.mem := rfl
@[simp] theorem setQueue_poison (s : State) (q : Nat) (r : QueueRegs) : (setQueue s q r).poison = s.poison := rfl
@[simp] theorem setQueue_tlb (s : State) (q : Nat) (r : QueueRegs) : (setQueue s q r).tlb = s.tlb := rfl
@[simp] theorem setQueue_wcache (s : State) (q : Nat) (r : QueueRegs) : (setQueue s q r).wcache = s.wcache := rfl
@[simp] theorem setQueue_lines (s : State) (q : Nat) (r : QueueRegs) : (setQueue s q r).lines = s.lines := rfl
@[simp] theorem setQueue_images (s : State) (q : Nat) (r : QueueRegs) : (setQueue s q r).images = s.images := rfl
@[simp] theorem setQueue_migs (s : State) (q : Nat) (r : QueueRegs) : (setQueue s q r).migs = s.migs := rfl
@[simp] theorem setQueue_banks (s : State) (q : Nat) (r : QueueRegs) : (setQueue s q r).banks = s.banks := rfl
@[simp] theorem setQueue_cores (s : State) (q : Nat) (r : QueueRegs) : (setQueue s q r).cores = s.cores := rfl
@[simp] theorem setQueue_dies (s : State) (q : Nat) (r : QueueRegs) : (setQueue s q r).dies = s.dies := rfl
@[simp] theorem setQueue_relays (s : State) (q : Nat) (r : QueueRegs) : (setQueue s q r).relays = s.relays := rfl
@[simp] theorem setQueue_sched (s : State) (q : Nat) (r : QueueRegs) : (setQueue s q r).sched = s.sched := rfl
@[simp] theorem setQueue_time (s : State) (q : Nat) (r : QueueRegs) : (setQueue s q r).time = s.time := rfl
@[simp] theorem setQueue_power (s : State) (q : Nat) (r : QueueRegs) : (setQueue s q r).power = s.power := rfl
@[simp] theorem setQueue_colls (s : State) (q : Nat) (r : QueueRegs) : (setQueue s q r).colls = s.colls := rfl
@[simp] theorem setQueue_msix (s : State) (q : Nat) (r : QueueRegs) : (setQueue s q r).msix = s.msix := rfl
@[simp] theorem setQueue_hostData (s : State) (q : Nat) (r : QueueRegs) : (setQueue s q r).hostData = s.hostData := rfl
@[simp] theorem setQueue_hostEp (s : State) (q : Nat) (r : QueueRegs) : (setQueue s q r).hostEp = s.hostEp := rfl
@[simp] theorem setQueue_nextId (s : State) (q : Nat) (r : QueueRegs) : (setQueue s q r).nextId = s.nextId := rfl
@[simp] theorem setQueue_freeIdx (s : State) (q : Nat) (r : QueueRegs) : (setQueue s q r).freeIdx = s.freeIdx := rfl
@[simp] theorem setQueue_agenda (s : State) (q : Nat) (r : QueueRegs) : (setQueue s q r).agenda = s.agenda := rfl

/-! `sendMsix` -/
@[simp] theorem sendMsix_hart (s : State) (f v : Nat) : (sendMsix s f v).hart = s.hart := rfl
@[simp] theorem sendMsix_others (s : State) (f v : Nat) : (sendMsix s f v).others = s.others := rfl
@[simp] theorem sendMsix_mem (s : State) (f v : Nat) : (sendMsix s f v).mem = s.mem := rfl
@[simp] theorem sendMsix_poison (s : State) (f v : Nat) : (sendMsix s f v).poison = s.poison := rfl
@[simp] theorem sendMsix_tlb (s : State) (f v : Nat) : (sendMsix s f v).tlb = s.tlb := rfl
@[simp] theorem sendMsix_wcache (s : State) (f v : Nat) : (sendMsix s f v).wcache = s.wcache := rfl
@[simp] theorem sendMsix_lines (s : State) (f v : Nat) : (sendMsix s f v).lines = s.lines := rfl
@[simp] theorem sendMsix_images (s : State) (f v : Nat) : (sendMsix s f v).images = s.images := rfl
@[simp] theorem sendMsix_migs (s : State) (f v : Nat) : (sendMsix s f v).migs = s.migs := rfl
@[simp] theorem sendMsix_banks (s : State) (f v : Nat) : (sendMsix s f v).banks = s.banks := rfl
@[simp] theorem sendMsix_cores (s : State) (f v : Nat) : (sendMsix s f v).cores = s.cores := rfl
@[simp] theorem sendMsix_dies (s : State) (f v : Nat) : (sendMsix s f v).dies = s.dies := rfl
@[simp] theorem sendMsix_relays (s : State) (f v : Nat) : (sendMsix s f v).relays = s.relays := rfl
@[simp] theorem sendMsix_sched (s : State) (f v : Nat) : (sendMsix s f v).sched = s.sched := rfl
@[simp] theorem sendMsix_hub (s : State) (f v : Nat) : (sendMsix s f v).hub = s.hub := rfl
@[simp] theorem sendMsix_time (s : State) (f v : Nat) : (sendMsix s f v).time = s.time := rfl
@[simp] theorem sendMsix_power (s : State) (f v : Nat) : (sendMsix s f v).power = s.power := rfl
@[simp] theorem sendMsix_colls (s : State) (f v : Nat) : (sendMsix s f v).colls = s.colls := rfl
@[simp] theorem sendMsix_hostData (s : State) (f v : Nat) : (sendMsix s f v).hostData = s.hostData := rfl
@[simp] theorem sendMsix_hostEp (s : State) (f v : Nat) : (sendMsix s f v).hostEp = s.hostEp := rfl
@[simp] theorem sendMsix_nextId (s : State) (f v : Nat) : (sendMsix s f v).nextId = s.nextId := rfl
@[simp] theorem sendMsix_freeIdx (s : State) (f v : Nat) : (sendMsix s f v).freeIdx = s.freeIdx := rfl
@[simp] theorem sendMsix_agenda (s : State) (f v : Nat) : (sendMsix s f v).agenda = s.agenda := rfl

/-! `updLaunch` -/
@[simp] theorem updLaunch_hart (s : State) (n : Nat) (f : Launch → Launch) : (updLaunch s n f).hart = s.hart := rfl
@[simp] theorem updLaunch_others (s : State) (n : Nat) (f : Launch → Launch) : (updLaunch s n f).others = s.others := rfl
@[simp] theorem updLaunch_mem (s : State) (n : Nat) (f : Launch → Launch) : (updLaunch s n f).mem = s.mem := rfl
@[simp] theorem updLaunch_poison (s : State) (n : Nat) (f : Launch → Launch) : (updLaunch s n f).poison = s.poison := rfl
@[simp] theorem updLaunch_tlb (s : State) (n : Nat) (f : Launch → Launch) : (updLaunch s n f).tlb = s.tlb := rfl
@[simp] theorem updLaunch_wcache (s : State) (n : Nat) (f : Launch → Launch) : (updLaunch s n f).wcache = s.wcache := rfl
@[simp] theorem updLaunch_lines (s : State) (n : Nat) (f : Launch → Launch) : (updLaunch s n f).lines = s.lines := rfl
@[simp] theorem updLaunch_images (s : State) (n : Nat) (f : Launch → Launch) : (updLaunch s n f).images = s.images := rfl
@[simp] theorem updLaunch_migs (s : State) (n : Nat) (f : Launch → Launch) : (updLaunch s n f).migs = s.migs := rfl
@[simp] theorem updLaunch_banks (s : State) (n : Nat) (f : Launch → Launch) : (updLaunch s n f).banks = s.banks := rfl
@[simp] theorem updLaunch_cores (s : State) (n : Nat) (f : Launch → Launch) : (updLaunch s n f).cores = s.cores := rfl
@[simp] theorem updLaunch_dies (s : State) (n : Nat) (f : Launch → Launch) : (updLaunch s n f).dies = s.dies := rfl
@[simp] theorem updLaunch_relays (s : State) (n : Nat) (f : Launch → Launch) : (updLaunch s n f).relays = s.relays := rfl
@[simp] theorem updLaunch_hub (s : State) (n : Nat) (f : Launch → Launch) : (updLaunch s n f).hub = s.hub := rfl
@[simp] theorem updLaunch_time (s : State) (n : Nat) (f : Launch → Launch) : (updLaunch s n f).time = s.time := rfl
@[simp] theorem updLaunch_power (s : State) (n : Nat) (f : Launch → Launch) : (updLaunch s n f).power = s.power := rfl
@[simp] theorem updLaunch_colls (s : State) (n : Nat) (f : Launch → Launch) : (updLaunch s n f).colls = s.colls := rfl
@[simp] theorem updLaunch_msix (s : State) (n : Nat) (f : Launch → Launch) : (updLaunch s n f).msix = s.msix := rfl
@[simp] theorem updLaunch_hostData (s : State) (n : Nat) (f : Launch → Launch) : (updLaunch s n f).hostData = s.hostData := rfl
@[simp] theorem updLaunch_hostEp (s : State) (n : Nat) (f : Launch → Launch) : (updLaunch s n f).hostEp = s.hostEp := rfl
@[simp] theorem updLaunch_nextId (s : State) (n : Nat) (f : Launch → Launch) : (updLaunch s n f).nextId = s.nextId := rfl
@[simp] theorem updLaunch_freeIdx (s : State) (n : Nat) (f : Launch → Launch) : (updLaunch s n f).freeIdx = s.freeIdx := rfl
@[simp] theorem updLaunch_agenda (s : State) (n : Nat) (f : Launch → Launch) : (updLaunch s n f).agenda = s.agenda := rfl

/-! The fields that are written -/

@[simp] theorem withVec_hart_vec (s : State) (f : VecState → VecState) : (withVec s f).hart.vec = f s.hart.vec := rfl
@[simp] theorem withMat_hart_mat (s : State) (f : MatState → MatState) : (withMat s f).hart.mat = f s.hart.mat := rfl
@[simp] theorem withEng_hart_eng (s : State) (f : EngState → EngState) : (withEng s f).hart.eng = f s.hart.eng := rfl
@[simp] theorem completeQuiet_hart_pc (s : State) (p : Word) : (completeQuiet s p).hart.pc = p := rfl
@[simp] theorem completeQuiet_hart_status (s : State) (p : Word) : (completeQuiet s p).hart.status = .running := rfl
@[simp] theorem completeQuiet_hart_remote (s : State) (p : Word) : (completeQuiet s p).hart.remote = none := rfl
@[simp] theorem completeQuiet_hart_pins (s : State) (p : Word) : (completeQuiet s p).hart.pins = none := rfl
@[simp] theorem waitOn_hart_status (s : State) (w : Wait) : (waitOn s w).hart.status = .waiting w := rfl
@[simp] theorem orFcsr_hart_fcsr (s : State) (f : Flags) : (orFcsr s f).hart.fcsr = s.hart.fcsr ||| (f.setWidth 5).setWidth 64 := rfl
@[simp] theorem orVflags_hart_vflags (s : State) (f : Flags) : (orVflags s f).hart.vec.vflags = s.hart.vec.vflags ||| f := rfl

/-! Registers -/

/-- X0 reads as zero (R91). -/
@[simp] theorem rx_zero (s : State) : rx s 0#5 = 0#64 := rfl

theorem wx_zero (s : State) (v : Word) : wx s 0#5 v = s := rfl

theorem get_set {α : Type} {n : Nat} (v : Vector α n) (i : Nat) (x : α) (h : i < n) (j : Fin n) :
    (v.set i x h).get j = if i = j.val then x else v.get j :=
  Vector.getElem_set h j.isLt

theorem rx_wx_same (s : State) (r : BitVec 5) (v : Word) (h : r ≠ 0#5) : rx (wx s r v) r = v := by
  simp only [rx, wx, if_neg h]
  rw [get_set]; exact if_pos rfl

theorem rx_wx_other (s : State) (r q : BitVec 5) (v : Word) (h : q ≠ r) : rx (wx s r v) q = rx s q := by
  unfold wx
  split
  · rfl
  · unfold rx
    split
    · rfl
    · rw [get_set, if_neg fun e => h (BitVec.eq_of_toNat_eq e.symm)]

theorem rw_ww_same (s : State) (r : BitVec 6) (v : Word) : rw (ww s r v) r = v := by
  simp only [rw, ww]
  rw [get_set]; exact if_pos rfl

theorem rw_ww_other (s : State) (r q : BitVec 6) (v : Word) (h : q ≠ r) : rw (ww s r v) q = rw s q := by
  simp only [rw, ww]
  rw [get_set, if_neg fun e => h (BitVec.eq_of_toNat_eq e.symm)]

theorem rm_wm_same (s : State) (k : Nat) (v : BitVec 1024) (h : k < 12) : rm (wm s k v) k = v := by simp [rm, wm, h]

theorem rh_wh_same (s : State) (k : Nat) (v : Handle) (h : k < 16) : rh (wh s k v) k = v := by simp [rh, wh, h]

theorem rc_wc_same (s : State) (k : Nat) (v : Counter) (h : k < 16) : rc (wc s k v) k = v := by simp [rc, wc, h]

/-! Turns -/

/-- The hart whose turn it is, named, has the turn. -/
theorem focus_self (s : State) (hid : Nat) (h : s.hart.who.id = hid) : focus s hid = some s := by simp [focus, h]

end Sys2Proof.Machine
end

