-- ==== Sys2Proof/Laws/Ops.lean ====
section
/-!
SUPPORT. What counting events, completing an instruction and register results can do (R360, R364).
-/
namespace Sys2Proof.Machine

open Sys2Proof

/-! ## Counting events -/

/-- `t` is `s` but for the event counters, the overflow registers and messages. -/
def EvOnly (s t : State) : Prop :=
  t = { s with
    hart := { s.hart with ev := t.hart.ev, evsel := t.hart.evsel }
    hub := { s.hub with fns := t.hub.fns }
    msix := t.msix }

theorem EvOnly.refl (s : State) : EvOnly s s := rfl

theorem EvOnly.trans {s t u : State} (h : EvOnly s t) (k : EvOnly t u) : EvOnly s u := by
  unfold EvOnly at h k ⊢
  rw [k, h]

theorem evOverflow_only (s : State) (i : Fin 8) : EvOnly s (evOverflow s i) := by
  unfold evOverflow
  dsimp only
  split <;> rfl

theorem evAdd_only (code n : Nat) (s : State) (i : Fin 8) : EvOnly s (evAdd code n s i) := by
  unfold evAdd
  split
  · dsimp only
    split
    · exact EvOnly.trans (by rfl) (evOverflow_only _ i)
    · rfl
  · rfl

theorem foldl_only (code n : Nat) (l : List (Fin 8)) (s : State) : EvOnly s (l.foldl (evAdd code n) s) := by
  induction l generalizing s with
  | nil => rfl
  | cons i t ih => exact EvOnly.trans (evAdd_only code n s i) (ih _)

theorem evCount_only (code n : Nat) (s : State) : EvOnly s (evCount code n s) := by
  unfold evCount
  split
  · rfl
  · exact foldl_only code n _ s

@[simp] theorem evCount_others (c n : Nat) (s : State) : (evCount c n s).others = s.others := by rw [evCount_only c n s]
@[simp] theorem evCount_mem (c n : Nat) (s : State) : (evCount c n s).mem = s.mem := by rw [evCount_only c n s]
@[simp] theorem evCount_poison (c n : Nat) (s : State) : (evCount c n s).poison = s.poison := by rw [evCount_only c n s]
@[simp] theorem evCount_tlb (c n : Nat) (s : State) : (evCount c n s).tlb = s.tlb := by rw [evCount_only c n s]
@[simp] theorem evCount_wcache (c n : Nat) (s : State) : (evCount c n s).wcache = s.wcache := by rw [evCount_only c n s]
@[simp] theorem evCount_lines (c n : Nat) (s : State) : (evCount c n s).lines = s.lines := by rw [evCount_only c n s]
@[simp] theorem evCount_migs (c n : Nat) (s : State) : (evCount c n s).migs = s.migs := by rw [evCount_only c n s]
@[simp] theorem evCount_banks (c n : Nat) (s : State) : (evCount c n s).banks = s.banks := by rw [evCount_only c n s]
@[simp] theorem evCount_cores (c n : Nat) (s : State) : (evCount c n s).cores = s.cores := by rw [evCount_only c n s]
@[simp] theorem evCount_dies (c n : Nat) (s : State) : (evCount c n s).dies = s.dies := by rw [evCount_only c n s]
@[simp] theorem evCount_relays (c n : Nat) (s : State) : (evCount c n s).relays = s.relays := by rw [evCount_only c n s]
@[simp] theorem evCount_sched (c n : Nat) (s : State) : (evCount c n s).sched = s.sched := by rw [evCount_only c n s]
@[simp] theorem evCount_time (c n : Nat) (s : State) : (evCount c n s).time = s.time := by rw [evCount_only c n s]
@[simp] theorem evCount_power (c n : Nat) (s : State) : (evCount c n s).power = s.power := by rw [evCount_only c n s]
@[simp] theorem evCount_colls (c n : Nat) (s : State) : (evCount c n s).colls = s.colls := by rw [evCount_only c n s]
@[simp] theorem evCount_hostData (c n : Nat) (s : State) : (evCount c n s).hostData = s.hostData := by rw [evCount_only c n s]
@[simp] theorem evCount_hostEp (c n : Nat) (s : State) : (evCount c n s).hostEp = s.hostEp := by rw [evCount_only c n s]
@[simp] theorem evCount_nextId (c n : Nat) (s : State) : (evCount c n s).nextId = s.nextId := by rw [evCount_only c n s]
@[simp] theorem evCount_freeIdx (c n : Nat) (s : State) : (evCount c n s).freeIdx = s.freeIdx := by rw [evCount_only c n s]
@[simp] theorem evCount_agenda (c n : Nat) (s : State) : (evCount c n s).agenda = s.agenda := by rw [evCount_only c n s]
@[simp] theorem evCount_hart_who (c n : Nat) (s : State) : (evCount c n s).hart.who = s.hart.who := by rw [evCount_only c n s]
@[simp] theorem evCount_hart_status (c n : Nat) (s : State) : (evCount c n s).hart.status = s.hart.status := by rw [evCount_only c n s]
@[simp] theorem evCount_hart_stopReq (c n : Nat) (s : State) : (evCount c n s).hart.stopReq = s.hart.stopReq := by rw [evCount_only c n s]
@[simp] theorem evCount_hart_stopped (c n : Nat) (s : State) : (evCount c n s).hart.stopped = s.hart.stopped := by rw [evCount_only c n s]
@[simp] theorem evCount_hart_sameCore (c n : Nat) (s : State) : (evCount c n s).hart.sameCore = s.hart.sameCore := by rw [evCount_only c n s]
@[simp] theorem evCount_hart_world (c n : Nat) (s : State) : (evCount c n s).hart.world = s.hart.world := by rw [evCount_only c n s]
@[simp] theorem evCount_hart_strike (c n : Nat) (s : State) : (evCount c n s).hart.strike = s.hart.strike := by rw [evCount_only c n s]
@[simp] theorem evCount_hart_weak (c n : Nat) (s : State) : (evCount c n s).hart.weak = s.hart.weak := by rw [evCount_only c n s]
@[simp] theorem evCount_hart_remote (c n : Nat) (s : State) : (evCount c n s).hart.remote = s.hart.remote := by rw [evCount_only c n s]
@[simp] theorem evCount_hart_pins (c n : Nat) (s : State) : (evCount c n s).hart.pins = s.hart.pins := by rw [evCount_only c n s]
@[simp] theorem evCount_hart_waitFrom (c n : Nat) (s : State) : (evCount c n s).hart.waitFrom = s.hart.waitFrom := by rw [evCount_only c n s]
@[simp] theorem evCount_hart_x (c n : Nat) (s : State) : (evCount c n s).hart.x = s.hart.x := by rw [evCount_only c n s]
@[simp] theorem evCount_hart_pc (c n : Nat) (s : State) : (evCount c n s).hart.pc = s.hart.pc := by rw [evCount_only c n s]
@[simp] theorem evCount_hart_fcsr (c n : Nat) (s : State) : (evCount c n s).hart.fcsr = s.hart.fcsr := by rw [evCount_only c n s]
@[simp] theorem evCount_hart_vec (c n : Nat) (s : State) : (evCount c n s).hart.vec = s.hart.vec := by rw [evCount_only c n s]
@[simp] theorem evCount_hart_mat (c n : Nat) (s : State) : (evCount c n s).hart.mat = s.hart.mat := by rw [evCount_only c n s]
@[simp] theorem evCount_hart_h (c n : Nat) (s : State) : (evCount c n s).hart.h = s.hart.h := by rw [evCount_only c n s]
@[simp] theorem evCount_hart_c (c n : Nat) (s : State) : (evCount c n s).hart.c = s.hart.c := by rw [evCount_only c n s]
@[simp] theorem evCount_hart_eng (c n : Nat) (s : State) : (evCount c n s).hart.eng = s.hart.eng := by rw [evCount_only c n s]
@[simp] theorem evCount_hart_trap (c n : Nat) (s : State) : (evCount c n s).hart.trap = s.hart.trap := by rw [evCount_only c n s]
@[simp] theorem evCount_hart_ccache (c n : Nat) (s : State) : (evCount c n s).hart.ccache = s.hart.ccache := by rw [evCount_only c n s]
@[simp] theorem evCount_hart_icache (c n : Nat) (s : State) : (evCount c n s).hart.icache = s.hart.icache := by rw [evCount_only c n s]

/-! ## Completing -/

@[simp] theorem complete_others (s : State) (p : Word) : (complete s p).others = s.others := by simp [complete]
@[simp] theorem complete_mem (s : State) (p : Word) : (complete s p).mem = s.mem := by simp [complete]
@[simp] theorem complete_poison (s : State) (p : Word) : (complete s p).poison = s.poison := by simp [complete]
@[simp] theorem complete_tlb (s : State) (p : Word) : (complete s p).tlb = s.tlb := by simp [complete]
@[simp] theorem complete_wcache (s : State) (p : Word) : (complete s p).wcache = s.wcache := by simp [complete]
@[simp] theorem complete_lines (s : State) (p : Word) : (complete s p).lines = s.lines := by simp [complete]
@[simp] theorem complete_migs (s : State) (p : Word) : (complete s p).migs = s.migs := by simp [complete]
@[simp] theorem complete_banks (s : State) (p : Word) : (complete s p).banks = s.banks := by simp [complete]
@[simp] theorem complete_cores (s : State) (p : Word) : (complete s p).cores = s.cores := by simp [complete]
@[simp] theorem complete_dies (s : State) (p : Word) : (complete s p).dies = s.dies := by simp [complete]
@[simp] theorem complete_relays (s : State) (p : Word) : (complete s p).relays = s.relays := by simp [complete]
@[simp] theorem complete_sched (s : State) (p : Word) : (complete s p).sched = s.sched := by simp [complete]
@[simp] theorem complete_time (s : State) (p : Word) : (complete s p).time = s.time := by simp [complete]
@[simp] theorem complete_power (s : State) (p : Word) : (complete s p).power = s.power := by simp [complete]
@[simp] theorem complete_colls (s : State) (p : Word) : (complete s p).colls = s.colls := by simp [complete]
@[simp] theorem complete_hostData (s : State) (p : Word) : (complete s p).hostData = s.hostData := by simp [complete]
@[simp] theorem complete_hostEp (s : State) (p : Word) : (complete s p).hostEp = s.hostEp := by simp [complete]
@[simp] theorem complete_nextId (s : State) (p : Word) : (complete s p).nextId = s.nextId := by simp [complete]
@[simp] theorem complete_freeIdx (s : State) (p : Word) : (complete s p).freeIdx = s.freeIdx := by simp [complete]
@[simp] theorem complete_agenda (s : State) (p : Word) : (complete s p).agenda = s.agenda := by simp [complete]
@[simp] theorem complete_hart_who (s : State) (p : Word) : (complete s p).hart.who = s.hart.who := by simp [complete]
@[simp] theorem complete_hart_stopReq (s : State) (p : Word) : (complete s p).hart.stopReq = s.hart.stopReq := by simp [complete]
@[simp] theorem complete_hart_stopped (s : State) (p : Word) : (complete s p).hart.stopped = s.hart.stopped := by simp [complete]
@[simp] theorem complete_hart_sameCore (s : State) (p : Word) : (complete s p).hart.sameCore = s.hart.sameCore := by simp [complete]
@[simp] theorem complete_hart_world (s : State) (p : Word) : (complete s p).hart.world = s.hart.world := by simp [complete]
@[simp] theorem complete_hart_strike (s : State) (p : Word) : (complete s p).hart.strike = s.hart.strike := by simp [complete]
@[simp] theorem complete_hart_weak (s : State) (p : Word) : (complete s p).hart.weak = s.hart.weak := by simp [complete]
@[simp] theorem complete_hart_waitFrom (s : State) (p : Word) : (complete s p).hart.waitFrom = s.hart.waitFrom := by simp [complete]
@[simp] theorem complete_hart_x (s : State) (p : Word) : (complete s p).hart.x = s.hart.x := by simp [complete]
@[simp] theorem complete_hart_fcsr (s : State) (p : Word) : (complete s p).hart.fcsr = s.hart.fcsr := by simp [complete]
@[simp] theorem complete_hart_vec (s : State) (p : Word) : (complete s p).hart.vec = s.hart.vec := by simp [complete]
@[simp] theorem complete_hart_mat (s : State) (p : Word) : (complete s p).hart.mat = s.hart.mat := by simp [complete]
@[simp] theorem complete_hart_h (s : State) (p : Word) : (complete s p).hart.h = s.hart.h := by simp [complete]
@[simp] theorem complete_hart_c (s : State) (p : Word) : (complete s p).hart.c = s.hart.c := by simp [complete]
@[simp] theorem complete_hart_eng (s : State) (p : Word) : (complete s p).hart.eng = s.hart.eng := by simp [complete]
@[simp] theorem complete_hart_trap (s : State) (p : Word) : (complete s p).hart.trap = s.hart.trap := by simp [complete]
@[simp] theorem complete_hart_ccache (s : State) (p : Word) : (complete s p).hart.ccache = s.hart.ccache := by simp [complete]
@[simp] theorem complete_hart_icache (s : State) (p : Word) : (complete s p).hart.icache = s.hart.icache := by simp [complete]
@[simp] theorem complete_hart_pc (s : State) (p : Word) : (complete s p).hart.pc = p := by simp [complete]
@[simp] theorem complete_hart_status (s : State) (p : Word) : (complete s p).hart.status = .running := by simp [complete]
@[simp] theorem complete_hart_remote (s : State) (p : Word) : (complete s p).hart.remote = none := by simp [complete]
@[simp] theorem complete_hart_pins (s : State) (p : Word) : (complete s p).hart.pins = none := by simp [complete]

@[simp] theorem advance_others (s : State) : (advance s).others = s.others := by simp [advance]
@[simp] theorem advance_mem (s : State) : (advance s).mem = s.mem := by simp [advance]
@[simp] theorem advance_poison (s : State) : (advance s).poison = s.poison := by simp [advance]
@[simp] theorem advance_tlb (s : State) : (advance s).tlb = s.tlb := by simp [advance]
@[simp] theorem advance_wcache (s : State) : (advance s).wcache = s.wcache := by simp [advance]
@[simp] theorem advance_lines (s : State) : (advance s).lines = s.lines := by simp [advance]
@[simp] theorem advance_migs (s : State) : (advance s).migs = s.migs := by simp [advance]
@[simp] theorem advance_banks (s : State) : (advance s).banks = s.banks := by simp [advance]
@[simp] theorem advance_cores (s : State) : (advance s).cores = s.cores := by simp [advance]
@[simp] theorem advance_dies (s : State) : (advance s).dies = s.dies := by simp [advance]
@[simp] theorem advance_relays (s : State) : (advance s).relays = s.relays := by simp [advance]
@[simp] theorem advance_sched (s : State) : (advance s).sched = s.sched := by simp [advance]
@[simp] theorem advance_time (s : State) : (advance s).time = s.time := by simp [advance]
@[simp] theorem advance_power (s : State) : (advance s).power = s.power := by simp [advance]
@[simp] theorem advance_colls (s : State) : (advance s).colls = s.colls := by simp [advance]
@[simp] theorem advance_hostData (s : State) : (advance s).hostData = s.hostData := by simp [advance]
@[simp] theorem advance_hostEp (s : State) : (advance s).hostEp = s.hostEp := by simp [advance]
@[simp] theorem advance_nextId (s : State) : (advance s).nextId = s.nextId := by simp [advance]
@[simp] theorem advance_freeIdx (s : State) : (advance s).freeIdx = s.freeIdx := by simp [advance]
@[simp] theorem advance_agenda (s : State) : (advance s).agenda = s.agenda := by simp [advance]
@[simp] theorem advance_hart_who (s : State) : (advance s).hart.who = s.hart.who := by simp [advance]
@[simp] theorem advance_hart_stopReq (s : State) : (advance s).hart.stopReq = s.hart.stopReq := by simp [advance]
@[simp] theorem advance_hart_stopped (s : State) : (advance s).hart.stopped = s.hart.stopped := by simp [advance]
@[simp] theorem advance_hart_sameCore (s : State) : (advance s).hart.sameCore = s.hart.sameCore := by simp [advance]
@[simp] theorem advance_hart_world (s : State) : (advance s).hart.world = s.hart.world := by simp [advance]
@[simp] theorem advance_hart_strike (s : State) : (advance s).hart.strike = s.hart.strike := by simp [advance]
@[simp] theorem advance_hart_weak (s : State) : (advance s).hart.weak = s.hart.weak := by simp [advance]
@[simp] theorem advance_hart_waitFrom (s : State) : (advance s).hart.waitFrom = s.hart.waitFrom := by simp [advance]
@[simp] theorem advance_hart_x (s : State) : (advance s).hart.x = s.hart.x := by simp [advance]
@[simp] theorem advance_hart_fcsr (s : State) : (advance s).hart.fcsr = s.hart.fcsr := by simp [advance]
@[simp] theorem advance_hart_vec (s : State) : (advance s).hart.vec = s.hart.vec := by simp [advance]
@[simp] theorem advance_hart_mat (s : State) : (advance s).hart.mat = s.hart.mat := by simp [advance]
@[simp] theorem advance_hart_h (s : State) : (advance s).hart.h = s.hart.h := by simp [advance]
@[simp] theorem advance_hart_c (s : State) : (advance s).hart.c = s.hart.c := by simp [advance]
@[simp] theorem advance_hart_eng (s : State) : (advance s).hart.eng = s.hart.eng := by simp [advance]
@[simp] theorem advance_hart_trap (s : State) : (advance s).hart.trap = s.hart.trap := by simp [advance]
@[simp] theorem advance_hart_ccache (s : State) : (advance s).hart.ccache = s.hart.ccache := by simp [advance]
@[simp] theorem advance_hart_icache (s : State) : (advance s).hart.icache = s.hart.icache := by simp [advance]
@[simp] theorem advance_hart_pc (s : State) : (advance s).hart.pc = s.hart.pc + 4 := by simp [advance]
@[simp] theorem advance_hart_status (s : State) : (advance s).hart.status = .running := by simp [advance]
@[simp] theorem advance_hart_remote (s : State) : (advance s).hart.remote = none := by simp [advance]
@[simp] theorem advance_hart_pins (s : State) : (advance s).hart.pins = none := by simp [advance]

@[simp] theorem rx_advance (s : State) (r : BitVec 5) : rx (advance s) r = rx s r := by simp [rx]
@[simp] theorem rx_complete (s : State) (p : Word) (r : BitVec 5) : rx (complete s p) r = rx s r := by simp [rx]
@[simp] theorem readPa_advance (s : State) (a : Nat) : readPa (advance s) a = readPa s a := by simp [readPa]

/-- A register result, read back. -/
theorem rx_setX (s : State) (d : BitVec 5) (v : Word) (h : d ≠ 0#5) : rx (advance (wx s d v)) d = v := by
  rw [rx_advance, rx_wx_same s d v h]

/-- A register result leaves the other registers alone. -/
theorem rx_setX_other (s : State) (d r : BitVec 5) (v : Word) (h : r ≠ d) : rx (advance (wx s d v)) r = rx s r := by
  rw [rx_advance, rx_wx_other s d r v h]

end Sys2Proof.Machine
end

