-- ==== Sys2Proof/Laws/Table.lean ====
section
/-!
SUPPORT. Sparse tables: reading after writing, the canonical form, and runs of bytes.
-/
namespace Sys2Proof.Machine

open Sys2Proof

/-! ## Reading after writing -/

theorem tabGet_insert_same {α : Type} (d : α) (t : List (Nat × α)) (a : Nat) (v : α) : tabGet d (tabInsert t a v) a = v := by
  induction t with
  | nil => simp [tabInsert, tabGet]
  | cons p t ih =>
    obtain ⟨k, w⟩ := p
    unfold tabInsert
    split
    · simp [tabGet]
    · split
      · simp [tabGet]
      · rename_i h1 h2
        simp [tabGet, h1, h2, ih]

/-- Inserting a key leaves the reading of every other key, whatever the table. -/
theorem tabGet_insert_other {α : Type} (d : α) (t : List (Nat × α)) (a b : Nat) (v : α) (hab : b ≠ a) :
    tabGet d (tabInsert t a v) b = tabGet d t b := by
  induction t with
  | nil => simp [tabInsert, tabGet, Ne.symm hab]
  | cons p t ih =>
    obtain ⟨k, w⟩ := p
    unfold tabInsert
    split
    · rename_i h; subst h
      simp [tabGet, Ne.symm hab]
    · split
      · rename_i h1 h2
        simp only [tabGet, if_neg (Ne.symm hab)]
        by_cases hb : b < a
        · have : b < k := by omega
          simp [hb, this, show ¬ k = b by omega]
        · simp [hb]
      · simp only [tabGet, ih]

/-! ## The canonical form -/

/-- The canonical form of a table with a first entry. -/
theorem tabWfFrom_cons {α : Type} [DecidableEq α] (d : α) (lo : Option Nat) (k : Nat) (w : α) (t : List (Nat × α)) :
    tabWfFrom d lo ((k, w) :: t) = true ↔ (∀ l, lo = some l → l < k) ∧ w ≠ d ∧ tabWfFrom d (some k) t = true := by
  cases lo <;> simp [tabWfFrom, and_assoc]

theorem tabWfFrom_weaken {α : Type} [DecidableEq α] (d : α) (t : List (Nat × α)) (lo : Option Nat) (k : Nat)
    (h : tabWfFrom d (some k) t = true) (hlo : ∀ l, lo = some l → l ≤ k) : tabWfFrom d lo t = true := by
  cases t with
  | nil => rfl
  | cons p t =>
    obtain ⟨m, w⟩ := p
    rw [tabWfFrom_cons] at h ⊢
    refine ⟨fun l hl => ?_, h.2⟩
    have h1 := hlo l hl
    have h2 := h.1 k rfl
    omega

theorem tabWfFrom_insert {α : Type} [DecidableEq α] (d : α) (a : Nat) (v : α) (hv : v ≠ d) (t : List (Nat × α)) (lo : Option Nat)
    (h : tabWfFrom d lo t = true) (hlo : ∀ l, lo = some l → l < a) : tabWfFrom d lo (tabInsert t a v) = true := by
  induction t generalizing lo with
  | nil => exact (tabWfFrom_cons d lo a v []).mpr ⟨hlo, hv, rfl⟩
  | cons p t ih =>
    obtain ⟨k, w⟩ := p
    have h' := (tabWfFrom_cons d lo k w t).mp h
    unfold tabInsert
    split
    · rename_i hk; subst hk
      exact (tabWfFrom_cons d lo k v t).mpr ⟨h'.1, hv, h'.2.2⟩
    · split
      · rename_i h1 h2
        refine (tabWfFrom_cons d lo a v _).mpr ⟨hlo, hv, (tabWfFrom_cons d (some a) k w t).mpr ⟨?_, h'.2⟩⟩
        intro l hl; cases hl; exact h2
      · rename_i h1 h2
        refine (tabWfFrom_cons d lo k w _).mpr ⟨h'.1, h'.2.1, ih (some k) h'.2.2 ?_⟩
        intro l hl; cases hl; omega

theorem tabWfFrom_erase {α : Type} [DecidableEq α] (d : α) (a : Nat) (t : List (Nat × α)) (lo : Option Nat)
    (h : tabWfFrom d lo t = true) : tabWfFrom d lo (tabErase t a) = true := by
  induction t generalizing lo with
  | nil => rfl
  | cons p t ih =>
    obtain ⟨k, w⟩ := p
    have h' := (tabWfFrom_cons d lo k w t).mp h
    unfold tabErase
    split
    · exact tabWfFrom_weaken d t lo k h'.2.2 fun l hl => Nat.le_of_lt (h'.1 l hl)
    · split
      · exact h
      · exact (tabWfFrom_cons d lo k w _).mpr ⟨h'.1, h'.2.1, ih (some k) h'.2.2⟩

/-- Writing keeps the canonical form. -/
theorem tabWf_set {α : Type} [DecidableEq α] (d : α) (t : List (Nat × α)) (a : Nat) (v : α) (h : tabWf d t = true) :
    tabWf d (tabSet d t a v) = true := by
  unfold tabSet
  split
  · exact tabWfFrom_erase d a t none h
  · rename_i hv
    exact tabWfFrom_insert d a v hv t none h (by intro l hl; cases hl)

/-- Below its first key, a table in canonical form lists nothing. -/
theorem tabGet_below {α : Type} [DecidableEq α] (d : α) (t : List (Nat × α)) (k b : Nat) (h : tabWfFrom d (some k) t = true) (hb : b ≤ k) :
    tabGet d t b = d := by
  cases t with
  | nil => rfl
  | cons p t =>
    obtain ⟨m, w⟩ := p
    simp only [tabWfFrom, Bool.and_eq_true, decide_eq_true_eq] at h
    have := h.1.1
    simp [tabGet, show ¬ m = b by omega, show b < m by omega]

theorem tabGet_erase_same {α : Type} [DecidableEq α] (d : α) (a : Nat) (t : List (Nat × α)) (lo : Option Nat) (h : tabWfFrom d lo t = true) :
    tabGet d (tabErase t a) a = d := by
  induction t generalizing lo with
  | nil => rfl
  | cons p t ih =>
    obtain ⟨k, w⟩ := p
    simp only [tabWfFrom, Bool.and_eq_true] at h
    unfold tabErase
    split
    · rename_i hk; subst hk
      exact tabGet_below d t k k h.2 (Nat.le_refl _)
    · split
      · rename_i h1 h2; simp [tabGet, h1, h2]
      · rename_i h1 h2; simp [tabGet, h1, h2, ih (some k) h.2]

theorem tabGet_erase_other {α : Type} [DecidableEq α] (d : α) (a b : Nat) (hab : b ≠ a) (t : List (Nat × α)) (lo : Option Nat)
    (h : tabWfFrom d lo t = true) : tabGet d (tabErase t a) b = tabGet d t b := by
  induction t generalizing lo with
  | nil => rfl
  | cons p t ih =>
    obtain ⟨k, w⟩ := p
    simp only [tabWfFrom, Bool.and_eq_true] at h
    unfold tabErase
    split
    · rename_i hk; subst hk
      simp only [tabGet, if_neg (Ne.symm hab)]
      by_cases hb : b < k
      · simp [hb, tabGet_below d t k b h.2 (by omega)]
      · simp [hb]
    · split
      · rfl
      · simp only [tabGet, ih (some k) h.2]

/-- A read after a write of the same key gives the value written. -/
theorem tabGet_set_same {α : Type} [DecidableEq α] (d : α) (t : List (Nat × α)) (a : Nat) (v : α) (h : tabWf d t = true) :
    tabGet d (tabSet d t a v) a = v := by
  unfold tabSet
  split
  · rename_i hv; rw [hv]; exact tabGet_erase_same d a t none h
  · exact tabGet_insert_same d t a v

/-- A write leaves every other key alone. -/
theorem tabGet_set_other {α : Type} [DecidableEq α] (d : α) (t : List (Nat × α)) (a b : Nat) (v : α) (h : tabWf d t = true) (hab : b ≠ a) :
    tabGet d (tabSet d t a v) b = tabGet d t b := by
  unfold tabSet
  split
  · exact tabGet_erase_other d a b hab t none h
  · exact tabGet_insert_other d t a b v hab

/-! ## Runs of bytes -/

theorem Memory.wf_nil : Memory.wf [] = true := rfl

theorem Memory.wf_put (bs : List Byte) (m : List Host.Cell) (a : Nat) (h : Memory.wf m = true) : Memory.wf (cellsPut m a bs) = true := by
  induction bs generalizing m a with
  | nil => exact h
  | cons b t ih => exact ih (tabSet 0#8 m a b) (a + 1) (tabWf_set 0#8 m a b h)

/-- A byte outside a run that is stored keeps its value. -/
theorem cellsPut_outside (bs : List Byte) (m : List Host.Cell) (a x : Nat) (h : Memory.wf m = true) (hx : x < a ∨ a + bs.length ≤ x) :
    tabGet 0#8 (cellsPut m a bs) x = tabGet 0#8 m x := by
  induction bs generalizing m a with
  | nil => rfl
  | cons b t ih =>
    simp only [List.length_cons] at hx
    rw [cellsPut, ih (tabSet 0#8 m a b) (a + 1) (tabWf_set 0#8 m a b h) (by omega)]
    exact tabGet_set_other 0#8 m a x b h (by omega)

/-- A stored run reads back. -/
theorem cellsAt_put (bs : List Byte) (m : List Host.Cell) (a : Nat) (h : Memory.wf m = true) :
    cellsAt (cellsPut m a bs) a bs.length = bs := by
  induction bs generalizing m a with
  | nil => rfl
  | cons b t ih =>
    have hw := tabWf_set 0#8 m a b h
    simp only [List.length_cons, cellsAt, cellsPut]
    rw [ih (tabSet 0#8 m a b) (a + 1) hw, cellsPut_outside t (tabSet 0#8 m a b) (a + 1) a hw (by omega), tabGet_set_same 0#8 m a b h]

theorem length_bytesOfNat (n v : Nat) : (bytesOfNat n v).length = n := by
  induction n generalizing v with
  | zero => rfl
  | succ n ih => simp [bytesOfNat, ih]

theorem natOfBytes_bytesOfNat (n v : Nat) : natOfBytes (bytesOfNat n v) = v % 2 ^ (8 * n) := by
  induction n generalizing v with
  | zero => simp [bytesOfNat, natOfBytes, Nat.mod_one]
  | succ n ih =>
    simp only [bytesOfNat, natOfBytes, ih, BitVec.toNat_ofNat]
    rw [show 8 * (n + 1) = 8 + 8 * n by omega, Nat.pow_add, Nat.mod_mul]

end Sys2Proof.Machine
end

