-- ==== Sys2Proof/Laws/Access.lean ====
section
/-!
SUPPORT. What the accesses can do to memory: a store writes its own bytes at its place and nothing else, and every
operation that stores keeps memory in its canonical form.
-/
namespace Sys2Proof.Machine

open Sys2Proof Sys2Proof.Safety

/-! ## Operations that leave memory alone -/

@[simp] theorem mapHarts_mem (f : Hart → Hart) (s : State) : (mapHarts f s).mem = s.mem := rfl
@[simp] theorem mapHarts_poison (f : Hart → Hart) (s : State) : (mapHarts f s).poison = s.poison := rfl
@[simp] theorem breakLine_mem (n : Nat) (e : Option Nat) (s : State) : (breakLine n e s).mem = s.mem := rfl
@[simp] theorem breakLine_banks (n : Nat) (e : Option Nat) (s : State) : (breakLine n e s).banks = s.banks := rfl
@[simp] theorem updGang_mem (s : State) (n g : Nat) (f : Gang → Gang) : (updGang s n g f).mem = s.mem := rfl
@[simp] theorem freeBanks_mem (s : State) (n g : Nat) : (freeBanks s n g).mem = s.mem := rfl
@[simp] theorem endGang_mem (s : State) (n g : Nat) : (endGang s n g).mem = s.mem := rfl
@[simp] theorem queueGang_mem (s : State) (n g : Nat) : (queueGang s n g).mem = s.mem := rfl
@[simp] theorem abortLaunch_mem (s : State) (n : Nat) (c : BitVec 8) : (abortLaunch s n c).mem = s.mem := rfl
@[simp] theorem endProgram_mem (s : State) (c : BitVec 8) (v : Word) : (endProgram s c v).mem = s.mem := rfl
@[simp] theorem clearPoison_mem (s : State) (a n : Nat) : (clearPoison s a n).mem = s.mem := rfl
@[simp] theorem leaveCore_mem (s : State) : (leaveCore s).mem = s.mem := rfl

@[simp] theorem settleGang_mem (s : State) (n g : Nat) : (settleGang s n g).mem = s.mem := by
  unfold settleGang
  split
  · rfl
  · dsimp only
    split
    · rfl
    · split
      · rfl
      · split <;> rfl

@[simp] theorem settleHart_mem (s : State) : (settleHart s).mem = s.mem := by
  unfold settleHart
  split
  · rfl
  · simp

@[simp] theorem clearPoisonAt_mem (s t : State) (p : Path) (a n : Nat) : (clearPoisonAt s t p a n).mem = t.mem := by
  unfold clearPoisonAt
  split <;> rfl

/-- Focusing a hart changes no memory. -/
theorem focus_mem {s t : State} {hid : Nat} (h : focus s hid = some t) : t.mem = s.mem := by
  unfold focus at h
  split at h
  · cases h; rfl
  · split at h
    · cases h; rfl
    · cases h

/-! ## Storing at a place -/

/-- Bytes stored at a physical place, and everything else as it was. -/
theorem putBytes_pa {s t : State} {a lg va : Nat} {w : Word} {x : Option Nat} {bs : List Byte}
    (h : putBytes s (.pa a w lg) x va bs = .ok t) : t.mem = cellsPut s.mem a bs := by
  unfold putBytes at h
  cases h
  rfl

/-- Storing in a bank changes no physical memory. -/
theorem putBytes_bank {s t : State} {k off va : Nat} {x : Option Nat} {bs : List Byte}
    (h : putBytes s (.bank k off) x va bs = .ok t) : t.mem = s.mem := by
  unfold putBytes at h
  dsimp only at h
  split at h
  · cases h
  · cases h; rfl

theorem putBytes_ok {s t : State} {l : Loc} {x : Option Nat} {va : Nat} {bs : List Byte} (hs : memOk s)
    (h : putBytes s l x va bs = .ok t) : memOk t := by
  cases l with
  | pa a w lg => unfold memOk; rw [putBytes_pa h]; exact Memory.wf_put bs s.mem a hs
  | bank k off => unfold memOk; rw [putBytes_bank h]; exact hs
  | fifo k => cases h

/-- A byte outside the stored bytes keeps its value. -/
theorem putBytes_outside {s t : State} {a lg va : Nat} {w : Word} {x : Option Nat} {bs : List Byte} (hs : memOk s)
    (h : putBytes s (.pa a w lg) x va bs = .ok t) (y : Nat) (hy : y < a ∨ a + bs.length ≤ y) : readPa t y = readPa s y := by
  unfold readPa
  rw [putBytes_pa h]
  exact cellsPut_outside bs s.mem a y hs hy

/-! ## Stores that are held back -/

theorem performOne_ok (x : Posted) {s : State} (hs : memOk s) : memOk (performOne s x) := by
  unfold performOne
  split
  · rename_i t ht; exact putBytes_ok hs ht
  · exact hs

theorem performAll_ok (xs : List Posted) {s : State} (hs : memOk s) : memOk (xs.foldl performOne s) := by
  induction xs generalizing s with
  | nil => exact hs
  | cons x t ih => exact ih (performOne_ok x hs)

theorem drain_ok (v : Bool) {s : State} (hs : memOk s) : memOk (drain s v) := by
  unfold drain
  split
  · exact hs
  · exact performAll_ok _ hs

theorem drainAll_ok {s : State} (hs : memOk s) : memOk (drainAll s) := drain_ok true (drain_ok false hs)

/-- With nothing held back there is nothing to perform. -/
theorem drain_nil {s : State} {v : Bool} (h : s.hart.weak.posted v = []) : drain s v = s := by
  unfold drain
  rw [if_pos h]

/-- A store of a stream that holds none back performs at once. -/
theorem storeAt_now {s : State} {p : Path} (h : p.post = none) (l : Loc) (va : Nat) (bs : List Byte) :
    storeAt s p l va bs = putBytes s l none va bs := by
  unfold storeAt
  rw [h]

/-- A store keeps memory canonical: it performs, after the earlier ones of its stream, or is held back. -/
theorem storeAt_ok {s t : State} {p : Path} {l : Loc} {va : Nat} {bs : List Byte} (hs : memOk s) (h : storeAt s p l va bs = .ok t) :
    memOk t := by
  unfold storeAt at h
  split at h
  · exact putBytes_ok hs h
  · rename_i v _
    split at h
    · cases h; exact hs
    · exact putBytes_ok (drain_ok v hs) h

/-! ## Stores on a path -/

theorem bind_ok {α β : Type} {r : MRes α} {f : α → MRes β} {b : β} (h : r.bind f = .ok b) : ∃ a, r = .ok a ∧ f a = .ok b := by
  cases r with
  | ok a => exact ⟨a, rfl, h⟩
  | trap c a => cases h
  | wait w => cases h

theorem storeNat_ok {s t : State} {p : Path} {va n v : Nat} {rf : Refuse} (hs : memOk s) (h : storeNat s p va n v rf = .ok t) :
    memOk t := by
  obtain ⟨l, -, hl⟩ := bind_ok h
  exact storeAt_ok hs hl

theorem storeBytes_ok {p : Path} (bs : List Byte) {s t : State} {va : Nat} (hs : memOk s) (h : storeBytes s p va bs = .ok t) :
    memOk t := by
  induction bs generalizing s va with
  | nil => cases h; exact hs
  | cons b bs ih =>
    obtain ⟨u, hu, ht⟩ := bind_ok h
    exact ih (storeNat_ok hs hu) ht

theorem storeBlock_ok {s t : State} {p : Path} {va : Nat} {bs : List Byte} (hs : memOk s) (h : storeBlock s p va bs = .ok t) :
    memOk t := by
  obtain ⟨u, hu, ht⟩ := bind_ok h
  cases ht
  unfold memOk
  rw [clearPoisonAt_mem]
  exact storeBytes_ok bs hs hu

/-! ## Logs and exceptions -/

theorem logStore_ok (s : State) (f va : Nat) (bs : List Byte) (hs : memOk s) : memOk (logStore s f va bs) := by
  unfold logStore
  split
  · rename_i t ht; exact storeBlock_ok hs ht
  · split
    · split
      · rename_i t ht
        have h : memOk t := storeBlock_ok (by exact hs) ht
        exact h
      · exact hs
    · exact hs
  · exact hs

theorem writeEvent_ok (s : State) (f : Nat) (bs : List Byte) (hs : memOk s) : memOk (writeEvent s f bs) := by
  unfold writeEvent memOk
  simp only [sendMsix_mem, setFn_mem]
  split
  · exact logStore_ok _ _ _ _ hs
  · exact hs

theorem writeErrata_ok (s : State) (f : Nat) (bs : List Byte) (hs : memOk s) : memOk (writeErrata s f bs).1 := by
  unfold writeErrata memOk
  simp only [setFn_mem]
  split
  · exact logStore_ok _ _ _ _ hs
  · exact hs

theorem poisonCounterOp_ok (s : State) (c a o : Nat) (w : BitVec 32) (cause : BitVec 8) (p : Nat) (hs : memOk s) :
    memOk (poisonCounterOp s c a o w cause p) := by
  have h := writeErrata_ok s s.hart.who.fn (errataBytes s.hart.who a o w cause p c) hs
  unfold memOk at h ⊢
  unfold poisonCounterOp
  simpa using h

theorem errataPending_ok (s : State) (a o : Nat) (w : BitVec 32) (cause : BitVec 8) (p : Nat) (hs : memOk s) :
    memOk (errataPending s a o w cause p) := by
  have h := writeErrata_ok s s.hart.who.fn (errataBytes s.hart.who a o w cause p 0xFF) hs
  unfold memOk at h ⊢
  unfold errataPending
  simpa using h

theorem haltHart_ok (s : State) (c : BitVec 8) (n : Nat) (v e p : Word) (hs : memOk s) : memOk (haltHart s c n v e p) := by
  unfold haltHart
  dsimp only
  split
  · exact hs
  · unfold memOk
    rw [settleHart_mem, abortLaunch_mem]
    exact writeEvent_ok _ _ _ hs

/-- Taking an exception keeps memory canonical: it stores at most an event record. -/
theorem takeTrap_ok (s : State) (t : Trap) (hs : memOk s) : memOk (takeTrap s t) := by
  unfold takeTrap
  dsimp only
  split
  · exact hs
  · split
    · exact haltHart_ok _ _ _ _ _ _ hs
    · exact haltHart_ok _ _ _ _ _ _ hs

theorem advance_ok (s : State) (hs : memOk s) : memOk (advance s) := by
  unfold memOk
  rw [advance_mem]
  exact hs

/-- The outcome of a scalar access whose result keeps memory canonical keeps it. -/
theorem scalarOut_ok (s : State) (r : MRes State) (hs : memOk s) (hr : ∀ t, r = .ok t → memOk t) : onNext (scalarOut s r) memOk := by
  cases r with
  | ok t => exact hr t rfl
  | trap c a => exact takeTrap_ok s _ hs
  | wait w => exact hs

/-! ## Images -/

@[simp] theorem foldBytes_eq (f : Nat → Byte → Nat) (c : Nat) (bs : List Byte) : foldBytes f c bs = bs.foldl f c := by
  induction bs generalizing c with
  | nil => rfl
  | cons b bs ih => rw [foldBytes]; split <;> simp_all

@[simp] theorem saveImage_hart (s : State) : (saveImage s).hart = s.hart := rfl
@[simp] theorem saveImage_mem (s : State) : (saveImage s).mem = s.mem := rfl
@[simp] theorem dropImages_hart (s : State) (p : Nat → Bool) : (dropImages s p).hart = s.hart := rfl
@[simp] theorem dropImages_mem (s : State) (p : Nat → Bool) : (dropImages s p).mem = s.mem := rfl

/-- Saving an image changes nothing but the table of images. -/
theorem saveImage_only (s : State) : saveImage s = { s with images := (saveImage s).images } := by simp only [saveImage]

/-- Dropping images leaves the images of the other harts. -/
theorem dropImages_only (s : State) (p : Nat → Bool) (x : Nat × List Byte) :
    x ∈ (dropImages s p).images ↔ x ∈ s.images ∧ p x.1 = false := by simp [dropImages]

end Sys2Proof.Machine
end

