-- ==== Sys2Proof/Laws/Late.lean ====
section
/-!
SUPPORT. What an access under way changes when it performs (R269, log 118).
-/
namespace Sys2Proof.Machine

open Sys2Proof

/-! ## The hart that an access performs in, and the hart after it -/

@[simp] theorem Late.enter_galley (l : Late) (h : Hart) : (l.enter h).vec.galley = h.vec.galley := rfl
@[simp] theorem Late.enter_vflags (l : Late) (h : Hart) : (l.enter h).vec.vflags = h.vec.vflags := rfl
@[simp] theorem Late.enter_x (l : Late) (h : Hart) : (l.enter h).x = l.x := rfl
@[simp] theorem Late.enter_pc (l : Late) (h : Hart) : (l.enter h).pc = l.pc := rfl
@[simp] theorem Late.enter_who (l : Late) (h : Hart) : (l.enter h).who = h.who := rfl
@[simp] theorem Late.enter_trap (l : Late) (h : Hart) : (l.enter h).trap = h.trap := rfl
@[simp] theorem Late.enter_late (l : Late) (h : Hart) : (l.enter h).weak.late = [] := rfl
@[simp] theorem Late.leave_pc (l : Late) (now done : Hart) (rest : List Late) : (l.leave now done rest).pc = now.pc := rfl
@[simp] theorem Late.leave_status (l : Late) (now done : Hart) (rest : List Late) : (l.leave now done rest).status = now.status := rfl
@[simp] theorem Late.leave_mat (l : Late) (now done : Hart) (rest : List Late) : (l.leave now done rest).mat = now.mat := rfl
@[simp] theorem Late.leave_galley (l : Late) (now done : Hart) (rest : List Late) :
    (l.leave now done rest).vec.galley = done.vec.galley := rfl
@[simp] theorem Late.leave_vflags (l : Late) (now done : Hart) (rest : List Late) :
    (l.leave now done rest).vec.vflags = done.vec.vflags := rfl
@[simp] theorem Late.leave_vmode (l : Late) (now done : Hart) (rest : List Late) :
    (l.leave now done rest).vec.vmode = now.vec.vmode := rfl
@[simp] theorem Late.leave_late (l : Late) (now done : Hart) (rest : List Late) : (l.leave now done rest).weak.late = rest := rfl

/-- An access without a destination register leaves X as it is. -/
theorem lateX_none {op : Instr} (h : lateDst op = none) (now done : Vector Word 32) : lateX op now done = now := by
  simp only [lateX, h]

/-- Restamping changes nothing but the list of accesses under way. -/
theorem restamp_only (vec : Bool) (s : State) :
    restamp vec s = { s with hart := { s.hart with weak := { s.hart.weak with late := (restamp vec s).hart.weak.late } } } := rfl

@[simp] theorem restamp_length (vec : Bool) (s : State) : (restamp vec s).hart.weak.late.length = s.hart.weak.late.length := by
  simp [restamp]

/-! ## The oldest access of a stream -/

/-- The list is what stands before the oldest access of the stream, that access, and what stands behind it. -/
theorem splitLate_eq {vec : Bool} {ls : List Late} {o y : List Late} {l : Late} (h : splitLate vec ls = some (o, l, y)) :
    ls = o ++ l :: y ∧ vectorOp l.op = vec ∧ ∀ x ∈ o, vectorOp x.op ≠ vec := by
  induction ls generalizing o with
  | nil => simp [splitLate] at h
  | cons a t ih =>
    simp only [splitLate] at h
    split at h
    · simp only [Option.some.injEq, Prod.mk.injEq] at h
      obtain ⟨rfl, rfl, rfl⟩ := h
      simp_all
    · obtain ⟨⟨o', l', y'⟩, hx, he⟩ := Option.map_eq_some_iff.mp h
      simp only [Prod.mk.injEq] at he
      obtain ⟨rfl, rfl, rfl⟩ := he
      obtain ⟨rfl, hv, ho⟩ := ih hx
      simp_all

/-- What performing an access can come to: nothing; the state that its instruction leaves, but for the hart; or, of a load that no
longer could, that which it leaves on memory as at its dispatch, with memory as it is. -/
theorem performLate_cases {vec : Bool} {s t : State} (h : performLate vec s = .next t) :
    t = s ∨ ∃ o l y u, splitLate vec s.hart.weak.late = some (o, l, y)
      ∧ ((runOp l.op { s with hart := l.enter s.hart } = .next u ∧ t = { u with hart := t.hart })
        ∨ (runOp l.op (l.back.state { s with hart := l.enter s.hart }) = .next u
          ∧ t = { u with hart := t.hart, mem := (drain s vec).mem, poison := (drain s vec).poison, banks := (drain s vec).banks })) := by
  unfold performLate at h
  split at h
  · exact .inl (by simpa using h.symm)
  · rename_i o l y hs
    dsimp only at h
    split at h
    · rename_i u hu
      split at h
      · refine .inr ⟨o, l, y, u, hs, .inl ⟨hu, ?_⟩⟩
        simp only [Host.Outcome.next.injEq] at h
        subst h
        split <;> rfl
      · split at h
        · rename_i v _ hv
          split at h
          · refine .inr ⟨o, l, y, v, hs, .inr ⟨hv, ?_⟩⟩
            simp only [Host.Outcome.next.injEq] at h
            subst h
            split <;> rfl
          · exact .inl (by simpa using h.symm)
        · split at h
          · exact .inl (by simpa using h.symm)
          · refine .inr ⟨o, l, y, u, hs, .inl ⟨hu, ?_⟩⟩
            simp only [Host.Outcome.next.injEq] at h
            subst h
            rfl
    · rename_i hn
      exact absurd h (hn t)

end Sys2Proof.Machine
end

