-- ==== Sys2Proof/Tests/Slice0.lean ====
section
/-!
SUPPORT. Tests: terms that are no instruction word, words written out from the encoding tables, one step on small states with
results worked out from the rules, and for every statement with hypotheses states and operands that meet them.
-/
namespace Sys2Proof.Tests

set_option Elab.async false

open Sys2Proof Sys2Proof.Machine Sys2Proof.Safety

/-! ## Terms that are no instruction word: one for each check of WellFormed -/

theorem test_wf_event : (Instr.moduleReset).wf = false ∧ (Instr.wordNotInstruction .illegalOp 0).wf = false := by decide
theorem test_wf_register_number :
    (Instr.csrr 5 0x00A).wf = false ∧ (Instr.csrw 5 0x028).wf = false ∧ (Instr.csrs 5 0x001).wf = false
    ∧ (Instr.csrc 5 0x090).wf = false := by decide
theorem test_wf_compare_and_conversion_codes : (Instr.fcmp 1 2 3 4 0).wf = false ∧ (Instr.fcvt 1 2 12 0).wf = false := by decide
theorem test_wf_mask_numbers :
    (Instr.vcmpeq 12 1 2).wf = false ∧ (Instr.vcmpne 63 1 2).wf = false ∧ (Instr.vcmplt 12 1 2).wf = false
    ∧ (Instr.vcmple 12 1 2).wf = false ∧ (Instr.vsel 1 2 3 12).wf = false ∧ (Instr.mpopvl 1 12).wf = false
    ∧ (Instr.mcnt 1 12).wf = false ∧ (Instr.mfirst 1 12).wf = false ∧ (Instr.mand 12 0 0).wf = false
    ∧ (Instr.mor 0 12 0).wf = false ∧ (Instr.mxor 0 0 12).wf = false ∧ (Instr.mandn 12 0 0).wf = false
    ∧ (Instr.msbf 0 12).wf = false := by decide
theorem test_wf_element_types : (Instr.vcvt 1 2 0).wf = false ∧ (Instr.vcvt 1 2 0x80).wf = false := by decide
theorem test_wf_window_ranges :
    (Instr.wsave 9 8 1).wf = false ∧ (Instr.wload 9 8 1).wf = false ∧ (Instr.mmasp 1 63 2).wf = false
    ∧ (Instr.mcomp 63 2).wf = false := by decide
theorem test_wf_tile_and_fetch :
    (Instr.ared 1 2 3).wf = false ∧ (Instr.mfetchD 15 0 1 2 3 0).wf = false ∧ (Instr.mfetchPgD 15 0 1 2 3 0).wf = false
    ∧ (Instr.mfetchSh 15 0 1 2 3 0).wf = false ∧ (Instr.mfetchShD 14 0 1 2 3 0).wf = false := by decide
theorem test_wf_handles : (Instr.hset 1 8 2).wf = false ∧ (Instr.hget 1 8 2).wf = false := by decide
theorem test_wf_atomics :
    (Instr.vamo 1 2 3 0 0 8).wf = false ∧ (Instr.vamoOrd 1 2 3 0 0 8).wf = false ∧ (Instr.amo 1 2 3 0 0 0 0 9).wf = false
    ∧ (Instr.amo 1 2 3 0 1 0 0 3).wf = false ∧ (Instr.vwait 1 2 3 0 7).wf = false := by decide
theorem test_wf_engines :
    (Instr.strmx 1 2 0 3).wf = false ∧ (Instr.pref 1 2 0 2).wf = false ∧ (Instr.coll 1 2 0 3 0 0).wf = false
    ∧ (Instr.coll 1 2 0 0 1 2).wf = false ∧ (Instr.encf 1 2 9).wf = false := by decide
theorem test_wf_scopes :
    (Instr.vfence 6).wf = false ∧ (Instr.bar 7).wf = false ∧ (Instr.bara 6).wf = false ∧ (Instr.barw 6).wf = false := by decide

/-! ## Words, their fields placed by hand as the encoding tables lay them out -/

def decodesAll (l : List (BitVec 32 × Instr)) : Bool :=
  l.all fun p => match decodeWord false p.1 with
    | .ok i => decide (i = p.2)
    | .error _ => false

/-- Majors 0x01. -/
theorem test_decode_01 : decodesAll
    [(0x0259A800, .add 5 19 10), (0x0259A801, .sub 5 19 10), (0x0259A802, .and 5 19 10), (0x0259A803, .or 5 19 10),
     (0x0259A804, .xor 5 19 10), (0x0259A805, .sll 5 19 10), (0x0259A806, .srl 5 19 10), (0x0259A807, .sra 5 19 10),
     (0x0259A808, .mul 5 19 10), (0x0259A809, .mulh 5 19 10), (0x0259A80A, .mulhn 5 19 10), (0x0259A80B, .div 5 19 10),
     (0x0259A80C, .divn 5 19 10), (0x0259A80D, .rem 5 19 10), (0x0259A80E, .remn 5 19 10), (0x0259A80F, .min 5 19 10),
     (0x0259A810, .max 5 19 10), (0x0259A811, .minn 5 19 10), (0x0259A812, .maxn 5 19 10), (0x0259A813, .slt 5 19 10),
     (0x0259A814, .sltn 5 19 10), (0x0259A815, .sel 5 19 10), (0x0259A816, .lea1 5 19 10), (0x0259A817, .lea2 5 19 10),
     (0x0259A818, .lea4 5 19 10), (0x0259A819, .lea8 5 19 10), (0x0259801A, .clz 5 19), (0x0259801B, .ctz 5 19),
     (0x0259801C, .popc 5 19), (0x0259801D, .brev 5 19)] = true := by decide +kernel

/-- Majors 0x02, 0x03, 0x04, 0x05, 0x06, 0x07, 0x08. -/
theorem test_decode_02_08 : decodesAll
    [(0x0459B4B4, .addi 5 19 13492), (0x065984B4, .andi 5 19 1204), (0x065994B4, .ori 5 19 1204), (0x0659A4B4, .xori 5 19 1204),
     (0x0659B4B4, .slti 5 19 1204), (0x0659C025, .slli 5 19 37), (0x0659D025, .srli 5 19 37), (0x0659E025, .srai 5 19 37),
     (0x0854B4B4, .lui 5 308404), (0x0A54B4B4, .auipc 5 308404), (0x0C59B4B4, .beq 5 19 13492), (0x0E59B4B4, .bne 5 19 13492),
     (0x1059B4B4, .blt 5 19 13492)] = true := by decide +kernel

/-- Majors 0x09, 0x0A, 0x0B, 0x0C, 0x0D. -/
theorem test_decode_09_0D : decodesAll
    [(0x1259B4B4, .bge 5 19 13492), (0x1459B4B4, .bltn 5 19 13492), (0x1659B4B4, .bgen 5 19 13492), (0x1854B4B4, .jal 5 308404),
     (0x1A59B4B4, .jalr 5 19 13492)] = true := by decide +kernel

/-- Majors 0x0E. -/
theorem test_decode_0E : decodesAll
    [(0x1C5984B4, .ldb 5 19 1204), (0x1C598CB4, .ldh 5 19 1204), (0x1C5994B4, .ldw 5 19 1204), (0x1C599CB4, .ldd 5 19 1204),
     (0x1C59A4B4, .ldbn 5 19 1204), (0x1C59ACB4, .ldhn 5 19 1204), (0x1C59B4B4, .ldwn 5 19 1204), (0x1C59BCB4, .ldc 5 19 1204),
     (0x1C59C4B4, .stb 5 19 1204), (0x1C59CCB4, .sth 5 19 1204), (0x1C59D4B4, .stw 5 19 1204),
     (0x1C59DCB4, .std 5 19 1204)] = true := by decide +kernel

/-- Majors 0x0F. -/
theorem test_decode_0F : decodesAll
    [(0x1E500218, .csrr 5 67), (0x1E028201, .csrw 5 64), (0x1E028022, .csrs 5 4), (0x1E02801B, .csrc 5 3), (0x1E028004, .trap 5),
     (0x1E00000C, .tret), (0x1E598014, .scall 5 19), (0x1E00001C, .brk), (0x1E000024, .yield), (0x1E00002C, .cfence),
     (0x1E000034, .halt)] = true := by decide +kernel

/-- Majors 0x10. -/
theorem test_decode_10 : decodesAll
    [(0x2059A830, .fadd 5 19 10 3), (0x2059A831, .fsub 5 19 10 3), (0x2059A832, .fmul 5 19 10 3), (0x2059A833, .ffma 5 19 10 3),
     (0x2059A834, .fdiv 5 19 10 3), (0x20598025, .fsqrt 5 19 2), (0x2059A836, .fmin 5 19 10 3), (0x2059A837, .fmax 5 19 10 3),
     (0x2059A8A8, .fcmp 5 19 10 2 2), (0x20598279, .fcvt 5 19 9 3), (0x2059802A, .fclass 5 19 2)] = true := by decide +kernel

/-- Majors 0x20. -/
theorem test_decode_20 : decodesAll
    [(0x412ADA00, .vadd 37 22 52), (0x412ADA01, .vsub 37 22 52), (0x412ADA02, .vmul 37 22 52), (0x412ADA03, .vfma 37 22 52),
     (0x412ADA04, .vfms 37 22 52), (0x412ADA05, .vdiv 37 22 52), (0x412ADA06, .vmin 37 22 52), (0x412ADA07, .vmax 37 22 52),
     (0x412AC008, .vabs 37 22), (0x412AC009, .vneg 37 22), (0x412ADA0A, .vand 37 22 52), (0x412ADA0B, .vor 37 22 52),
     (0x412ADA0C, .vxor 37 22 52), (0x412ADA0D, .vsll 37 22 52), (0x412ADA0E, .vsrl 37 22 52), (0x412ADA0F, .vsra 37 22 52),
     (0x412ADA10, .vmulh 37 22 52), (0x412ADA11, .vavg 37 22 52)] = true := by decide +kernel

/-- Majors 0x21, 0x22, 0x23. -/
theorem test_decode_21_23 : decodesAll
    [(0x421CAB00, .vcmpeq 3 37 22), (0x4224AB01, .vcmpne 4 37 22), (0x422CAB02, .vcmplt 5 37 22), (0x4234AB03, .vcmple 6 37 22),
     (0x432AC004, .vmov 37 22), (0x432ADA17, .vsel 37 22 52 7), (0x45280500, .vbcast 37 5), (0x452AC501, .vslideUp 37 22 5),
     (0x452AC502, .vslideDn 37 22 5), (0x472AC012, .vcvt 37 22 18)] = true := by decide +kernel

/-- Majors 0x24, 0x25. -/
theorem test_decode_24_25 : decodesAll
    [(0x492ADA00, .vredsum 37 22 52), (0x492ADA01, .vredmax 37 22 52), (0x492ADA02, .vredmin 37 22 52),
     (0x492ADA03, .vscan 37 22 52), (0x4B2ADA00, .vperm 37 22 52), (0x4B2AC001, .vcompress 37 22),
     (0x4B2AC002, .vexpand 37 22)] = true := by decide +kernel

/-- Majors 0x26, 0x27. -/
theorem test_decode_26_27 : decodesAll
    [(0x4D2AC000, .vexp2 37 22), (0x4D2AC001, .vlog2 37 22), (0x4D2AC002, .vrcp 37 22), (0x4D2AC003, .vrsqrt 37 22),
     (0x4D2AC004, .vsqrt 37 22), (0x4D2AC005, .vtanh 37 22), (0x4D2AC006, .vsigm 37 22), (0x4F2ADA00, .spadd 37 22 52),
     (0x4F2ADA01, .spmul 37 22 52), (0x4F2AC002, .spfrom 37 22), (0x4F2AC003, .spto 37 22)] = true := by decide +kernel

/-- Majors 0x40, 0x41, 0x42, 0x43. -/
theorem test_decode_40_43 : decodesAll
    [(0x81280500, .wdef 37 5), (0x80292501, .wsave 5 9 5), (0x8037E502, .wload 6 63 5), (0x8004A503, .wspill 37 5),
     (0x81280504, .wfill 37 5), (0x82B4B4B4, .setmode 11842740), (0x852ACB40, .wdefi 37 22 180), (0x86598000, .setvl 5 19),
     (0x8650004B, .mpopvl 5 11), (0x86500083, .mcnt 5 3), (0x865000C4, .mfirst 5 4), (0x86500125, .wget 5 37),
     (0x86598140, .setmodex 5 19)] = true := by decide +kernel

/-- Majors 0x44, 0x45. -/
theorem test_decode_44_45 : decodesAll
    [(0x880034B4, .brloop 13492), (0x8A084180, .mand 1 2 3), (0x8A20A301, .mor 4 5 6), (0x8A390482, .mxor 7 8 9),
     (0x8A516003, .mandn 10 11 0), (0x8A10A004, .msbf 2 5)] = true := by decide +kernel

/-- Majors 0x50. -/
theorem test_decode_50 : decodesAll
    [(0xA172AC20, .mrankAdd 11 37 22 1), (0xA172AC21, .mrankSub 11 37 22 1), (0xA172AC02, .mma 11 37 22),
     (0xA17F4A03, .mmasp 11 62 37), (0xA01ECA04, .mcomp 61 37), (0xA1600005, .mzero 11), (0xA1728066, .atow 11 37 1 1),
     (0xA1728067, .wtoa 11 37 1 1), (0xA1728048, .ared 11 37 2), (0xA1728009, .amulr 11 37),
     (0xA172800A, .aaddr 11 37)] = true := by decide +kernel

/-- Majors 0x51, 0x52, 0x53, 0x54, 0x55, 0x56, 0x57. -/
theorem test_decode_51_57 : decodesAll
    [(0xA2598000, .mstart 5 19), (0xA2000001, .mstop), (0xA2028002, .mclaim 5), (0xA2028003, .mrel 5),
     (0xA56C59CB, .mfetch 11 6 5 19 37 1), (0xA7CC59CB, .mfetchD 14 6 5 19 37 1), (0xA96C59CB, .mfetchPg 11 6 5 19 37 1),
     (0xAB2C59CB, .mfetchPgD 9 6 5 19 37 1), (0xADCC59CB, .mfetchSh 14 6 5 19 37 1),
     (0xAFAC59CB, .mfetchShD 13 6 5 19 37 1)] = true := by decide +kernel

/-- Majors 0x60, 0x61, 0x62, 0x63, 0x64. -/
theorem test_decode_60_64 : decodesAll
    [(0xC16E5000, .hset 11 7 5), (0xC1605002, .hld 11 5), (0xC1605004, .hst 11 5), (0xC16A5006, .hget 11 5 5),
     (0xC36059CA, .ldt 11 5 19 37), (0xC36059CB, .stt 11 5 19 37), (0xC400504A, .ldv 5 37), (0xC400504B, .stv 5 37),
     (0xC60059CA, .lds 5 19 37), (0xC60059CB, .sts 5 19 37), (0xC92AC500, .gath 37 22 5), (0xC92AC501, .scat 37 22 5),
     (0xC92AC502, .scatadd 37 22 5)] = true := by decide +kernel

/-- Majors 0x65, 0x66, 0x67, 0x68, 0x70. -/
theorem test_decode_65_70 : decodesAll
    [(0xCB2AC500, .glink 37 22 5), (0xCB2AC501, .scond 37 22 5), (0xCB2AC577, .vamo 37 22 5 1 1 7),
     (0xCB2AC5B4, .vamoOrd 37 22 5 1 1 4), (0xCC59A8F5, .amo 5 19 10 1 1 1 1 5), (0xCC59A90E, .vwait 5 19 10 1 6),
     (0xCF6C59CA, .strm 11 6 5 19 37), (0xCF6D104B, .strmx 11 6 17 37), (0xCE00004B, .strmxUnbind 37),
     (0xD002CC05, .pref 5 19 1 1), (0xE16C5996, .copy 11 6 5 19 11), (0xE0165001, .copyBlock 11 5)] = true := by decide +kernel

/-- Majors 0x71, 0x72, 0x73, 0x74, 0x75, 0x76, 0x77, 0x78. -/
theorem test_decode_71_78 : decodesAll
    [(0xE36C59AC, .qcopy 11 6 5 19 1 6), (0xE2165001, .qcopyBlock 11 5), (0xE56C5996, .relay 11 6 5 19 11),
     (0xE616506A, .coll 11 5 1 2 1 1), (0xE8165010, .encf 11 5 8), (0xEA16004A, .cwait 11 37), (0xEA165001, .cwaitX 11 5),
     (0xEC165000, .cread 11 5), (0xEC165001, .creadClr 11 5), (0xEF72AC00, .gld 11 37 22), (0xEF72AC41, .gscat 11 37 22 2),
     (0xF000B4B4, .fencex 180 180)] = true := by decide +kernel

/-- Majors 0x79, 0x7A, 0x7B. -/
theorem test_decode_79_7B : decodesAll
    [(0xF2000028, .vfence 5), (0xF2000019, .bar 3), (0xF2000022, .bara 4), (0xF200000B, .barw 1), (0xF4598128, .sbarr 5 19 37),
     (0xF4598129, .sbarw 5 19 37), (0xF400172A, .sbind 11 37), (0xF6598000, .launch 5 19),
     (0xF6598001, .launchW 5 19)] = true := by decide +kernel

/-- The order of R101's tests: an unknown major, an unknown function, a bit that must be 0. -/
theorem test_decode_refusals :
    decodeWord false 0x00000000#32 = .error .illegalOp ∧ decodeWord false 0x0259A81E#32 = .error .illegalFn
    ∧ decodeWord false 0x0259841A#32 = .error .mbzSet ∧ decodeWord true 0x4059A800#32 = .error .illegalOp := ⟨rfl, rfl, rfl, rfl⟩

/-! ## Small states -/

/-- A running hart on a module that has been brought up, its memory mapped at its own addresses. -/
def base : State := setupRun State.reset

/-- With X registers set. -/
def regs (s : State) (l : List (BitVec 5 × Word)) : State := l.foldl (fun t p => wx t p.1 p.2) s

/-- The hart changed. -/
def hartWith (s : State) (f : Hart → Hart) : State := { s with hart := f s.hart }

/-- With a handler at 0x2000. -/
def ready (s : State) : State := hartWith s fun h => { h with trap := { h.trap with utvec := 0x2001 } }

/-- The hub changed. -/
def withHub (s : State) (f : Hub → Hub) : State := { s with hub := f s.hub }

/-- With bytes of memory. -/
def bytesAt (s : State) (a : Nat) (bs : List Byte) : State := { s with mem := cellsPut s.mem a bs }

/-- With a double word of memory. -/
def dwordAt (s : State) (a : Nat) (v : Nat) : State := bytesAt s a (bytesOfNat 8 v)

/-- A test of the state that an instruction leaves. -/
def leaves (o : Out) (p : State → Bool) : Bool :=
  match o with
  | .next t => p t
  | _ => false

/-- X3 after an instruction. -/
def x3 (s : State) (i : Instr) (v : Word) : Bool := leaves (exec i s) fun t => rx t 3 == v && t.hart.pc == s.hart.pc + 4

/-- The instruction leaves these X3, each. -/
def x3All (s : State) (l : List (Instr × Word)) : Bool := l.all fun p => x3 s p.1 p.2

/-- The hart has stopped with a supervisor-class cause. -/
def stopsWith (o : Out) (c : BitVec 8) (tval : Word) : Bool :=
  leaves o fun t => decide (t.hart.status = .halted) && t.hart.trap.tcause == (0x8000000000000000#64 ||| c.setWidth 64) && t.hart.trap.tval == tval

/-- The hart has entered its handler with a cause. -/
def handles (o : Out) (c : BitVec 8) (tval : Word) : Bool :=
  leaves o fun t => t.hart.pc == 0x2000 && t.hart.trap.tcause == (0x8000000000000000#64 ||| c.setWidth 64) && t.hart.trap.tval == tval

/-! ## Integer and control instructions (R107 to R111, R125 to R133) -/

/-- X1 = -7, X2 = 3. -/
def ints : State := regs base [(1, 0xFFFFFFFFFFFFFFF9), (2, 3)]

theorem test_integer_operations : x3All ints
    [(.add 3 1 2, 0xFFFFFFFFFFFFFFFC), (.sub 3 1 2, 0xFFFFFFFFFFFFFFF6), (.and 3 1 2, 1), (.or 3 1 2, 0xFFFFFFFFFFFFFFFB),
     (.xor 3 1 2, 0xFFFFFFFFFFFFFFFA), (.sll 3 1 2, 0xFFFFFFFFFFFFFFC8), (.srl 3 1 2, 0x1FFFFFFFFFFFFFFF), (.sra 3 1 2, 0xFFFFFFFFFFFFFFFF),
     (.mul 3 1 2, 0xFFFFFFFFFFFFFFEB), (.mulh 3 1 2, 0xFFFFFFFFFFFFFFFF), (.mulhn 3 1 2, 2), (.div 3 1 2, 0xFFFFFFFFFFFFFFFE),
     (.divn 3 1 2, 0x5555555555555553), (.rem 3 1 2, 0xFFFFFFFFFFFFFFFF), (.remn 3 1 2, 0), (.min 3 1 2, 0xFFFFFFFFFFFFFFF9), (.max 3 1 2, 3),
     (.minn 3 1 2, 3), (.maxn 3 1 2, 0xFFFFFFFFFFFFFFF9), (.slt 3 1 2, 1), (.sltn 3 1 2, 0), (.sel 3 1 2, 3), (.lea1 3 1 2, 0xFFFFFFFFFFFFFFFC),
     (.lea2 3 1 2, 0xFFFFFFFFFFFFFFFF), (.lea4 3 1 2, 5), (.lea8 3 1 2, 17), (.clz 3 2, 62), (.ctz 3 1, 0), (.popc 3 1, 62),
     (.brev 3 2, 0xC000000000000000), (.clz 3 0, 64), (.ctz 3 0, 64)] = true := by decide +kernel

/-- X0 stays 0, and a division by zero or one that overflows gives R108's values. -/
theorem test_integer_corners :
    leaves (exec (.add 0 1 2) ints) (fun t => rx t 0 == 0 && t.hart.x == ints.hart.x)
    && x3All ints [(.div 3 1 0, 0xFFFFFFFFFFFFFFFF), (.divn 3 1 0, 0xFFFFFFFFFFFFFFFF), (.rem 3 1 0, 0xFFFFFFFFFFFFFFF9), (.remn 3 1 0, 0xFFFFFFFFFFFFFFF9)]
    && x3All (regs base [(1, 0x8000000000000000), (2, 0xFFFFFFFFFFFFFFFF)]) [(.div 3 1 2, 0x8000000000000000), (.rem 3 1 2, 0)] = true := by
  decide +kernel

theorem test_immediates : x3All ints
    [(.addi 3 1 0x7FFF, 0xFFFFFFFFFFFFFFF8), (.andi 3 1 0xFFF, 0xFF9), (.ori 3 2 0x800, 0x803), (.xori 3 2 0xFFF, 0xFFC), (.slti 3 2 0xFFF, 0),
     (.slli 3 2 63, 0x8000000000000000), (.srli 3 1 60, 0xF), (.srai 3 1 2, 0xFFFFFFFFFFFFFFFE), (.lui 3 0xFFFFF, 0xFFFFFFFFFFFF8000),
     (.auipc 3 1, 0x18000)] = true := by decide +kernel

/-- Where a branch goes from 0x10000 with the offset -4 words. -/
def goes (i : Instr) (pc : Word) : Bool := leaves (exec i ints) fun t => t.hart.pc == pc

theorem test_branches :
    goes (.beq 1 2 0x7FFC) 0x10004 && goes (.bne 1 2 0x7FFC) 0xFFF0 && goes (.blt 1 2 0x7FFC) 0xFFF0 && goes (.bge 1 2 0x7FFC) 0x10004
    && goes (.bltn 1 2 0x7FFC) 0x10004 && goes (.bgen 1 2 0x7FFC) 0xFFF0 && goes (.jal 3 0xFFFFC) 0xFFF0 && goes (.jalr 3 2 0x7FFD) 0
    && stopsWith (exec (.jalr 3 2 0) ints) 0x45 3 = true := by decide +kernel

/-- LC with two iterations and one pipeline stage: two passes. -/
def looping : State := hartWith base fun h => { h with vec := { h.vec with lc := 0x0010000100000002, rlo := 4, rhi := 8, rcur := 3 } }

theorem test_brloop :
    leaves (exec (.brloop 0x7FFF) looping) (fun t => t.hart.pc == 0xFFFC && t.hart.vec.pass == 1 && t.hart.vec.rcur == 0) = true := by decide +kernel

/-- Memory for loads: 0x80, 0xFF, 0x01, 0x02, ... at 0x40000; X1 = 0x40000, X2 = a value to store. -/
def loads : State := regs (bytesAt base 0x40000 [0x80, 0xFF, 1, 2, 3, 4, 5, 0x86]) [(1, 0x40000), (2, 0x1122334455667788)]

theorem test_scalar_loads : x3All loads
    [(.ldb 3 1 0, 0xFFFFFFFFFFFFFF80), (.ldbn 3 1 7, 0x86), (.ldh 3 1 0, 0xFFFFFFFFFFFFFF80), (.ldhn 3 1 1, 0x201), (.ldw 3 1 1, 0xFFFFFFFF86050403),
     (.ldwn 3 1 1, 0x86050403), (.ldd 3 1 0, 0x860504030201FF80), (.ldc 3 1 0, 0x860504030201FF80)] = true := by decide +kernel

theorem test_scalar_stores :
    leaves (exec (.stb 2 1 1) loads) (fun t => readPaNat t 0x40000 8 == 0x8605040302018880)
    && leaves (exec (.sth 2 1 1) loads) (fun t => readPaNat t 0x40000 8 == 0x860504037788FF80)
    && leaves (exec (.stw 2 1 1) loads) (fun t => readPaNat t 0x40000 8 == 0x556677880201FF80)
    && leaves (exec (.std 2 1 1) loads) (fun t => readPaNat t 0x40000 8 == 0x860504030201FF80 && readPaNat t 0x40008 8 == 0x1122334455667788)
    && stopsWith (exec (.stw 2 2 1) (regs loads [(2, 0x40001)])) 0x45 0x40005 = true := by decide +kernel

theorem test_traps :
    handles (exec (.trap 2) (ready ints)) 0x0B 3
    && stopsWith (exec (.trap 2) ints) 0x0B 3
    && leaves (exec .tret (hartWith ints fun h => { h with trap := { h.trap with tepc := 0x3000, tcause := 0x800000000000000B } }))
        (fun t => t.hart.pc == 0x3000 && t.hart.trap.tcause == 0x0B)
    && stopsWith (exec .brk ints) 0x0C 0x1E00001C
    && leaves (exec (.scall 3 2) ints) (fun t => decide (t.hart.status = .inScall 3 2))
    && leaves (exec .yield ints) (fun t => t.hart.pc == 0x10004) && leaves (exec .cfence ints) (fun t => t.hart.pc == 0x10004)
    && leaves (exec .halt ints) (fun t => decide (t.hart.status = .ended) && !t.hart.who.resident) = true := by decide +kernel

theorem test_word_not_instruction :
    stopsWith (exec (.wordNotInstruction .illegalOp 0) ints) 0x01 0 && stopsWith (exec (.wordNotInstruction .illegalFn 0x0259A81E) ints) 0x02 0x0259A81E
    && stopsWith (exec (.wordNotInstruction .mbzSet 0x0259841A) ints) 0x03 0x0259841A = true := by decide +kernel

theorem test_system_registers :
    x3All (hartWith ints fun h => { h with fcsr := 0x11F, trap := { h.trap with tval := 77 } }) [(.csrr 3 0x043, 77), (.csrr 3 0x004, 0x11F), (.csrr 3 0x022, 0)]
    && leaves (exec (.csrw 1 0x040) ints) (fun t => t.hart.trap.utvec == 0x00FFFFFFFFFFFFF9)
    && leaves (exec (.csrs 2 0x003) ints) (fun t => t.hart.vec.vflags == 3)
    && leaves (exec (.csrc 2 0x004) (hartWith ints fun h => { h with fcsr := 0x11F })) (fun t => t.hart.fcsr == 0x11C) = true := by decide +kernel

/-! ## Witnesses: what the statements assume can be met -/

theorem witness_DecodeEncode : (Instr.add 1 2 3).wf = true := by decide
theorem witness_EncodeDecode : decodeWord false 0x0259A800#32 = .ok (.add 5 19 10) := rfl
theorem witness_DispatchMajors :
    (fld 0x4059A800#32 25 7).toNat ∉ [0x01, 0x02, 0x03, 0x04, 0x05, 0x06, 0x07, 0x08, 0x09, 0x0A, 0x0B, 0x0C, 0x0D, 0x0E, 0x0F, 0x10,
        0x66, 0x70, 0x71, 0x75, 0x76, 0x78, 0x7B]
    ∧ (fld 0x0259A800#32 25 7).toNat ∈ [0x01, 0x02, 0x03, 0x04, 0x05, 0x06, 0x07, 0x08, 0x09, 0x0A, 0x0B, 0x0C, 0x0D, 0x0E, 0x10,
        0x66, 0x70, 0x71, 0x75, 0x76, 0x78, 0x7B] := by decide

/-- `base` with the word of ADD at its pc. -/
def withAdd : State := bytesAt ints 0x10000 (bytesOfNat 4 0x0259A800)

theorem witness_StepRunsDecoded :
    locate withAdd (withAdd.hart.path withAdd) withAdd.hart.pc.toNat .fetch = .ok (.pa 0x10000 0xF 36)
    ∧ (0x10000 / 64 ∉ withAdd.poison ∧ (∀ e ∈ withAdd.hart.icache, e.1 ≠ withAdd.hart.pc.toNat) ∧ withAdd.hart.weak.late = []
      ∧ withAdd.hart.status ≠ .waiting .halt ∧ pinsFull withAdd (.add 5 19 10) = false)
    ∧ decodeWord withAdd.hart.who.dispatch (wordOfBytes (readPa withAdd 0x10000) (readPa withAdd 0x10001) (readPa withAdd 0x10002) (readPa withAdd 0x10003))
      = .ok (.add 5 19 10)
    ∧ withAdd.agenda = [] ∧ withAdd.power = true ∧ executing withAdd
    ∧ focus { { withAdd with agenda := [.run 1] } with agenda := [] } 1 = some withAdd ∧ mayRun withAdd withAdd.hart = true :=
  by and_intros <;> first | decide +kernel | rfl

/-- At 0x10000 stands 0, which is no instruction; a hart and a dispatch hart. -/
theorem witness_BadWordTraps :
    locate ints (ints.hart.path ints) ints.hart.pc.toNat .fetch = .ok (.pa 0x10000 0xF 36)
    ∧ (0x10000 / 64 ∉ ints.poison ∧ (∀ e ∈ ints.hart.icache, e.1 ≠ ints.hart.pc.toNat) ∧ ints.hart.weak.late = [])
    ∧ wordOfBytes (readPa ints 0x10000) (readPa ints 0x10001) (readPa ints 0x10002) (readPa ints 0x10003) = 0
    ∧ decodeWord ints.hart.who.dispatch 0 = .error .illegalOp ∧ ints.agenda = [] ∧ ints.power = true ∧ executing ints
    ∧ csrReadOk false 0x00A = false ∧ csrReadOk true 0x001 = false ∧ csrReadOk false 0x001 = true
    ∧ stopsWith (step ints) 0x01 0 = true :=
  by and_intros <;> first | decide +kernel | rfl

theorem witness_not_dispatch : ints.hart.who.dispatch = false := by decide +kernel
theorem witness_StepKeeps : (memOk withAdd ∧ banksOk withAdd) ∧ galleysOk withAdd ∧ hubOk withAdd
    ∧ leaves (step withAdd) (fun t => t.hart.pc == 0x10004) = true := by decide +kernel
theorem witness_CompletionCounts :
    let s := hartWith ints fun h => { h with evsel := h.evsel.set 0 0x40000002 }
    evCounts s.hart 2 0 = true ∧ evCounts s.hart 2 1 = false := by decide +kernel
theorem witness_IntegerResults : rx ints 2 ≠ 0 ∧ rx ints 0 = 0 := by decide +kernel
theorem witness_DivisionCorners :
    let s := regs base [(1, 0x8000000000000000), (2, 0xFFFFFFFFFFFFFFFF)]
    rx s 0 = 0 ∧ rx s 1 = 0x8000000000000000#64 ∧ rx s 2 = BitVec.ofInt 64 (-1) := by decide +kernel
theorem witness_BranchesAndJumps :
    (rx ints 2 + BitVec.ofInt 64 (0x7FFD#15).toInt).toNat % 4 = 0 ∧ (rx ints 2 + BitVec.ofInt 64 (0#15).toInt).toNat % 4 ≠ 0
    ∧ ints.hart.who.dispatch = false
    ∧ ints.hart.vec.lc.toNat % 2 ^ 32 = 0 ∧ looping.hart.vec.lc.toNat % 2 ^ 32 ≠ 0
    ∧ looping.hart.vec.pass < looping.hart.vec.lc.toNat % 2 ^ 32 + looping.hart.vec.lc.toNat / 2 ^ 32 % 16
    ∧ (hartWith looping fun h => { h with vec := { h.vec with pass := 3 } }).hart.vec.pass
      = looping.hart.vec.lc.toNat % 2 ^ 32 + looping.hart.vec.lc.toNat / 2 ^ 32 % 16 := by decide +kernel

/-- A bank of the quad that the hart holds, and one in FIFO mode with an entry. -/
def banked : State :=
  { loads with
    banks := [(0, { Bank.init with mode := .scratch, holder := some (0, 0) }), (1, { Bank.init with mode := .fifo, holder := some (0, 0), fifo := [99] })] }

/-- Its addresses: bank 0 at its first byte, bank 1's port. -/
def bankVa : Word := 0x00FE000000000000
def fifoVa : Word := 0x00FE020000000040

/-- X1 at the bank, X4 at the port. -/
def bankedRegs : State := regs banked [(1, bankVa), (4, fifoVa)]

theorem witness_ScalarLoads :
    (fenced loads clsS = false ∧ 0x40000 % 8 = 0 ∧ locate loads (loads.hart.path loads) 0x40000 .load = .ok (.pa 0x40000 0xF 36)
      ∧ locPoisoned loads (.pa 0x40000 0xF 36) = false ∧ leafDev 0xF = false
      ∧ loads.hart.ccache.find? (fun e => e.1 == 0x40000) = none
      ∧ (hartWith loads fun h => { h with ccache := [(0x40000, 5)] }).hart.ccache.find? (fun e => e.1 == 0x40000) = some (0x40000, 5))
    ∧ (rx loads 1 + BitVec.ofInt 64 ((0#11).toInt * 8)).toNat = 0x40000
    ∧ banksOk bankedRegs ∧ (rx bankedRegs 4 + BitVec.ofInt 64 ((0#11).toInt * 8)).toNat % 8 = 0
    ∧ locate bankedRegs (bankedRegs.hart.path bankedRegs) fifoVa.toNat .load = .ok (.fifo 1) ∧ (bankAt bankedRegs 1).fifo = [99] := by
  decide +kernel

theorem witness_ScalarStores :
    memOk loads ∧ banksOk bankedRegs ∧ memOk bankedRegs
    ∧ locate loads (loads.hart.path loads) 0x40000 .store = .ok (.pa 0x40000 0xF 36)
    ∧ locate bankedRegs (bankedRegs.hart.path bankedRegs) bankVa.toNat .store = .ok (.bank 0 0)
    ∧ locate bankedRegs (bankedRegs.hart.path bankedRegs) fifoVa.toNat .store = .ok (.fifo 1)
    ∧ (bankAt bankedRegs 1).fifo.length < 32768 := by decide +kernel

theorem test_bank_and_fifo :
    x3All bankedRegs [(.ldd 3 4 0, 99)]
    && leaves (exec (.std 2 4 0) bankedRegs) (fun t => (bankAt t 1).fifo == [99, 0x1122334455667788])
    && leaves (exec (.std 2 1 0) bankedRegs) (fun t => bankByte t 0 0 == 0x88 && bankByte t 0 7 == 0x11)
    && stopsWith (exec (.ldw 3 4 0) bankedRegs) 0x4C fifoVa = true := by decide +kernel

/-- An address that nothing maps, and a poisoned line. -/
def badAddrs : State := regs { loads with poison := [0x40000 / 64] } [(4, 0x00FD000000000000), (5, 0x40001)]

theorem witness_ScalarAccessFaults :
    badAddrs.hart.who.dispatch = false ∧ fenced badAddrs clsS = false
    ∧ (rx badAddrs 5 + BitVec.ofInt 64 ((0#11).toInt * 4)).toNat % 4 ≠ 0
    ∧ (rx badAddrs 4 + BitVec.ofInt 64 ((0#11).toInt * 4)).toNat % 4 = 0 ∧ handlerClass 0x42 = false ∧ handlerClass 0x43 = false
    ∧ locate badAddrs (badAddrs.hart.path badAddrs) 0x00FD000000000000 .load = .trap (pageFault .load) 0x00FD000000000000
    ∧ locate badAddrs (badAddrs.hart.path badAddrs) 0x00FD000000000000 .store = .trap (pageFault .store) 0x00FD000000000000
    ∧ handlerClass (pageFault .load) = false ∧ handlerClass (pageFault .store) = false
    ∧ locPoisoned badAddrs (.pa 0x40000 0xF 36) = true := by decide +kernel

/-! ## Scalar floating point (R116 to R118) -/

/-- FP32 2.0 and 0.5, and FP64 -3.0. -/
def floats : State := regs base [(1, 0x40000000), (2, 0x3F000000), (3, 0x40400000), (4, 0xC008000000000000), (5, 5)]

theorem test_scalar_float : x3All floats
    [(.fadd 3 1 2 0, 0x40200000), (.fsub 3 1 2 0, 0x3FC00000), (.fmul 3 1 2 0, 0x3F800000), (.ffma 3 1 2 0, 0x40800000), (.fdiv 3 1 2 0, 0x40800000),
     (.fsqrt 3 1 0, 0x3FB504F3), (.fmin 3 1 2 0, 0x3F000000), (.fmax 3 1 2 0, 0x40000000), (.fcmp 3 1 2 2 0, 0)] = true := by
  decide +kernel

theorem test_scalar_conversions :
    x3All floats [(.fcvt 3 4 8 1, 0xFFFFFFFFFFFFFFFD), (.fcvt 3 4 1 0, 0xC0400000), (.fcvt 3 5 4 0, 0x40A00000), (.fclass 3 4 1, 2)]
    && leaves (exec (.fdiv 3 1 0 0) floats) (fun t => rx t 3 == 0x7F800000 && t.hart.fcsr == 2) = true := by decide +kernel

theorem witness_CsrWrites :
    csrWriteOk ints.hart.who.dispatch 0x040#12 = true ∧ ints.hart.mat.mq = [] ∧ csrAssigned 0x00A#12 = false
    ∧ (0x020 ≤ (0x021#12).toNat ∧ (0x021#12).toNat ≤ 0x028) := by decide +kernel
theorem witness_TrapToHandler : handlerClass 0x0B = true ∧ handlerReady (ready ints) := by decide +kernel
theorem witness_TrapToSupervisor :
    ints.hart.who.dispatch = false ∧ handlerClass 0x45 = false ∧ ints.hart.trap.utvec.getLsbD 0 = false
    ∧ (ready ints).hart.trap.utvec.getLsbD 0 = true
    ∧ (hartWith (ready ints) fun h => { h with trap := { h.trap with tcause := 0x8000000000000005 } }).hart.trap.tcause.getLsbD 63 = true
    ∧ (hartWith ints fun h => { h with who := { h.who with dispatch := true } }).hart.who.dispatch = true := by decide +kernel

theorem test_double_trap_and_dispatch :
    stopsWith (exec (.trap 2) (hartWith (ready ints) fun h => { h with trap := { h.trap with tcause := 0x8000000000000005 } })) 0x05 0x0B
    && leaves (exec (.jalr 3 2 0) (hartWith ints fun h => { h with who := { h.who with dispatch := true, queue := 4 } }))
        (fun t => (queueAt t 4).err && (queueAt t 4).cause == 0x45 && (queueAt t 4).mberr == 3 && t.msix == [(0, 4)]) = true := by decide +kernel

/-- A launch with a debugger, a hart with an errata state, a poisoned counter, and one with a command. -/
def debugged : State := { ints with sched := { ints.sched with launches := ints.sched.launches.map fun l => { l with debug := true } } }
def pendingErr : State := hartWith ints fun h => { h with eng := { h.eng with errPend := some 0x500 } }
def busyHart : State := hartWith ints fun h => { h with eng := { h.eng with cmds :=
  [{ id := 7, op := .copy 1 2 3 4 5, ctr := 2, sb := none, deps := [], issued := 0, h := Handle.zero, hs := Handle.zero, c := [], block := [], addr := 0, units := 0 }] } }

theorem witness_ControlInstructions :
    handlerReady (ready ints)
    ∧ (∃ l, launchAt debugged debugged.hart.who.serial = some l ∧ l.debug = true) ∧ (∃ l, launchAt ints ints.hart.who.serial = some l ∧ l.debug = false)
    ∧ ints.hart.who.dispatch = false ∧ (ints.hart.mat.mq = [] ∧ ints.hart.mat.fetches = [] ∧ ints.hart.eng.cmds = [])
    ∧ ints.hart.eng.errPend = none ∧ (∀ k, k < 16 → (rc ints k).poison = false) ∧ pendingErr.hart.eng.errPend = some 0x500
    ∧ ¬(busyHart.hart.mat.mq = [] ∧ busyHart.hart.mat.fetches = [] ∧ busyHart.hart.eng.cmds = []) :=
  have l (s : State) (d : Bool) (h : launchAt s s.hart.who.serial = some { setupLaunch State.reset with debug := d }) :
      ∃ l, launchAt s s.hart.who.serial = some l ∧ l.debug = d := ⟨_, h, rfl⟩
  ⟨by decide +kernel, l _ _ (by decide +kernel), l _ _ (by decide +kernel), by and_intros <;> decide +kernel⟩

theorem test_halt_and_break :
    leaves (exec .brk debugged) (fun t => decide (t.hart.status = .atBreak) && t.hart.trap.tepc == 0x10000)
    && stopsWith (exec .halt pendingErr) 0xA0 0x500
    && leaves (exec .halt busyHart) (fun t => decide (t.hart.status = .waiting .halt)) = true := by decide +kernel

/-! ## Vector instructions (R157 to R171) -/

/-- A ROW window: `n` elements of 4 * 2^e bits in row r; and a RECT of `m` rows. -/
def rowWin (r n e : Nat) : Word := BitVec.ofNat 64 (2 + 8 * e + 64 * r + (n - 1) * 2 ^ 34)
def rectWin (r m n e : Nat) : Word := BitVec.ofNat 64 (1 + 8 * e + 64 * r + (m - 1) * 2 ^ 25 + (n - 1) * 2 ^ 34)

/-- An SPAIR window of capacity `n` with `c` pairs. -/
def pairWin (r n c e : Nat) : Word := BitVec.ofNat 64 (6 + 8 * e + 64 * r + 2 ^ 25 + (n - 1) * 2 ^ 34 + c * 2 ^ 45)

/-- The elements of 32 bits of a row. -/
def rowBytes (xs : List Nat) : List Byte := xs.flatMap (bytesOfNat 4)

/-- A vector state: an element type, VL, windows, and rows of the galley. -/
def vec (ty vl : Nat) (ws : List (BitVec 6 × Word)) (rows : List (Nat × List Byte)) : State :=
  let s := ws.foldl (fun t p => ww t p.1 p.2) base
  hartWith s fun h => { h with vec := { h.vec with
    vmode := makeVmode (BitVec.ofNat 25 ty), vl := vl, galley := rows.foldl (fun g r => cellsPut g (r.1 * 512) r.2) [] } }

/-- The elements of window W3 after an instruction. -/
def w3 (s : State) (i : Instr) (n : Nat) : List Nat :=
  match exec i s with
  | .next t => (List.range n).map (readElem t (winOp s 3 0))
  | _ => []

/-- Row windows W1, W2, W3 of four 32-bit elements in rows 1, 2, 3. -/
def rows3 : List (BitVec 6 × Word) := [(1, rowWin 1 4 3), (2, rowWin 2 4 3), (3, rowWin 3 4 3)]

/-- i32: W1 = -7, 3, 100, 2^31 - 1; W2 = 3, -1, 0, 2; W3 = 1, 1, 1, 1. -/
def vint : State := vec 0x03 4 rows3
  [(1, rowBytes [0xFFFFFFF9, 3, 100, 0x7FFFFFFF]), (2, rowBytes [3, 0xFFFFFFFF, 0, 2]), (3, rowBytes [1, 1, 1, 1])]

/-- f32: W1 = 1, 4, 0.25, 2; W2 = 2, 1, 4, -1; W3 = 1, 1, 1, 1. -/
def vflt : State := vec 0x13 4 rows3
  [(1, rowBytes [0x3F800000, 0x40800000, 0x3E800000, 0x40000000]), (2, rowBytes [0x40000000, 0x3F800000, 0x40800000, 0xBF800000]),
   (3, rowBytes [0x3F800000, 0x3F800000, 0x3F800000, 0x3F800000])]

def w3All (s : State) (l : List (Instr × List Nat)) : Bool := l.all fun p => w3 s p.1 4 == p.2

theorem test_vector_integers : w3All (regs (hartWith vint fun h => { h with vec := { h.vec with m := h.vec.m.set 2 5 } }) [(1, 1)])
    [(.vadd 3 1 2, [0xFFFFFFFC, 2, 100, 0x80000001]), (.vsub 3 1 2, [0xFFFFFFF6, 4, 100, 0x7FFFFFFD]), (.vmul 3 1 2, [0xFFFFFFEB, 0xFFFFFFFD, 0, 0xFFFFFFFE]),
     (.vfma 3 1 2, [0xFFFFFFEC, 0xFFFFFFFE, 1, 0xFFFFFFFF]), (.vfms 3 1 2, [0xFFFFFFEA, 0xFFFFFFFC, 0xFFFFFFFF, 0xFFFFFFFD]),
     (.vdiv 3 1 2, [0xFFFFFFFE, 0xFFFFFFFD, 0xFFFFFFFF, 0x3FFFFFFF]), (.vmin 3 1 2, [0xFFFFFFF9, 0xFFFFFFFF, 0, 2]), (.vmax 3 1 2, [3, 3, 100, 0x7FFFFFFF]),
     (.vavg 3 1 2, [0xFFFFFFFE, 1, 50, 0x40000001]), (.vand 3 1 2, [1, 3, 0, 2]), (.vor 3 1 2, [0xFFFFFFFB, 0xFFFFFFFF, 100, 0x7FFFFFFF]),
     (.vxor 3 1 2, [0xFFFFFFFA, 0xFFFFFFFC, 100, 0x7FFFFFFD]), (.vsll 3 1 2, [0xFFFFFFC8, 0x80000000, 100, 0xFFFFFFFC]),
     (.vsrl 3 1 2, [0x1FFFFFFF, 0, 100, 0x1FFFFFFF]), (.vsra 3 1 2, [0xFFFFFFFF, 0, 100, 0x1FFFFFFF]), (.vmulh 3 1 2, [0xFFFFFFFF, 0xFFFFFFFF, 0, 0]),
     (.vabs 3 1, [7, 3, 100, 0x7FFFFFFF]), (.vneg 3 1, [7, 0xFFFFFFFD, 0xFFFFFF9C, 0x80000001]), (.vmov 3 1, [0xFFFFFFF9, 3, 100, 0x7FFFFFFF]),
     (.vsel 3 1 2 2, [0xFFFFFFF9, 0xFFFFFFFF, 100, 2]), (.vbcast 3 1, [1, 1, 1, 1]), (.vslideUp 3 1 1, [1, 0xFFFFFFF9, 3, 100]),
     (.vslideDn 3 1 1, [3, 100, 0x7FFFFFFF, 0])] = true := by decide +kernel

theorem test_vector_floats : w3All vflt
    [(.vadd 3 1 2, [0x40400000, 0x40A00000, 0x40880000, 0x3F800000]), (.vfma 3 1 2, [0x40400000, 0x40A00000, 0x40000000, 0xBF800000]),
     (.vdiv 3 1 2, [0x3F000000, 0x40800000, 0x3D800000, 0xC0000000]), (.vneg 3 2, [0xC0000000, 0xBF800000, 0xC0800000, 0x3F800000]),
     (.vexp2 3 2, [0x40800000, 0x40000000, 0x41800000, 0x3F000000]), (.vlog2 3 1, [0, 0x40000000, 0xC0000000, 0x3F800000]),
     (.vrcp 3 1, [0x3F800000, 0x3E800000, 0x40800000, 0x3F000000]), (.vsqrt 3 1, [0x3F800000, 0x40000000, 0x3F000000, 0x3FB504F3])] = true := by decide +kernel

/-- 4, 0, 0, 0.25 for the functions whose values are exact there. -/
def vspec : State := vec 0x13 4 rows3 [(1, rowBytes [0x40800000, 0x3F800000, 0x3E800000, 0x41800000])]
theorem test_vector_special :
    w3All vspec [(.vrsqrt 3 1, [0x3F000000, 0x3F800000, 0x40000000, 0x3E800000])]
    && w3All (vec 0x13 4 rows3 []) [(.vtanh 3 1, [0, 0, 0, 0]), (.vsigm 3 1, [0x3F000000, 0x3F000000, 0x3F000000, 0x3F000000])]
    && w3All vint [(.vcvt 3 1 0x03, [0xFFFFFFF9, 3, 100, 0x7FFFFFFF])]
    && w3All (vec 0x13 4 rows3 [(1, rowBytes [0xFFFFFFF9, 3, 100, 8])]) [(.vcvt 3 1 0x03, [0xC0E00000, 0x40400000, 0x42C80000, 0x41000000])] = true := by decide +kernel

/-- W4 holds four 16-bit indices. -/
def vidx : State := hartWith (ww vint 4 (rowWin 4 4 2)) fun h => { h with vec := { h.vec with galley := cellsPut h.vec.galley (4 * 512) [3, 0, 0, 0, 9, 0, 1, 0] } }
theorem test_vperm : w3All vidx [(.vperm 3 1 4, [0x7FFFFFFF, 0xFFFFFFF9, 0, 3])] = true := by decide +kernel

theorem test_compares :
    let m (s : State) (i : Instr) : BitVec 1024 := match exec i s with | .next t => rm t 5 | _ => 0
    m vint (.vcmpeq 5 1 1) == 15 && m vint (.vcmpne 5 1 2) == 15 && m vint (.vcmplt 5 1 2) == 1 && (m vint (.vcmple 5 2 1) == 14) = true := by decide +kernel

theorem test_reductions :
    w3All vint [(.vredsum 3 1 2, [0x80000062, 1, 1, 1]), (.vredmax 3 1 2, [0x7FFFFFFF, 1, 1, 1]), (.vredmin 3 1 2, [0xFFFFFFF9, 1, 1, 1]),
      (.vscan 3 1 2, [0xFFFFFFFC, 0xFFFFFFFF, 99, 0x80000062])]
    && w3All (hartWith vint fun h => { h with vec := { h.vec with vmode := makeVmode 0x00480003, m := h.vec.m.set 2 10 } })
      [(.vcompress 3 1, [3, 0x7FFFFFFF, 1, 1]), (.vexpand 3 1, [1, 0xFFFFFFF9, 1, 3])] = true := by decide +kernel

/-- W1 and W2 hold the pairs (0, 5), (3, 7) and (3, 2), (4, 9); W5 is an empty SPAIR of capacity 4. -/
def vpairs : State := vec 0x03 4 [(1, pairWin 1 2 2 3), (2, pairWin 3 2 2 3), (5, pairWin 5 4 0 3), (3, rowWin 7 5 3), (6, rowWin 8 4 3)]
  [(1, rowBytes [0, 3]), (2, rowBytes [5, 7]), (3, rowBytes [3, 4]), (4, rowBytes [2, 9]), (7, rowBytes [9, 9, 9, 9, 9]), (8, rowBytes [0, 6, 0, 8])]

/-- The pairs of W5 after an instruction. -/
def pairs5 (i : Instr) : List (Nat × Nat) :=
  match exec i vpairs with
  | .next t => (List.range (wClen (rw t 5))).map fun j => (readCell t (rw t 5) (cell (winOp t 5 0) 0 j), readCell t (rw t 5) (cell (winOp t 5 0) 1 j))
  | _ => []

theorem test_sparse :
    pairs5 (.spadd 5 1 2) == [(0, 5), (3, 9), (4, 9)] && pairs5 (.spmul 5 1 2) == [(3, 14)] && pairs5 (.spfrom 5 6) == [(1, 6), (3, 8)]
    && (w3 vpairs (.spto 3 1) 4 == [5, 9, 9, 7]) = true := by decide +kernel

/-- The instructions whose effect `elemSpec` gives, and the checks pass on this state. -/
def elemReady (s : State) (ty : Ty) (i : Instr) : Bool :=
  match elemSpec s ty i with
  | some (_, ops, _) => decide (vecReady s ty ops)
  | none => false

theorem witness_ElementwiseResults :
    galleysOk vint ∧ modeTe vint.hart.vec.vmode = 0 ∧ stageOff vint = false ∧ stageOff (hartWith vint fun h => { h with vec := { h.vec with vmode := makeVmode 0x00180003 } }) = true
    ∧ ([.vadd 3 1 2, .vsub 3 1 2, .vmul 3 1 2, .vfma 3 1 2, .vfms 3 1 2, .vdiv 3 1 2, .vmin 3 1 2, .vmax 3 1 2, .vavg 3 1 2, .vand 3 1 2, .vor 3 1 2,
        .vxor 3 1 2, .vsll 3 1 2, .vsrl 3 1 2, .vsra 3 1 2, .vmulh 3 1 2, .vabs 3 1, .vneg 3 1, .vmov 3 1, .vsel 3 1 2 2, .vbcast 3 1, .vslideUp 3 1 1,
        .vslideDn 3 1 1, .vcvt 3 1 0x13].all (elemReady vint (.int true 32)) = true)
    ∧ elemReady vidx (.int true 32) (.vperm 3 1 4) = true
    ∧ ([.vexp2 3 1, .vlog2 3 1, .vrcp 3 1, .vrsqrt 3 1, .vsqrt 3 1, .vtanh 3 1, .vsigm 3 1].all (elemReady vflt (.flt fmtF32)) = true)
    ∧ galleysOk vflt ∧ modeTe vflt.hart.vec.vmode = 0 := by decide +kernel

/-- The traps of NV and of division by zero enabled, and a handler. -/
def vtrap : State := ready (hartWith vint fun h => { h with vec := { h.vec with vmode := makeVmode 0x0000C003 } })
/-- An enabled flag that no element of a VADD raises. -/
theorem witness_ElementwiseResults_te :
    modeTe vtrap.hart.vec.vmode ≠ 0 ∧ elemReady vtrap (.int true 32) (.vadd 3 1 2) = true ∧ galleysOk vtrap
    ∧ (∀ k, k < 4 → (match elemSpec vtrap (.int true 32) (.vadd 3 1 2) with
        | some (_, _, val) => (match val k with | some q => q.2 &&& modeTe vtrap.hart.vec.vmode | none => 0)
        | none => 1) = 0)
    ∧ leaves (exec (.vadd 3 1 2) vtrap) (fun t => t.hart.pc == 0x10004) = true := by decide +kernel

/-- A VDIV whose element 2 divides by zero. -/
theorem witness_ElementTrap :
    galleysOk vtrap ∧ elemReady vtrap (.int true 32) (.vdiv 3 1 2) = true ∧ stageOff vtrap = false ∧ handlerReady vtrap
    ∧ 2 < count (winOp vtrap 3 0) ∧ performed vtrap (winOp vtrap 3 0) 2
    ∧ trapCause flagDZ (modeTe vtrap.hart.vec.vmode) true = some causeIntDivzero
    ∧ leaves (exec (.vdiv 3 1 2) vtrap) (fun t => t.hart.vec.vstart == 2 && t.hart.pc == 0x2000
        && (List.range 4).map (readElem t (winOp vtrap 3 0)) == [0xFFFFFFFE, 0xFFFFFFFD, 1, 1]) = true := by decide +kernel

/-- f32 with a NaN in element 2 of W1, and TE for NV. -/
def vnan : State := ready (hartWith (vec 0x13 4 rows3 [(1, rowBytes [0x3F800000, 0x40800000, 0x7FC00000, 0x40000000])])
  fun h => { h with vec := { h.vec with vmode := makeVmode 0x00004013 } })

/-- The compares whose operands pass the checks. -/
def compareReady (s : State) (ty : Ty) (i : Instr) : Bool :=
  match compareSpec s ty i with
  | some (_, _, ops, _) => decide (vecReady s ty ops)
  | none => false

def compares : List Instr := [.vcmpeq 5 1 2, .vcmpne 5 1 2, .vcmplt 5 1 2, .vcmple 5 1 2]

theorem witness_CompareMasks :
    (5#6).toNat ≤ 11 ∧ modeTe vint.hart.vec.vmode = 0 ∧ stageOff vint = false ∧ compares.all (compareReady vint (.int true 32)) = true
    ∧ compares.all (compareReady vnan (.flt fmtF32)) = true ∧ modeTe vnan.hart.vec.vmode = flagNV := by decide +kernel

/-- TE traps NV, and no element of a VCMPEQ raises it. -/
theorem witness_CompareMasks_te :
    ∀ j, j < 4 → (match compareSpec vnan (.flt fmtF32) (.vcmpeq 5 1 2) with | some (_, _, _, f) => (f j).2 &&& modeTe vnan.hart.vec.vmode | none => 1) = 0 := by
  decide +kernel

theorem witness_ElementTrap_compare :
    compareReady vnan (.flt fmtF32) (.vcmplt 5 1 2) = true ∧ stageOff vnan = false ∧ handlerReady vnan ∧ guardOn vnan 2 = true
    ∧ (match compareSpec vnan (.flt fmtF32) (.vcmplt 5 1 2) with
       | some (_, a, _, f) => decide (2 < count a) && decide (trapCause (f 2).2 (modeTe vnan.hart.vec.vmode) false = some 0x80)
          && decide ((f 0).2 = 0) && decide ((f 1).2 = 0)
       | none => false) = true
    ∧ handles (exec (.vcmplt 5 1 2) vnan) 0x80 ((wordOf (.vcmplt 5 1 2)).setWidth 64) = true
    ∧ leaves (exec (.vcmplt 5 1 2) vnan) (fun t => t.hart.vec.vstart == 2 && t.hart.trap.tpos == 0x1400000010080002) = true := by decide +kernel

def wholeReady (s : State) (ty : Ty) (i : Instr) : Bool :=
  match wholeSpec s ty i with
  | some (_, ops, _, _) => decide (vecReady s ty ops)
  | none => false

theorem witness_WholeVectorResults :
    galleysOk vint ∧ modeTe vint.hart.vec.vmode = 0 ∧ stageOff vint = false
    ∧ ([.vredsum 3 1 2, .vredmax 3 1 2, .vredmin 3 1 2, .vscan 3 1 2, .vcompress 3 1, .vexpand 3 1].all (wholeReady vint (.int true 32)) = true)
    ∧ wholeReady vpairs (.int true 32) (.spto 3 1) = true ∧ galleysOk vpairs := by decide +kernel

/-- A sum that overflows to infinity under a TE of OF: the whole of the VREDSUM traps. -/
def vwhole : State := ready (hartWith (vec 0x13 4 rows3 [(1, rowBytes [0x7F7FFFFF, 0x7F7FFFFF, 0, 0])])
  fun h => { h with vec := { h.vec with vmode := makeVmode 0x00010013 } })
theorem witness_ElementTrap_whole :
    wholeReady vwhole (.flt fmtF32) (.vredsum 3 1 2) = true ∧ stageOff vwhole = false ∧ handlerReady vwhole
    ∧ (match wholeSpec vwhole (.flt fmtF32) (.vredsum 3 1 2) with
       | some (_, _, _, fl) => decide (trapCause fl (modeTe vwhole.hart.vec.vmode) true = some 0x82) || decide (trapCause fl (modeTe vwhole.hart.vec.vmode) false = some 0x82)
       | none => false) = true
    ∧ leaves (exec (.vredsum 3 1 2) vwhole) (fun t => t.hart.pc == 0x2000 && t.hart.trap.tcause == 0x8000000000000082 && t.hart.vec.vflags == 0
        && t.hart.trap.tpos == 0x0C00000000000000 && readElem t (winOp t 3 0) 0 == 0) = true := by decide +kernel

/-- The pair instructions, and whether the result fits W5 with a capacity of four, or of one. -/
def pairReady (s : State) (i : Instr) (fit : Bool) : Bool :=
  match pairSpec s (.int true 32) i with
  | some (_, ops, out, _) => decide (vecReady s (.int true 32) ops) && decide (decide (out.length ≤ wNm1 (winOp s 5 0).desc + 1) = fit)
  | none => false

theorem witness_SparsePairs :
    galleysOk vpairs ∧ modeTe vpairs.hart.vec.vmode = 0 ∧ stageOff vpairs = false
    ∧ pairReady vpairs (.spadd 5 1 2) true = true ∧ pairReady vpairs (.spmul 5 1 2) true = true ∧ pairReady vpairs (.spfrom 5 6) true = true
    ∧ pairReady (ww (ready vpairs) 5 (pairWin 5 1 0 3)) (.spadd 5 1 2) false = true ∧ handlerReady (ww (ready vpairs) 5 (pairWin 5 1 0 3))
    ∧ handles (exec (.spadd 5 1 2) (ww (ready vpairs) 5 (pairWin 5 1 0 3))) 0x05 ((wordOf (.spadd 5 1 2)).setWidth 64) = true := by decide +kernel

/-- VMODE with an RM of 5. -/
def vill : State := hartWith vint fun h => { h with vec := { h.vec with vmode := makeVmode 0x503 } }
theorem witness_IllegalModeTraps :
    encode (.vadd 3 1 2) = some (wordOf (.vadd 3 1 2)) ∧ 0x20 ≤ (fld (wordOf (.vadd 3 1 2)) 25 7).toNat ∧ (fld (wordOf (.vadd 3 1 2)) 25 7).toNat ≤ 0x27
    ∧ modeIll vill.hart.vec.vmode = true ∧ vill.hart.who.dispatch = false
    ∧ stopsWith (exec (.vadd 3 1 2) vill) 0x04 ((wordOf (.vadd 3 1 2)).setWidth 64) = true := by decide +kernel

/-- A window past the galley, one of another width, a shape that does not match, and a claimed slot's: each with a handler. -/
def vrange : State := ready (ww vint 2 (rectWin 511 2 4 3))
def vwidth : State := ready (ww vint 1 (rowWin 1 4 2))
def vshape : State := ready (ww vint 2 (rowWin 2 3 3))
def vslot : State := ready (hartWith vint fun h => { h with mat := { h.mat with mvl := 0x0000020010100010, claimed := List.range 512 } })

/-- Operand `n` is the first for which `good` fails, and those before it pass. -/
def firstAt (s : State) (i : Instr) (n : Nat) (good : Opd → Bool) : Bool :=
  match dispatchOpds s (.int true 32) i with
  | some ops => (ops.take n).all good && (ops.drop n).head?.any (fun o => !good o)
  | none => false
def allAre (s : State) (i : Instr) (good : Opd → Bool) : Bool :=
  match dispatchOpds s (.int true 32) i with
  | some ops => ops.all good
  | none => false

theorem witness_IllegalModeTraps_checks :
    (∀ s ∈ [vrange, vwidth, vshape, vslot], modeIll s.hart.vec.vmode = false ∧ modeTy s.hart.vec.vmode = some (.int true 32) ∧ handlerReady s ∧ stageOff s = false)
    ∧ firstAt vrange (.vadd 3 1 2) 2 (fun o => winFits vrange o.win) = true
    ∧ allAre vwidth (.vadd 3 1 2) (fun o => winFits vwidth o.win) = true ∧ firstAt vwidth (.vadd 3 1 2) 1 (fun o => !badWidth o) = true
    ∧ allAre vshape (.vadd 3 1 2) (fun o => winFits vshape o.win && !badWidth o) = true ∧ firstAt vshape (.vadd 3 1 2) 2 (·.shape) = true
    ∧ allAre vslot (.vadd 3 1 2) (fun o => winFits vslot o.win && !badWidth o && o.shape) = true ∧ firstAt vslot (.vadd 3 1 2) 0 (fun o => !badSlot vslot o) = true := by
  decide +kernel

theorem test_dispatch_checks :
    let t (s : State) (c : BitVec 8) (p : Word) : Bool := handles (exec (.vadd 3 1 2) s) c ((wordOf (.vadd 3 1 2)).setWidth 64)
      && leaves (exec (.vadd 3 1 2) s) (fun t => t.hart.trap.tpos == p)
    t vrange 0x07 0x0A00000000000000 && t vwidth 0x06 0x0500000000000000 && t vshape 0x05 0x0A00000000000000 && t vslot 0x08 0x0C00000000000000 = true := by
  decide +kernel

/-! ## Windows, length, mode, masks (R146 to R156) -/

/-- X1 = 0x40000 and a window of memory behind it, X2 = a descriptor to set. -/
def wins : State := regs (bytesAt vint 0x40000 (bytesOfNat 8 0x1111 ++ bytesOfNat 8 0x2222)) [(1, 0x40000), (2, 0xAA00000000000FFF)]

theorem test_windows :
    leaves (exec (.wdef 3 2) (ww wins 3 0xFF00000000000002)) (fun t => rw t 3 == 0x0000000000000FFF)
    && leaves (exec (.wdefi 5 1 9) wins) (fun t => rw t 5 == (rowWin 9 4 3 ||| 0x0100000000000000#64))
    && x3All wins [(.wget 3 1, rowWin 1 4 3)]
    && leaves (exec (.wsave 1 2 1) wins) (fun t => readPaNat t 0x40000 16 == (rowWin 1 4 3).toNat + (rowWin 2 4 3).toNat * 2 ^ 64)
    && leaves (exec (.wload 7 8 1) wins) (fun t => rw t 7 == 0x1111 && rw t 8 == 0x2222 && rw t 6 == 0) = true := by decide +kernel

/-- A frame of W1 at 0x50000. -/
def spilled : State := match exec (.wspill 1 1) (regs vint [(1, 0x50000)]) with | .next t => t | _ => vint

theorem test_spill_and_fill :
    readPaNat spilled 0x50010 16 == 0x7FFFFFFF0000006400000003FFFFFFF9
    && leaves (exec (.wfill 9 1) (hartWith spilled fun h => { h with vec := { h.vec with galley := [] } }))
        (fun t => rw t 9 == rowWin 1 4 3 && (List.range 4).map (readElem t (winOp t 9 0)) == [0xFFFFFFF9, 3, 100, 0x7FFFFFFF]) = true := by decide +kernel

theorem test_length_and_masks :
    let s := hartWith (regs vint [(1, 40), (2, 0x13)]) fun h => { h with vec := { h.vec with m := (h.vec.m.set 1 0b1100).set 2 0b1010 } }
    x3All s [(.setvl 3 1, 40), (.setvl 3 0, 128), (.mpopvl 3 1, 2), (.mcnt 3 1, 2), (.mfirst 3 1, 2), (.mfirst 3 0, 0xFFFFFFFFFFFFFFFF), (.setmodex 3 2, 3)]
    && leaves (exec (.setvl 3 1) s) (fun t => t.hart.vec.vl == 40) && leaves (exec (.setmode 0x13) s) (fun t => t.hart.vec.vmode == 0x13)
    && leaves (exec (.mand 5 1 2) s) (fun t => rm t 5 == 0b1000) && leaves (exec (.mor 5 1 2) s) (fun t => rm t 5 == 0b1110)
    && leaves (exec (.mxor 5 1 2) s) (fun t => rm t 5 == 0b0110) && leaves (exec (.mandn 5 1 2) s) (fun t => rm t 5 == 0b0100)
    && leaves (exec (.msbf 5 1) s) (fun t => rm t 5 == 0b11) = true := by decide +kernel

theorem witness_WindowRegisters :
    boundTo wins 3 = none ∧ (rx wins 1).toNat % 8 = 0 ∧ fenced wins clsS = false ∧ (7#6).toNat ≤ (8#6).toNat
    ∧ loadWords wins (wins.hart.path wins) (rx wins 1).toNat (winRange 7 8).length = .ok [0x1111, 0x2222]
    ∧ (match storeWords wins (wins.hart.path wins) (rx wins 1).toNat ((winRange 1 2).map (rw wins)) with | .ok _ => true | _ => false) = true := by
  decide +kernel

theorem witness_SpillFrames :
    let s := regs vint [(1, 0x50000)]
    let o (w : WinOp) : Opd := { win := w, width := none, shape := true, reads := count w, writes := 0 }
    let f : WinOp := { num := 9, role := 0, desc := rowWin 1 4 3, vl := 4, ring := ringOf spilled }
    winFits s (winOp s 1 1) = true ∧ heldBack s (o (winOp s 1 1)) = false ∧ (rx s 1).toNat % 16 = 0 ∧ fenced s clsV = false
    ∧ (match storeWords s (s.hart.path s) 0x50000 (spillFrame s (winOp s 1 1)) with | .ok _ => true | _ => false) = true
    ∧ galleysOk spilled ∧ boundTo spilled 9 = none ∧ (rx spilled 1).toNat = 0x50000
    ∧ loadWords spilled (spilled.hart.path spilled) 0x50000 2 = .ok [rowWin 1 4 3, 0x0000020000000004]
    ∧ (0x0000020000000004#64).toNat / 2 ^ 32 % 65536 = 512 / 2 ^ spilled.hart.who.shape
    ∧ winFits spilled f = true ∧ badSlot spilled { win := f, width := none, shape := true, reads := 0, writes := count f } = false
    ∧ heldBack spilled { win := f, width := none, shape := true, reads := 0, writes := count f } = false
    ∧ loadWords spilled (spilled.hart.path spilled) 0x50010 (frameBytes (wEw (rowWin 1 4 3)) (frameCount f) / 8)
      = .ok [0x00000003FFFFFFF9, 0x7FFFFFFF00000064] := by decide +kernel

theorem witness_LengthModeMasks :
    (1#6).toNat ≤ 11 ∧ (5#6).toNat ≤ 11 ∧ modeIll vint.hart.vec.vmode = false ∧ modeTy vint.hart.vec.vmode = some (.int true 32)
    ∧ modeIll vill.hart.vec.vmode = true ∧ vill.hart.who.dispatch = false ∧ stopsWith (exec (.setvl 3 1) vill) 0x04 ((wordOf (.setvl 3 1)).setWidth 64) = true := by
  decide +kernel

/-! ## The matrix path (R173 to R200) -/

/-- A rectangle of bytes: row, column, rows, columns. -/
def byteRect (r c m n : Nat) : Word := BitVec.ofNat 64 (1 + 8 + 64 * r + 2 ^ 15 * c + (m - 1) * 2 ^ 25 + (n - 1) * 2 ^ 34)
def byteRow (r c n : Nat) : Word := BitVec.ofNat 64 (2 + 8 + 64 * r + 2 ^ 15 * c + (n - 1) * 2 ^ 34)
def wordCol (r m : Nat) : Word := BitVec.ofNat 64 (3 + 8 * 3 + 64 * r + (m - 1) * 2 ^ 25)

/-- Matrix mode of length 16 for 16-bit elements, slots 0 and 1 claimed, i8 elements. -/
def mats : State :=
  let s := vec 0x01 16 [(1, byteRect 0 0 3 4), (2, byteRect 100 0 3 1), (4, byteRect 0 32 8 4), (5, byteRow 5 0 4), (6, byteRow 9 32 4),
    (7, byteRect 8 0 2 4), (8, byteRect 10 32 2 3), (9, byteRect 200 0 2 3), (10, wordCol 300 4)]
    [(100, [0x0F]), (101, [0x33]), (102, [0xF0]), (5, [1, 2, 3, 4]), (200, [5, 6, 7])]
  hartWith s fun h => { h with mat := { h.mat with mvl := 0x0000020010100010, claimed := [0, 1] } }

theorem test_matrix_mode :
    x3All (regs base [(1, 16)]) [(.mstart 3 1, 0x0000020010100010)] && x3All (regs base [(1, 0x300)]) [(.mstart 3 1, 0)]
    && leaves (exec .mstop mats) (fun t => t.hart.mat.mvl == 0 && t.hart.mat.claimed == [])
    && leaves (exec (.mclaim 1) (regs mats [(1, 5)])) (fun t => t.hart.mat.claimed.contains 5)
    && leaves (exec (.mrel 1) (regs mats [(1, 1)])) (fun t => t.hart.mat.claimed == [0])
    && handles (exec (.mclaim 1) (ready base)) 0x0A ((wordOf (.mclaim 1)).setWidth 64) = true := by decide +kernel

def matReady' (s : State) (ty : Ty) (i : Instr) : Bool :=
  match matSpec s ty i with
  | some (q, _, _, _) =>
    !modeIll s.hart.vec.vmode && modeTy s.hart.vec.vmode == some ty && matrixOn s && !queueFull s
    && q.ops.all (fun o => winFits s o.win && !badWidth o && o.shape)
    && (match q.tile with | some t => decide (t < mvlTiles s.hart.mat.mvl) | none => true)
    && q.handle.isNone && q.slots.all (allClaimed s) && q.last.isNone
  | none => false

/-- The same with f32 elements. -/
def matf : State := hartWith mats fun h => { h with vec := { h.vec with vmode := makeVmode 0x13 } }

theorem witness_MatrixPosts :
    ([.mrankAdd 1 5 6 0, .mrankSub 1 5 6 0, .mma 2 7 8, .mmasp 1 1 4, .mzero 15, .atow 1 9 1 0, .wtoa 1 9 1 0].all (matReady' mats (.int true 8)) = true)
    ∧ ([.ared 1 10 0, .amulr 1 10, .aaddr 1 10].all (matReady' matf (.flt fmtF32)) = true)
    ∧ heldBack mats { win := (winOp mats 2 1).whole, width := none, shape := true, reads := count (winOp mats 2 1).whole, writes := 0 } = false := by
  decide +kernel

theorem witness_MatrixMode :
    (let s := regs base [(1, 16)]
     16 ≤ (rx s 1).toNat % 256 ∧ (rx s 1).toNat / 256 % 4 < 3 ∧ 16 ≤ 512 / 2 ^ s.hart.who.shape * 8 / 16 ∧ 4 * 16 * 16 ≤ s.hart.who.accb ∧ 16 ≤ s.hart.who.grows)
    ∧ matrixOn mats = true ∧ (rx (regs mats [(1, 5)]) 1).toNat < mvlSlots mats.hart.mat.mvl ∧ matrixOn base = false ∧ handlerReady (ready base)
    ∧ mvlSlots mats.hart.mat.mvl ≤ (rx (regs mats [(1, 600)]) 1).toNat ∧ handlerReady (regs (ready mats) [(1, 600)])
    ∧ handles (exec (.mrel 1) (regs (ready mats) [(1, 600)])) 0x07 ((wordOf (.mrel 1)).setWidth 64) = true := by decide +kernel

/-- MCOMP of a row of eight: 1, -9, 3, 2, -4, 8, 0, 5. -/
def pruned : State :=
  vec 0x01 16 [(1, byteRect 0 0 1 4), (2, byteRect 1 0 1 1), (4, byteRect 2 0 1 8)] [(2, [1, 0xF7, 3, 2, 0xFC, 8, 0, 5])]

theorem witness_PruningResults :
    galleysOk pruned ∧ isSP (.int true 8) = true ∧ (1#6).toNat ≤ 62
    ∧ vecReady pruned (.int true 8) (mcompOpds pruned (winOp pruned 1 1).whole (winOp pruned 2 1).whole (winOp pruned 4 2).whole (.int true 8))
    ∧ spansMeet (spansOf (winOp pruned 1 1).whole (count (winOp pruned 1 1).whole)) (spansOf (winOp pruned 2 1).whole (count (winOp pruned 2 1).whole)) = false
    ∧ leaves (exec (.mcomp 1 4) pruned) (fun t => (List.range 4).map (readElem t (winOp t 1 0)) == [0xF7, 0xFC, 8, 5]
        && readElem t (winOp t 2 0) 0 == 0b10110010) = true := by decide +kernel

/-- A handle from its double words, valid. -/
def handle (ws : List Nat) : Handle := { dw := Vector.ofFn fun (i : Fin 8) => BitVec.ofNat 64 (ws.getD i.val 0), valid := true, levels := [] }

/-- A TENSOR of 8-bit elements, 64 by 4, in row order, at an address; a SCALE, and a DELTA. -/
def tensor8 (base : Nat) : Handle := handle [2 ^ 60 + base, 4 * 2 ^ 32 + 64, 2 ^ 32 + 1, 2 ^ 32 + 64, 0, 0, 0, 0]
def scale8 : Handle := handle [4 * 2 ^ 60 + 0x60000, 4 * 2 ^ 32 + 64, 2 ^ 32 + 1, 2 ^ 35 + 2 ^ 32 + 64, 0, 0, 0, 0]
def delta8 : Handle := handle [3 * 2 ^ 60 + 0x70000, 4 * 2 ^ 32 + 64, 2 ^ 32 + 1, 2 ^ 32 + 64, 0, 0, 0, 0]

def withH (s : State) (l : List (Nat × Handle)) : State := l.foldl (fun t p => wh t p.1 p.2) s

/-- A fetch state: handles, binary8 elements. -/
def fetching : State :=
  hartWith (withH mats [(1, tensor8 0x40000), (2, scale8), (3, delta8), (4, tensor8 0x40000), (5, delta8)]) fun h =>
    { h with vec := { h.vec with vmode := makeVmode 0x84 } }

def fetchReady (i : Instr) (h w : Nat) (scale : Nat) (delta : Bool) : Bool :=
  let win := winOp fetching (BitVec.ofNat 6 w) 0
  fetchHandleBad fetching (.flt (.b8 4 false false)) win h 0 scale delta true == false && isMM (.flt (.b8 4 false false))
  && decide (modeTy fetching.hart.vec.vmode = some (.flt (.b8 4 false false))) && matrixOn fetching && !queueFull fetching
  && tileShape fetching win.desc && winFits fetching win.whole && !badWidth (matOpd fetching win (some 8) true) && allClaimed fetching win
  && !cmdStalls fetching 2
  && leaves (exec i fetching) (fun t => t.hart.mat.fetches.length == 1 && t.hart.mat.mq.length == 1 && (rc t 2).count == 1)

theorem witness_FetchPosts :
    fetchReady (.mfetch 1 2 0 0 7 1) 1 7 0 false && fetchReady (.mfetchD 4 2 0 0 7 1) 4 7 0 true && fetchReady (.mfetchPg 1 2 0 0 1 1) 1 1 1 false
    && fetchReady (.mfetchPgD 4 2 0 0 1 1) 4 1 1 true && fetchReady (.mfetchSh 1 2 0 0 1 1) 1 1 2 false && fetchReady (.mfetchShD 1 2 0 0 1 1) 1 1 2 true
    = true := by decide +kernel

/-! ## Handles and vector accesses to memory (R206 to R223) -/

/-- A GRID of one level, three coordinates of f32 and one feature, its level table at 0x80000. -/
def gridDw0 : Word := 0x2000000000090000
def gridH : Handle := handle [gridDw0.toNat, 0xA0000, 0x80000, 2, 0, 0, 0, 0]
def handles8 : State :=
  regs (dwordAt (bytesAt (withH base [(1, tensor8 0x40000), (2, gridH)]) 0x60000 ((tensor8 0x40000).dw.toList.flatMap fun w => bytesOfNat 8 w.toNat))
    0x80000 (10 * 2 ^ 32 + 4)) [(1, 0x60000), (2, 0x1000000000040000), (4, gridDw0)]

theorem test_handles :
    leaves (exec (.hset 1 5 1) handles8) (fun t => (rh t 1).valid == false && (rh t 1).word 5 == 0x60000)
    && leaves (exec (.hset 1 0 2) handles8) (fun t => (rh t 1).valid) && leaves (exec (.hld 7 1) handles8) (fun t => rh t 7 == tensor8 0x40000)
    && leaves (exec (.hst 1 1) (regs handles8 [(1, 0x61000)])) (fun t => readPaNat t 0x61000 64 == readPaNat handles8 0x60000 64)
    && x3All handles8 [(.hget 1 1 3, 0x0000000400000040)]
    && stopsWith (exec (.hset 3 0 1) handles8) 0x46 ((wordOf (.hset 3 0 1)).setWidth 64) = true := by decide +kernel

theorem witness_HandleInstructions :
    (5#4 ≠ 0#4) ∧ ((rh handles8 1).put 0 (rx handles8 2)).kind ≠ kindGrid ∧ tensorOk ((rh handles8 1).put 0 (rx handles8 2)) = true
    ∧ ((rh handles8 3).put 0 (rx handles8 1)).kind ≠ kindGrid ∧ tensorOk ((rh handles8 3).put 0 (rx handles8 1)) = false ∧ handles8.hart.who.dispatch = false
    ∧ ((rh handles8 2).put 0 (rx handles8 4)).kind = kindGrid ∧ gridOk ((rh handles8 2).put 0 (rx handles8 4)) = true ∧ fenced handles8 clsS = false
    ∧ loadWords handles8 (handles8.hart.path handles8) gridH.lvt gridH.gridL = .ok [0x0000000A00000004] ∧ [0x0000000A00000004#64].all levelOk = true
    ∧ (rx handles8 1).toNat % 64 = 0 ∧ loadWords handles8 (handles8.hart.path handles8) 0x60000 8 = .ok (tensor8 0x40000).dw.toList
    ∧ (handleOf (tensor8 0x40000).dw.toList).kind ≠ kindGrid ∧ tensorOk (handleOf (tensor8 0x40000).dw.toList) = true
    ∧ (match storeWords handles8 (handles8.hart.path handles8) 0x60000 (rh handles8 1).dw.toList with | .ok _ => true | _ => false) = true := by decide +kernel

/-- 32-bit memory at 0x40000, offsets in W4 (64-bit), X1 = 0x40000, X2 = 8, and a TENSOR of i32, 16 by 2. -/
def vmem : State :=
  let s := ww vint 4 (rowWin 4 4 4)
  let s := hartWith s fun h => { h with vec := { h.vec with galley := cellsPut h.vec.galley (4 * 512) ((([12, 0, 24, 4] : List Nat)).flatMap (bytesOfNat 8)) } }
  let s := withH s [(1, handle [2 ^ 60 + 0x40000, 2 * 2 ^ 32 + 16, 2 ^ 32 + 1, 3 * 2 ^ 32 + 16, 0, 0, 0, 0])]
  regs (bytesAt s 0x40000 (rowBytes [10, 11, 12, 13, 14, 15, 16, 17])) [(1, 0x40000), (2, 8), (5, 0)]

theorem test_vector_loads : w3All vmem
    [(.ldt 1 2 5 3, [18 - 18, 0, 0, 0]), (.ldt 1 0 0 3, [10, 11, 12, 13]), (.ldv 1 3, [10, 11, 12, 13]), (.lds 1 2 3, [10, 12, 14, 16]), (.gath 3 4 1, [13, 10, 16, 11]),
     (.glink 3 4 1, [13, 10, 16, 11]), (.vamo 3 4 1 0 0 0, [13, 10, 16, 11]), (.vamoOrd 3 4 1 0 0 6, [13, 10, 16, 11])] = true := by decide +kernel

/-- The words at 0x40000 after an instruction. -/
def memAfter (s : State) (i : Instr) : List Nat :=
  match exec i s with
  | .next t => (List.range 8).map fun j => readPaNat t (0x40000 + 4 * j) 4
  | _ => []

theorem test_vector_stores :
    memAfter vmem (.stt 1 0 0 3) == [1, 1, 1, 1, 14, 15, 16, 17] && memAfter vmem (.stv 1 3) == [1, 1, 1, 1, 14, 15, 16, 17]
    && memAfter vmem (.sts 1 2 3) == [1, 11, 1, 13, 1, 15, 1, 17] && memAfter vmem (.scat 3 4 1) == [1, 1, 12, 1, 14, 15, 1, 17]
    && memAfter vmem (.vamo 3 4 1 0 0 0) == [11, 12, 12, 14, 14, 15, 17, 17]
    && memAfter vmem (.vamoOrd 3 4 1 0 0 6) == [1, 1, 12, 1, 14, 15, 1, 17]
    && memAfter vmem (.scatadd 3 4 1) == [10, 11, 12, 13, 14, 15, 16, 17]
    && leaves (exec (.scatadd 3 4 1) vmem) (fun t => t.hart.eng.adds.length == 4) = true := by decide +kernel

def ok {α : Type} (r : MRes α) : Bool := match r with | .ok _ => true | _ => false

def loadReady (s : State) (i : Instr) : Bool :=
  match loadSpec s s (s.hart.vpath s) (.int true 32) i with
  | some (d, ops, _, f) => decide (vecReady s (.int true 32) ops) && (List.range (count d)).all fun k => match f k with | .ok _ => true | _ => false
  | none => false
def storeReady (s : State) (i : Instr) : Bool :=
  match storeSpec s (.int true 32) i with
  | some (d, ops, un, f, _) => decide (vecReady s (.int true 32) ops) && (match storesBelow s d un f (count d) with | .ok _ => true | _ => false)
  | none => false

theorem witness_VectorLoads :
    galleysOk vmem ∧ modeTe vmem.hart.vec.vmode = 0 ∧ stageOff vmem = false ∧ fenced vmem clsV = false
    ∧ [.ldt 1 0 0 3, .ldv 1 3, .lds 1 2 3, .gath 3 4 1].all (loadReady vmem) = true := by decide +kernel
theorem witness_VectorStores :
    memOk vmem ∧ banksOk vmem ∧ stageOff vmem = false ∧ fenced vmem clsV = false
    ∧ [.stt 1 0 0 3, .stv 1 3, .sts 1 2 3, .scat 3 4 1].all (storeReady vmem) = true := by decide +kernel

/-- A stride of 2^35 bytes: element 2 is past the one page that is mapped. -/
def vfar : State := regs vmem [(2, 0x800000000)]
theorem witness_VectorLoads_fault :
    vfar.hart.weak.viewV = none ∧ vfar.hart.who.dispatch = false ∧ handlerClass 0x40 = false ∧ handlerClass 0x41 = false
    ∧ (match loadSpec vfar vfar (vfar.hart.vpath vfar) (.int true 32) (.lds 1 2 3) with
       | some (d, ops, un, f) => decide (vecReady vfar (.int true 32) ops) && !un && decide (2 < count d) && ok (f 0) && ok (f 1)
          && (match f 2 with | .trap c x => c == 0x40 && x == 0x1000040000 | _ => false)
       | none => false) = true
    ∧ stopsWith (exec (.lds 1 2 3) vfar) 0x40 0x1000040000 = true
    ∧ leaves (exec (.lds 1 2 3) vfar) (fun t => t.hart.vec.vstart == 2 && (List.range 4).map (readElem t (winOp t 3 0)) == [10, 0, 1, 1]
        && t.hart.trap.tpos == 0x0C00000010180002) = true := by decide +kernel
theorem witness_VectorStores_fault :
    (match storeSpec vfar (.int true 32) (.sts 1 2 3) with
      | some (d, ops, un, f, _) => decide (vecReady vfar (.int true 32) ops) && !un && decide (2 < count d)
         && (match storesBelow vfar d un f 2 with
             | .ok u => (match f u 2 with | .trap c x => c == 0x41 && x == 0x1000040000 | _ => false)
             | _ => false)
      | none => false) = true
    ∧ stopsWith (exec (.sts 1 2 3) vfar) 0x41 0x1000040000 = true
    ∧ leaves (exec (.sts 1 2 3) vfar) (fun t => t.hart.vec.vstart == 2 && readPaNat t 0x40000 4 == 1 && readPaNat t 0x800040000 4 == 1) = true := by decide +kernel

/-- A bank in FIFO mode with two entries, X1 at its port; windows of four 32-bit elements take 16 bytes. -/
def fifos : State :=
  { regs vmem [(1, fifoVa)] with banks := [(1, { Bank.init with mode := .fifo, holder := some (0, 0), fifo := [0x200000001, 0x400000003] })] }
def fifoEmpty : State := { fifos with banks := [(1, { Bank.init with mode := .fifo, holder := some (0, 0) })] }

theorem witness_FifoTransfers :
    galleysOk fifos ∧ banksOk fifos ∧ stageOff fifos = false ∧ fenced fifos clsV = false ∧ hasGuard fifos = false ∧ isFifoVa (rx fifos 1).toNat = true
    ∧ count (winOp fifos 3 0) ≠ 0 ∧ count (winOp fifos 3 0) * 32 / 8 % 8 = 0 ∧ fifos.hart.vec.vstart = 0
    ∧ locate fifos (fifos.hart.path fifos) (rx fifos 1).toNat .load = .ok (.fifo 1)
    ∧ locate fifos (fifos.hart.path fifos) (rx fifos 1).toNat .store = .ok (.fifo 1) ∧ (bankAt fifos 1).fifo.length + 2 ≤ 32768
    ∧ vecReady fifos (.int true 32) [dataDst fifos (winOp fifos 3 0) (.int true 32)] ∧ vecReady fifos (.int true 32) [dataSrc (winOp fifos 3 0) (.int true 32)]
    ∧ w3 fifos (.ldv 1 3) 4 = [1, 2, 3, 4]
    ∧ leaves (exec (.stv 1 3) fifos) (fun t => (bankAt t 1).fifo == [0x200000001, 0x400000003, 0x100000001, 0x100000001]) = true
    ∧ (bankAt fifoEmpty 1).fifo.length < 2 ∧ leaves (exec (.ldv 1 3) fifoEmpty) (fun t => decide (t.hart.status = .waiting (.fifo 1))) = true := by decide +kernel

/-- After GLINK of the four places, as SCOND finds it. -/
def linked : State := match exec (.glink 3 4 1) vmem with | .next t => t | _ => vmem

theorem witness_LinkedAccess :
    galleysOk vmem ∧ memOk vmem ∧ banksOk vmem ∧ isLinkTy (.int true 32) = true ∧ stageOff vmem = false ∧ fenced vmem clsV = false
    ∧ vecReady vmem (.int true 32) (gathOpds vmem (winOp vmem 3 0) (winOp vmem 4 1) false true (.int true 32))
    ∧ vecReady vmem (.int true 32) (gathOpds vmem (winOp vmem 3 0) (winOp vmem 4 1) true false (.int true 32))
    ∧ placeOf vmem (vmem.hart.path vmem) (gathAddr vmem (rx vmem 1) (winOp vmem 4 1) 0) 4 .load .fifoOnly = .ok (.pa 0x4000C 0xF 36)
    ∧ placeOf vmem (vmem.hart.path vmem) (gathAddr vmem (rx vmem 1) (winOp vmem 4 1) 3) 4 .store .fifoOnly = .ok (.pa 0x40004 0xF 36)
    ∧ locPoisoned vmem (.pa 0x4000C 0xF 36) = false ∧ locRemote (.pa 0x4000C 0xF 36) = false
    ∧ vmem.hart.eng.link = none ∧ vmem.hart.who.dispatch = false ∧ stopsWith (exec (.scond 3 4 1) vmem) 0x4B ((wordOf (.scond 3 4 1)).setWidth 64) = true
    ∧ linked.hart.eng.link = some [(0x40000 / 64, true)]
    ∧ vecReady linked (.int true 32) (gathOpds linked (winOp linked 3 0) (winOp linked 4 1) true false (.int true 32)) := by decide +kernel

theorem test_scond :
    leaves (exec (.scond 3 4 1) linked) (fun t => rm t 0 == 15 && decide (t.hart.eng.link = none) && readPaNat t 0x4000C 4 == 13)
    && leaves (exec (.scond 3 4 1) (breakLine (0x40000 / 64) none linked)) (fun t => rm t 0 == 0) = true := by decide +kernel

theorem witness_ScatterAdds :
    isAddTy (.int true 32) = true ∧ stageOff vmem = false
    ∧ vecReady vmem (.int true 32) (gathOpds vmem (winOp vmem 3 0) (winOp vmem 4 1) true false (.int true 32))
    ∧ ((List.range (count (winOp vmem 3 0))).all fun k => match placeOf vmem { vmem.hart.path vmem with remote := some true }
        (gathAddr vmem (rx vmem 1) (winOp vmem 4 1) k) 4 .store .fifoOnly with | .ok _ => true | _ => false) = true := by decide +kernel

theorem test_amo :
    x3All vmem [(.amo 3 1 2 0 0 0 0 0, 10), (.amo 3 1 2 0 0 0 0 7, 10)]
    && memAfter vmem (.amo 3 1 2 0 0 0 0 0) == [18, 11, 12, 13, 14, 15, 16, 17] && memAfter vmem (.amo 3 1 2 0 0 0 0 5) == [10, 11, 12, 13, 14, 15, 16, 17]
    && memAfter (regs vmem [(3, 10)]) (.amo 3 1 2 0 0 0 0 8) == [8, 11, 12, 13, 14, 15, 16, 17]
    && memAfter (regs vmem [(3, 9)]) (.amo 3 1 2 0 0 0 0 8) == [10, 11, 12, 13, 14, 15, 16, 17]
    && x3All vmem [(.vwait 3 1 2 0 1, 10)] && leaves (exec (.vwait 3 1 2 0 0) vmem) (fun t => decide (t.hart.status = .waiting .vwait)) = true := by decide +kernel

theorem witness_AtomicResults :
    (8#4).toNat ≤ 8 ∧ memOk vmem ∧ banksOk vmem ∧ fenced vmem clsS = false ∧ enginesBusy vmem.hart = false
    ∧ placeOf vmem (vmem.hart.path vmem) (rx vmem 1).toNat 4 .load .devFifo = .ok (.pa 0x40000 0xF 36)
    ∧ placeOf vmem (vmem.hart.path vmem) (rx vmem 1).toNat 4 .store .devFifo = .ok (.pa 0x40000 0xF 36) ∧ locPoisoned vmem (.pa 0x40000 0xF 36) = false := by
  decide +kernel

theorem witness_VectorAtomics :
    galleysOk vmem ∧ memOk vmem ∧ isAmoTy 0 (.int true 32) = true
    ∧ vecReady vmem (.int true 32) (gathOpds vmem (winOp vmem 3 0) (winOp vmem 4 1) true true (.int true 32))
    ∧ stageOff vmem = false ∧ fenced vmem clsV = false ∧ enginesBusy vmem.hart = false
    ∧ ((List.range (count (winOp vmem 3 0))).all fun k => match placeOf vmem (vmem.hart.path vmem) (gathAddr vmem (rx vmem 1) (winOp vmem 4 1) k) 4 .load .devFifo,
        placeOf vmem (vmem.hart.path vmem) (gathAddr vmem (rx vmem 1) (winOp vmem 4 1) k) 4 .store .devFifo with
        | .ok (.pa x _ _), .ok (.pa y _ _) => x == y | _, _ => false) = true := by decide +kernel

/-- A parameter block of STRMX at 0x60000: start 0, counts 4, 2, 1. -/
def streaming : State := regs (bytesAt vmem 0x60000 ((([0, 0, 0, 0, 4, 2, 1, 0] : List Nat)).flatMap (bytesOfNat 4))) [(6, 0x60000), (7, 0)]

theorem witness_StreamBindings :
    modeIll streaming.hart.vec.vmode = false ∧ modeTy streaming.hart.vec.vmode = some (.int true 32) ∧ winFits streaming (winOp streaming 3 0) = true
    ∧ wEw (winOp streaming 3 0).desc = 32 ∧ isPair (winOp streaming 3 0) = false ∧ boundTo streaming 3 = none ∧ streaming.hart.eng.streams.length < 4
    ∧ (rh streaming 1).isA kindTensor = true ∧ cmdStalls streaming 2 = false ∧ (rx streaming 6).toNat % 64 = 0 ∧ fenced streaming clsS = false
    ∧ loadWords streaming (streaming.hart.path streaming) 0x60000 8 = .ok [0, 0, 0x0000000200000004, 1, 0, 0, 0, 0]
    ∧ leaves (exec (.strm 1 2 7 7 3) streaming) (fun t => (t.hart.eng.streams.map fun x => (x.win, x.ctr, x.start, x.counts)) == [(3, 2, [0, 0, 0, 0], [32])] && (rc t 2).count == 1) = true
    ∧ leaves (exec (.strmx 1 2 6 3) streaming) (fun t => (t.hart.eng.streams.map fun x => x.counts) == [[4, 2, 1]]) = true := by decide +kernel

/-- W3 bound. -/
def bound : State := match exec (.strmx 1 2 6 3) streaming with | .next t => t | _ => streaming
theorem test_streams :
    (boundTo bound 3).isSome && leaves (exec (.strmxUnbind 3) bound) (fun t => t.hart.eng.streams.isEmpty && (rc t 2).count == 0)
    && leaves (exec (.pref 1 2 0 1) bound) (fun t => decide (settled bound t = bound)) = true := by decide +kernel
/-! ## Engine commands, waits, grids, launches (R225 to R262, R30, R135) -/

def words (ws : List Nat) : List Byte := ws.flatMap (bytesOfNat 8)

/-- Two TENSORs of 64 by 4 bytes, and the blocks of COPY, QCOPY, ENCF, COLL, and of a COPY that is no good. -/
def copyWs : List Nat := [0x40000, 0x50000, 2 ^ 32 + 16, 1, 0, 0, 0, 0]
def qcopyWs : List Nat := [0x40000, 0x50000, 0x58000, 32 + 0x13 * 2 ^ 32 + 0x84 * 2 ^ 40 + 16 * 2 ^ 48, 0, 0, 0, 0]
def encfWs : List Nat := [0, 8 + 8 * 2 ^ 16, 0x40000, 0x41000, 64, 0, 0x42000, 0x43000, 64, 0x44000, 0, 0, 0, 0, 0, 0]
def collWs : List Nat := [0x40000, 0x50000, 2 * 2 ^ 32 + 4, 9 * 2 ^ 32 + 7, 0, 0, 0, 0]
def engines : State :=
  let s := withH (hartWith base fun h => { h with eng := { h.eng with sbind := [(2, 5)] } }) [(1, tensor8 0x40000), (2, tensor8 0x50000)]
  let s := bytesAt (bytesAt (bytesAt (bytesAt s 0x60000 (words copyWs)) 0x60040 (words qcopyWs)) 0x60080 (words encfWs)) 0x60100 (words collWs)
  regs s [(10, 0x60000), (11, 0x60040), (12, 0x60080), (13, 0x60100), (14, 0x70000), (15, 0x78000)]
/-- COLL's GROUP and SEQ have been used. -/
def collUsed : State := { engines with colls := [(7, 9)] }

/-- The command is in the queue, its counter is one higher, and it took the barrier bound to it. -/
def issued1 (s : State) (i : Instr) : Bool :=
  leaves (exec i s) fun t => decide (t.hart.eng.cmds.map (fun k => (k.op, k.sb)) = [(i, some 5)]) && (rc t 2).count == 1 && t.hart.pc == 0x10004

def asWords (ws : List Nat) : List Word := ws.map (BitVec.ofNat 64)

theorem witness_EngineCommands :
    (rh engines 1).isA kindTensor = true ∧ (rh engines 2).isA kindTensor = true ∧ (rh engines 1).esz = (rh engines 2).esz ∧ cmdStalls engines 2 = false
    ∧ (∀ d, d < 4 → [0, 0, 0, 0].getD d 0 + (rh engines 1).ext d ≤ (rh engines 2).ext d)
    ∧ blockRead engines 10 8 (asWords copyWs) ∧ copyBlockBad (natOfWords (asWords copyWs)) = false
    ∧ blockRead engines 11 8 (asWords qcopyWs) ∧ qcopyBlockBad (natOfWords (asWords qcopyWs)) = false
    ∧ blockRead engines 12 16 (asWords encfWs) ∧ encfBad (natOfWords (asWords encfWs)) = false
    ∧ blockRead engines 13 8 (asWords collWs) ∧ collBad 0 (natOfWords (asWords collWs)) = false
    ∧ (natOfWords (asWords collWs) / 2 ^ 192 % 2 ^ 32, natOfWords (asWords collWs) / 2 ^ 224 % 2 ^ 32) ∉ engines.colls
    ∧ (natOfWords (asWords collWs) / 2 ^ 192 % 2 ^ 32, natOfWords (asWords collWs) / 2 ^ 224 % 2 ^ 32) ∈ collUsed.colls
    ∧ blockRead collUsed 13 8 (asWords collWs) ∧ (∀ q ∈ collUsed.hart.eng.cmds, q.id ≠ collUsed.nextId)
    ∧ relayBad (rh engines 1) 1 0x70000 0x78000 = false
    ∧ (let g := relayHandle (rh engines 1) 1 0x70000 0x78000
       match writeMap engines g.smap (sheetHeader (rh engines 1).ld (sheetCount g g.newLayout)) with
       | .ok _ => true | _ => false) = true
    ∧ blockRead engines 14 8 (asWords [0, 0, 0, 0, 0, 0, 0, 0]) ∧ copyBlockBad (natOfWords (asWords [0, 0, 0, 0, 0, 0, 0, 0])) = true
    ∧ engines.hart.who.dispatch = false := by decide +kernel

theorem test_engine_commands :
    issued1 engines (.copy 2 2 0 0 1) && issued1 engines (.qcopy 2 2 0 0 0 1) && issued1 engines (.copyBlock 2 10) && issued1 engines (.qcopyBlock 2 11)
    && issued1 engines (.encf 2 12 0) && issued1 engines (.coll 2 13 0 0 0 0) && issued1 engines (.relay 1 2 14 15 1)
    && leaves (exec (.relay 1 2 14 15 1) engines) (fun t => (rh t 1).tag == 1 && (rh t 1).smap == 0x78000 && readPaNat t 0x78000 8 == 64)
    && leaves (exec (.coll 2 13 0 0 0 0) collUsed) (fun t => (rc t 2).poison && (rc t 2).count == 0 && t.hart.eng.cmds.isEmpty)
    && stopsWith (exec (.copyBlock 2 14) engines) 0x47 0x70000 = true := by decide +kernel

/-- Counter 3 at two commands, counter 4 poisoned; X1 = 2, and X2 = TOL with k = 0. -/
def counting : State := regs (wc (wc base 3 { Counter.zero with count := 2 }) 4 { Counter.zero with count := 1, poison := true, first := 0x700 })
  [(1, 2), (2, 0x8000000000000000)]

theorem test_counters :
    leaves (exec (.cwait 3 3) counting) (fun t => t.hart.pc == 0x10004) && leaves (exec (.cwait 3 2) counting) (fun t => decide (t.hart.status = .waiting .cwait))
    && leaves (exec (.cwait 5 0) counting) (fun t => t.hart.pc == 0x10004) && leaves (exec (.cwaitX 3 1) counting) (fun t => decide (t.hart.status = .waiting .cwait))
    && leaves (exec (.cwaitX 4 2) counting) (fun t => t.hart.pc == 0x10004) && stopsWith (exec (.cwait 4 0) counting) 0xA0 0x700
    && stopsWith (exec (.cwait 3 3) pendingErr) 0xA0 0x500 && x3All counting [(.cread 3 3, 2), (.cread 4 3, 0x8000000000000001)]
    && leaves (exec (.creadClr 4 3) counting) (fun t => rx t 3 == 0x8000000000000001 && !(rc t 4).poison && (rc t 4).count == 1) = true := by decide +kernel

theorem witness_CounterInstructions :
    counting.hart.eng.errPend = none ∧ (rc counting 3).count.toNat < max 1 (3#6).toNat ∧ (rc counting 3).poison = false
    ∧ (rc counting 4).poison = true ∧ (rx counting 2).getLsbD 63 = true ∧ (rx counting 1).getLsbD 63 = false
    ∧ max 1 ((rx counting 1).toNat % 65536) ≤ (rc counting 3).count.toNat ∧ max 1 (2#6).toNat ≤ (rc counting 3).count.toNat
    ∧ counting.hart.who.dispatch = false ∧ pendingErr.hart.eng.errPend = some 0x500 ∧ pendingErr.hart.who.dispatch = false := by decide +kernel

/-- Barrier 5 at 3, a second hart of the gang that has arrived once at each barrier, and a COPY under way. -/
def meeting : State :=
  let s := sbPut (match exec (.copyBlock 2 10) (regs engines [(1, 3), (2, 4), (3, 0x8000000000000007)]) with | .next t => t | _ => engines) 0 5 (3, false)
  let v := arriveBar s 1
  { s with hart := { s.hart with eng := { s.hart.eng with arrived := Vector.replicate 6 0 } }
           others := [{ v.hart with who := { v.hart.who with id := 77, rank := 1 }, eng := { EngState.entry with arrived := Vector.replicate 6 1 } }] }
def arrivedOnce : State := arriveBar meeting 1
def arrivedTwice : State := arriveBar arrivedOnce 1

theorem test_barriers :
    leaves (exec (.sbarr 4 1 5) meeting) (fun t => rx t 4 == 3 && sbGet t 0 5 == (6, false)) && leaves (exec (.sbarr 4 3 5) meeting) (fun t => sbGet t 0 5 == (7, false))
    && x3All meeting [(.sbarw 3 1 5, 3)] && leaves (exec (.sbarw 4 2 5) meeting) (fun t => decide (t.hart.status = .waiting .sbarw))
    && leaves (exec (.sbind 3 9) meeting) (fun t => t.hart.eng.sbind.head? == some (3, 9))
    && leaves (exec (.fencex 0xFF 0x01) meeting) (fun t => decide (t.hart.eng.fences = [{ before := meeting.hart.eng.cmds.map (·.id), after := 1 }]))
    && leaves (exec (.fencex 0xFF 0) meeting) (fun t => t.hart.eng.fences.isEmpty) && leaves (exec (.vfence 1) meeting) (fun t => t.hart.pc == meeting.hart.pc + 4)
    && leaves (exec (.bara 1) meeting) (fun t => arrivals t.hart 1 == 1 && arrivals t.hart 2 == 0) && leaves (exec (.barw 1) meeting) (fun t => t.hart.pc == meeting.hart.pc + 4)
    && leaves (exec (.barw 1) arrivedTwice) (fun t => decide (t.hart.status = .waiting .barw)) && leaves (exec (.bar 1) meeting) (fun t => t.hart.pc == meeting.hart.pc + 4)
    && leaves (exec (.bar 1) arrivedOnce) (fun t => decide (t.hart.status = .waiting .barw) && arrivals t.hart 1 == 2) = true := by decide +kernel

theorem witness_FencesAndBarriers :
    galleysOk meeting ∧ (launchAt meeting meeting.hart.who.serial).isSome = true
    ∧ (rx meeting 1).toNat % 2 ^ 32 ≤ (sbGet meeting 0 5).1.toNat ∧ (sbGet meeting 0 5).1.toNat < (rx meeting 2).toNat % 2 ^ 32 ∧ (sbGet meeting 0 5).2 = false
    ∧ meeting.hart.eng.errPend = none ∧ outstandingOf meeting.hart 0xFF ≠ [] ∧ (1#8) ≠ 0#8 ∧ (1#3).toNat ≤ 5
    ∧ arrivals meeting.hart 1 = 0 ∧ arrivals arrivedOnce.hart 1 = 1
    ∧ (∀ v ∈ meeting.others, takesPart meeting 1 meeting.hart.who v = true → hartOver v = true ∨ 1 ≤ arrivals v 1)
    ∧ ¬(∀ v ∈ arrivedTwice.others, takesPart arrivedTwice 1 arrivedTwice.hart.who v = true → hartOver v = true ∨ 2 ≤ arrivals v 1)
    ∧ ¬(∀ v ∈ arrivedOnce.others, takesPart arrivedOnce 1 arrivedOnce.hart.who v = true → hartOver v = true ∨ 1 + 1 ≤ arrivals v 1)
    ∧ pendingErr.hart.eng.errPend = some 0x500 ∧ pendingErr.hart.who.dispatch = false := by decide +kernel
/-- A grid of resolution 4 with parameters 1.5, 0.5, 0, ... ; W1 takes two features, W2 holds the points (0, 0, 0) and (0.125, 0, 0). -/
def gridded : State :=
  let s := vec 0x13 8 [(1, rectWin 1 2 1 3), (2, rectWin 4 2 3 3)] [(1, rowBytes [0x40000000]), (2, rowBytes [0x3F800000]), (5, rowBytes [0x3E000000])]
  withH (bytesAt s 0x90000 (rowBytes [0x3FC00000, 0x3F000000])) [(2, { gridH with levels := [0x0000000A00000004] })]

def isF32 (r : Except Trap Ty) : Bool := match r with | .ok t => t == .flt fmtF32 | _ => false

/-- A feature of a point. -/
def gridVal (p j : Nat) : Nat × Flags :=
  match gridCol gridded { gridded.hart.path gridded with quadOf := none } (rh gridded 2) (gridCoords gridded (rh gridded 2) (winOp gridded 2 2) p).1 fmtF32 j with
  | .ok v => v
  | _ => (0, 0)

theorem witness_GridInstructions_gld :
    galleysOk gridded ∧ isF32 (gridChecks gridded (.gld 2 1 2) (rh gridded 2) (winOp gridded 1 1) (winOp gridded 2 2) true) = true
    ∧ fenced gridded clsGRD = false ∧ gridHeld gridded [winOp gridded 2 2] [winOp gridded 1 1] = false ∧ gridPoints gridded (winOp gridded 1 1) = 2
    ∧ ∀ p ∈ [0, 1], ∀ j, j < 1 →
      gridCol gridded { gridded.hart.path gridded with quadOf := none } (rh gridded 2) (gridCoords gridded (rh gridded 2) (winOp gridded 2 2) p).1 fmtF32 j
        = .ok (gridVal p j) := by decide +kernel

/-- The places and values that GSCAT's contributions name. -/
def gridAdds : List (Nat × Nat) := ([0, 1] : List Nat).flatMap (gscatPoint gridded (rh gridded 2) fmtF32 (winOp gridded 1 1) (winOp gridded 2 2))
theorem witness_GridInstructions_gscat :
    isF32 (gridChecks gridded (.gscat 2 1 2 3) (rh gridded 2) (winOp gridded 1 1) (winOp gridded 2 2) false) = true ∧ cmdStalls gridded 3 = false
    ∧ gridHeld gridded [winOp gridded 1 1, winOp gridded 2 2] [] = false
    ∧ (gridAdds.all fun x => match placeOf gridded (gridded.hart.enginePath gridded) x.1 4 .store .fifoOnly with | .ok _ => true | _ => false) = true := by
  decide +kernel

theorem test_grid :
    leaves (exec (.gld 2 1 2) gridded) (fun t => readCell t (rw t 1) (cell (winOp t 1 0) 0 0) == 0x3FC00000 && readCell t (rw t 1) (cell (winOp t 1 0) 1 0) == 0x3F800000)
    && leaves (exec (.gscat 2 1 2 3) gridded) (fun t => (rc t 3).count == 1 && t.hart.eng.cmds.length == 1
        && t.hart.eng.adds.any (fun x => x.pa == 0xA0000 && x.part == 0x40200000) && t.hart.eng.adds.any (fun x => x.pa == 0xA0004 && x.part == 0x3F000000)) = true := by
  decide +kernel

/-- Records: one that is well formed, at X1, and one of no gangs, at X2. -/
def recWs : List Nat := [0x10000, 0x5000, 0x6000, 0, 2 ^ 48 + 2 ^ 32 + 1, 4, 0, 0]
def badWs : List Nat := [0x10000, 0x5000, 0x6000, 0, 2 ^ 48 + 2 ^ 32, 4, 0, 0]
def launching : State := regs (bytesAt (bytesAt base 0x60000 (words recWs)) 0x60040 (words badWs)) [(1, 0x60000), (2, 0x60040), (3, 7)]
def launchingDispatch : State := hartWith launching fun h => { h with who := { h.who with dispatch := true } }
/-- The pending-launch store is full. -/
def launchFull : State := { launching with sched := { launching.sched with launches := List.replicate 65536 (setupLaunch launching) } }

theorem test_launch :
    x3All launching [(.launch 3 1, 0), (.launchW 3 1, 0), (.launch 3 2, 2), (.launchW 3 2, 2)]
    && leaves (exec (.launch 3 1) launching) (fun t => t.sched.launches.map (fun l => (l.desc.args, l.desc.count)) == [(0, 1), (0x5000, 1)])
    && leaves (exec (.launch 3 2) launchingDispatch) (fun t => (queueAt t 0).err && (queueAt t 0).cause == 0xA4 && (queueAt t 0).mberr == 0x60040) = true := by decide +kernel

theorem witness_LaunchInstructions :
    launching.hart.eng.launchRec = none ∧ blockRead launching 1 8 (asWords recWs) ∧ blockRead launching 2 8 (asWords badWs)
    ∧ recBad launching (identSpace launching launching.hart.who) launching.hart.who.fn (launchMaxClass launching) (asWords recWs) = .ok false
    ∧ recBad launching (identSpace launching launching.hart.who) launching.hart.who.fn (launchMaxClass launching) (asWords badWs) = .ok true
    ∧ launching.hart.who.dispatch = false ∧ launching.sched.launches.length < 65536
    ∧ launchingDispatch.hart.eng.launchRec = none ∧ blockRead launchingDispatch 2 8 (asWords badWs) ∧ launchingDispatch.hart.who.dispatch = true
    ∧ recBad launchingDispatch (identSpace launchingDispatch launchingDispatch.hart.who) launchingDispatch.hart.who.fn (launchMaxClass launchingDispatch) (asWords badWs)
      = .ok true := by decide +kernel
theorem witness_LaunchInstructions_full :
    (launchFull.hart.eng.launchRec = none ∧ blockRead launchFull 1 8 (asWords recWs)
      ∧ recBad launchFull (identSpace launchFull launchFull.hart.who) launchFull.hart.who.fn (launchMaxClass launchFull) (asWords recWs) = .ok false)
    ∧ 65536 ≤ launchFull.sched.launches.length :=
  ⟨by decide +kernel, Nat.le_of_eq (List.length_replicate ..).symm⟩
/-! ## Steps without an encoding: the matrix queue and the engines -/

/-- The state an instruction leaves. -/
def after (i : Instr) (s : State) : State := match exec i s with | .next t => t | _ => s

/-- A state whose queue holds one instruction, and the same with it started. -/
def queued1 (s : State) (i : Instr) : State := after i s
def started1 (s : State) (i : Instr) : State := after (.matrixQueueStart 1) (queued1 s i)

/-- The head of the queue satisfies `p`. -/
def headIs (s : State) (p : MEntry → Bool) : Bool := match s.hart.mat.mq with | e :: _ => p e | [] => false

theorem witness_MatrixEvents_start :
    queueRuns (queued1 mats (.mzero 15)).hart = true ∧ headIs (queued1 mats (.mzero 15)) (fun e => !e.started && counted e && !isFetch e) = true
    ∧ galleysOk (queued1 mats (.mzero 15)) ∧ queueRuns (queued1 fetching (.mfetch 1 2 0 0 7 1)).hart = true
    ∧ headIs (queued1 fetching (.mfetch 1 2 0 0 7 1)) (fun e => !e.started && isFetch e) = true ∧ galleysOk (queued1 fetching (.mfetch 1 2 0 0 7 1))
    ∧ headIs (queued1 (regs mats [(1, 5)]) (.mclaim 1)) (fun e => !e.started && !counted e && !isFetch e && entryReady (queued1 (regs mats [(1, 5)]) (.mclaim 1)) e) = true
    ∧ galleysOk (queued1 (regs mats [(1, 5)]) (.mclaim 1)) := by decide +kernel

def startedReady (i : Instr) (p : MEntry → Bool) : Bool :=
  let t := started1 mats i
  t.hart.who.resident && decide (galleysOk t) && headIs t fun e => e.started && entryReady t e && decide (e.op = i) && p e

theorem witness_MatrixEvents_complete :
    startedReady (.mzero 15) (fun e => decide (0 < mvlLen e.mvl))
    && startedReady (.wtoa 1 9 1 0) (fun e => decide (entryTy e = .int true 8) && decide (outerOf e.wa ≤ mvlLen e.mvl) && decide (innerOf e.wa ≤ mvlLen e.mvl))
    && (let t := started1 { mats with hart := { mats.hart with vec := { mats.hart.vec with vmode := makeVmode 0x84 } } } (.mrankAdd 1 5 6 0)
        t.hart.who.resident && decide (galleysOk t) && headIs t fun e => e.started && entryReady t e && decide (entryTy e = .flt (.b8 4 false false))
          && decide (innerOf e.wa ≤ mvlLen e.mvl) && decide (innerOf e.wb ≤ mvlLen e.mvl)) = true := by decide +kernel

theorem test_matrix_completes :
    let w (t : State) (r c : Nat) := accGet t t.hart.mat.mvl 1 r c
    let go (i : Instr) := after (.matrixInstructionComplete 1) (started1 mats i)
    let a := go (.mrankAdd 1 5 6 0)
    let b := after (.matrixInstructionComplete 1) (after (.matrixQueueStart 1) (after (.mma 2 7 8) mats))
    (w (go (.wtoa 1 9 1 0)) 0 0 == 5) && (w (go (.wtoa 1 9 1 0)) 0 2 == 7) && (w (after (.matrixInstructionComplete 1) (after (.matrixQueueStart 1) (after (.mzero 1) (go (.wtoa 1 9 1 0))))) 0 0 == 0)
    && a.hart.mat.mq.isEmpty && (w a 0 0 == 0) && b.hart.mat.mq.isEmpty = true := by decide +kernel

/-- A fetch that has left the queue, and its row. -/
def fetched : State := started1 (bytesAt fetching 0x40000 [0x38, 0x40, 0xB8, 0x44]) (.mfetch 1 2 0 0 7 0)
def theFetch : Fetch := match fetched.hart.mat.fetches with | k :: _ => k
                                                            | [] => { id := 0, op := .halt, ctr := 0, sb := none, deps := [], issued := 0, inQueue := false, behind := false, scale := 0, delta := false, tr := false, h := Handle.zero, hs := Handle.zero, hd := Handle.zero, c := [], win := 0, vmode := 0, mvl := 0, rcur := 0, rlo := 0, rhi := 0, row := 0, faulted := false, flags := 0 }
def fetchVal (i : Nat) : Nat × Nat × Flags := if i < 4 then (([0x38, 0x40, 0xB8, 0x44] : List Nat).getD i 0, 127, 0) else (0, 127, 0)

theorem witness_MatrixEvents_row :
    fetchAt fetched theFetch.id = some theFetch ∧ rowMayGo fetched theFetch = true ∧ theFetch.faulted = false ∧ galleysOk fetched
    ∧ fits fetched.hart.who.grows (grbOf fetched.hart.who.shape) { cur := theFetch.rcur, lo := theFetch.rlo, hi := theFetch.rhi } theFetch.win = true
    ∧ ∀ i, i < innerOf theFetch.win → pageBlockTest fetched (fetched.hart.enginePath fetched) theFetch (fetchTy theFetch) theFetch.row i = .ok ()
        ∧ fetchElem fetched (fetched.hart.enginePath fetched) theFetch (fetchTy theFetch) theFetch.row i (Config.freeWord (fetched.freeIdx + i)).toNat
          = .ok (fetchVal i) := by decide +kernel

theorem witness_MatrixEvents_fetched :
    (let t := after (.mfetchRowValid 1 theFetch.id) (after (.mfetchRowValid 1 theFetch.id) fetched)
     (match fetchAt t theFetch.id with | some k => !k.inQueue && decide (outerOf k.win ≤ k.row) && decide (k.ctr < 16) | none => false)
     && (rc t 2).count == 1 && (rc (after (.mfetchComplete 1 theFetch.id) t) 2).count == 0 && decide (galleysOk t)) = true := by decide +kernel
/-! ## Steps without an encoding: engines, wakes, launches -/

/-- One command is under way; a property of it. -/
def cmdIs (s : State) (p : Cmd → Bool) : Bool := match s.hart.eng.cmds with | [k] => decide (cmdAt s k.id = some k) && depsDone s k.deps && p k | _ => false
def cmdId (s : State) : Nat := match s.hart.eng.cmds with | k :: _ => k.id | [] => 0

/-- Two TENSORs of 8 by 1 bytes, barrier 5 bound to counter 2, X4 and X5 the bases of RELAY. -/
def tiny (base : Nat) : Handle := handle [2 ^ 60 + base, 2 ^ 32 + 8, 2 ^ 32 + 1, 2 ^ 32 + 64, 0, 0, 0, 0]
def small : State :=
  let s := withH (hartWith base fun h => { h with eng := { h.eng with sbind := [(2, 5)] } }) [(1, tiny 0x40000), (2, tiny 0x50000)]
  regs (bytesAt s 0x40000 [1, 2, 3]) [(4, 0x70000), (5, 0x78000)]

/-- A COPY of 8 bytes, under way and with its one unit written. -/
def copying : State := after (.copy 2 2 0 0 1) small
def copied : State := after (.copyUnitArrival 1 (cmdId copying)) copying

theorem witness_EngineEvents_copy :
    focus copying 1 = some copying ∧ cmdIs copying (fun k => isCopy k && decide (copyFinished copying k = .ok false) && ok (copyUnit copying k) && decide (k.ctr < 16)) = true
    ∧ cmdIs copied (fun k => isCopy k && decide (copyFinished copied k = .ok true)) = true ∧ engineCause 0x40 = true
    ∧ readPaNat copied 0x50000 3 = 0x030201 ∧ (sbGet copied 0 5).1 = 1
    ∧ leaves (exec (.engineCommandEnd 1 (cmdId copied)) copied) (fun t => t.hart.eng.cmds.isEmpty && (rc t 2).count == 0)
    ∧ leaves (exec (.engineCommandFault 1 (cmdId copied) 0x40 0x40000) copied) (fun t => t.hart.eng.cmds.isEmpty && (rc t 2).poison && (sbGet t 0 5).2) := by
  decide +kernel

/-- A RELAY, its one sheet on the way, and done. -/
def relaying : State := after (.relay 1 2 4 5 1) small
def relayId (s : State) : Nat := match s.relays with | r :: _ => r.id | [] => 0
def relayMid : State := after (.sheetMoving (relayId relaying)) relaying
def relayEnd : State := after (.sheetNew (relayId relaying)) relayMid

theorem witness_EngineEvents_relay :
    (match relaying.relays with
     | [r] => decide (r.hid = 1) && relayRuns relaying r && r.sheets.findIdx? (· == 0) == some 0 && decide (r.sheets.countP (· == 1) < 4) && ok (setSheet (drainHarts relaying) r 0 1)
     | _ => false)
    && (match relayMid.relays with
     | [r] => relayRuns relayMid r && r.sheets.findIdx? (· == 1) == some 0 && (match sheetWr relayMid (relayMid.hart.enginePath relayMid) r 0 with
       | .ok ws => (match engineWrite relayMid (relayMid.hart.enginePath relayMid) ws (.ok ws) with | .ok u => ok (setSheet u r 0 2) | _ => false) | _ => false)
     | _ => false)
    && cmdIs relayEnd (relayDone relayEnd) && (readPaNat relayEnd 0x78040 1 == 2) && (readPaNat relayEnd 0x70000 1 == 1) = true := by decide +kernel

/-- A port is up. -/
def portOn (s : State) : State := { s with hub := { s.hub with ports := [(0, { Port.init with state := 2 })] } }

/-- A COLL of two modules, and an ENCF, under way. -/
def collecting : State := portOn <| after (.coll 2 4 0 2 0 0) (bytesAt (bytesAt small 0x40000 (rowBytes [1, 2, 3, 4])) 0x70000 (words collWs))
def collMembers : List CollPart := [{ rank := 1, elems := [10, 20, 30, 40] }, { rank := 0, elems := [] }]
def encoding_ : State := after (.encf 2 4 0) (bytesAt small 0x70000 (words encfWs))

theorem witness_EngineEvents_coll :
    cmdIs collecting (fun k => decide (collForm k.op = some (0, false, .int true 32)) && decide (k.ctr < 16) && collComplete k.blk 0 collMembers
      && (match collParts collecting (collecting.hart.enginePath collecting) k.blk 0 4 collMembers with
        | .ok ps =>
          let ws := ((collResult k.blk 0 (.int true 32) false ps).mapIdx fun j x => elemWr (collDst k.blk + j * 4) 0 32 x).flatten
          ok (rawWrite collecting (collecting.hart.enginePath collecting) ws (.ok ws))
        | _ => false)) = true
    ∧ leaves (exec (.collDelivery 1 (cmdId collecting) collMembers) collecting) (fun t => readPaNat t 0x50000 16 == 0x0000002C00000021000000160000000B && (rc t 2).count == 0) := by
  decide +kernel
theorem witness_EngineEvents_encf :
    cmdIs encoding_ (fun k => decide (k.units < encfBands (encfBlock k)) && !encfSbv (encfBlock k)
      && ok (bandBytes encoding_ (encoding_.hart.enginePath encoding_) (encfBlock k) k.units)) = true := by decide +kernel

/-- A SCATADD's bank adds, to perform; a bound window, to be filled. -/
def adding : State := after (.scatadd 3 4 1) vmem

theorem witness_EngineEvents_add :
    (match adding.hart.eng.adds with
     | x :: _ => decide (adding.hart.eng.adds.find? (·.id == x.id) = some x) && depsDone adding x.deps && decide (tyOfCode x.ty = some (.int true 32)) && decide (keyLoc x.pa = .pa 0x4000C 0 0)
        && !locPoisoned adding (.pa 0x4000C 0 0) && leaves (exec (.bankAdd 1 x.id) adding) (fun t => readPaNat t 0x4000C 4 == 14 && t.hart.eng.adds.length == 3)
     | [] => false) = true ∧ memOk adding := by decide +kernel
theorem witness_EngineEvents_refill :
    (match boundTo bound 3 with
     | some q => decide (modeTy q.vmode = some (.int true 32)) && !q.faulted && depsDone bound q.deps
        && ok (refillMore bound (bound.hart.enginePath bound) (.int true 32) (4 * count (winOp bound 3 0).whole - q.buf.length) q)
     | none => false) = true
    ∧ leaves (exec (.streamRefill 1 3) bound) (fun t => t.hart.eng.streams.map (·.buf) == [List.replicate 8 10]) := by decide +kernel
/-- The hart waits for `w` at instruction `i`. -/
def waitAt (s : State) (w : Wait) (i : Instr) : State :=
  hartWith (bytesAt s 0x10000 (bytesOfNat 4 (wordOf i).toNat)) fun h => { h with status := .waiting w, waitFrom := 0, pc := 0x10000 }
def waits (t : State) (w : Wait) (i : Instr) : Bool :=
  t.hart.status == .waiting w && active t.hart && match fetchWord t with
  | .ok x => (match decodeWord t.hart.who.dispatch x with | .ok j => decide (j = i) | _ => false)
  | _ => false

theorem witness_Wakes_parked :
    waits (waitAt vmem .vwait (.vwait 3 1 2 0 1)) .vwait (.vwait 3 1 2 0 1) && waits (waitAt counting .cwait (.cwait 3 3)) .cwait (.cwait 3 3)
    && waits (waitAt meeting .sbarw (.sbarw 3 1 5)) .sbarw (.sbarw 3 1 5) && waits (waitAt arrivedOnce .barw (.barw 1)) .barw (.barw 1)
    && waits (waitAt launching .launchW (.launchW 3 1)) .launchW (.launchW 3 1) = true := by decide +kernel

theorem witness_Wakes_conditions :
    fenced vmem clsS = false ∧ placeOf vmem (vmem.hart.path vmem) (rx vmem 1).toNat 4 .load .devFifo = .ok (.pa 0x40000 0xF 36)
    ∧ locPoisoned vmem (.pa 0x40000 0xF 36) = false
    ∧ vwaitHolds 1 32 (loaded vmem 0x40000 4 (.pa 0x40000 0xF 36)) ((rx vmem 2).toNat % 2 ^ 32) = true
    ∧ (rc counting 3).poison = false ∧ (rc counting 3).count.toNat < max 1 (3#6).toNat
    ∧ (rx meeting 1).toNat % 2 ^ 32 ≤ (sbGet meeting meeting.hart.who.serial 5).1.toNat ∧ barrierOpen arrivedOnce 1 = true
    ∧ launching.sched.launches.length < 65536 := by decide +kernel

/-- In SCALL, with X3 = 0, X4 = 2, X5 = 9. -/
def calling (a : BitVec 5) : State :=
  hartWith (bytesAt (regs base [(4, 2), (5, 9)]) 0x10000 (bytesOfNat 4 (wordOf (.scall 6 a)).toNat)) fun h => { h with status := .inScall 6 a }

theorem test_wakes :
    leaves (exec (.vwaitWake 1) (waitAt vmem .vwait (.vwait 3 1 2 0 1))) (fun t => rx t 3 == 10 && t.hart.pc == 0x10004)
    && leaves (exec (.cwaitWake 1) (waitAt counting .cwait (.cwait 3 3))) (fun t => t.hart.pc == 0x10004)
    && leaves (exec (.cwaitWake 1) (waitAt counting .cwait (.cwait 3 2))) (fun t => decide (t.hart.status = .waiting .cwait) && t.hart.pc == 0x10000)
    && leaves (exec (.sbarwWake 1) (waitAt meeting .sbarw (.sbarw 3 1 5))) (fun t => rx t 3 == 3)
    && leaves (exec (.barwWake 1) (waitAt arrivedOnce .barw (.barw 1))) (fun t => t.hart.pc == 0x10004)
    && leaves (exec (.launchWWake 1) (waitAt (hartWith launching fun h => { h with eng := { h.eng with launchRec := some (true, asWords recWs) } }) .launchW (.launchW 3 1)))
        (fun t => rx t 3 == 0 && t.sched.launches.length == 2)
    && leaves (exec (.fifoAccessWake 1) (waitAt base (.fifo 1) .halt)) (fun t => decide (t.hart.status = .running))
    && leaves (exec (.dispatchStallEnd 1) (waitAt base .stall .halt)) (fun t => decide (t.hart.status = .running))
    && leaves (exec (.migrationRewalk 1) (waitAt base .migration .halt)) (fun t => decide (t.hart.status = .running))
    && leaves (exec (.remoteAccessResponse 1) (portOn (waitAt base .remote .halt))) (fun t => t.hart.remote == some true)
    && leaves (exec (.remoteAccessResponse 1) (waitAt base .remote .halt)) (fun t => t.hart.remote == none)
    && leaves (exec (.remoteAccessResponse 1) { portOn (waitAt base .remote .halt) with time := 200000000 }) (fun t => t.hart.remote == none)
    && leaves (exec (.remoteTimeout 1) { waitAt base .remote .halt with time := 200000000 }) (fun t => t.hart.remote == some false)
    && leaves (exec (.remoteTimeout 1) { waitAt base .remote .halt with time := 199999999 }) (fun t => decide (t.hart.status = .waiting .remote))
    && leaves (exec (.scallAnswer 1) (calling 3)) (fun t => rx t 6 == 1) && leaves (exec (.scallAnswer 1) (calling 4)) (fun t => rx t 6 == 0)
    && leaves (exec (.scallAnswer 1) (calling 5)) (fun t => rx t 6 == 0xFFFFFFFFFFFFFFFF && decide (t.hart.status = .running) && t.hart.pc == 0x10004)
    && leaves (exec (.debuggerResume 1 0x2003) (hartWith base fun h => { h with status := .atBreak })) (fun t => t.hart.pc == 0x2000 && t.hart.trap.tepc == 0x2000)
    = true := by decide +kernel

theorem witness_Wakes_remote :
    focus (portOn (waitAt base .remote .halt)) 1 = some (portOn (waitAt base .remote .halt)) ∧ (waitAt base .remote .halt).hart.remote = none
    ∧ linkUp (portOn (waitAt base .remote .halt)) = true ∧ linkUp (waitAt base .remote .halt) = false
    ∧ (bankAt (waitAt base (.fifo 1) .halt) 1).changing = none ∧ active (waitAt base (.fifo 1) .halt).hart = true := by decide +kernel

theorem witness_Wakes_scall :
    (calling 3).hart.status = .inScall 6 3 ∧ rx (calling 3) 3 = 0 ∧ rx (calling 4) 4 = 2 ∧ 4 ≤ (rx (calling 5) 5).toNat
    ∧ fetchWord (calling 3) = .ok (wordOf (.scall 6 3)) ∧ fetchWord (calling 5) = .ok (wordOf (.scall 6 5)) := by decide +kernel
theorem witness_Wakes_word : decodeWord false (wordOf (.scall 6 3)) = .ok (.scall 6 3) := rfl

/-- A launch whose one gang has ended, with a completion word at 0x6000 and an interrupt. -/
def ended : State :=
  let s := after .halt base
  { s with sched := { s.sched with launches := s.sched.launches.map fun l => { l with desc := { l.desc with done := 0x6000, irq := true } } } }
/-- A hart asked to stop; of an aborted launch; stopped. -/
def asked : State := hartWith base fun h => { h with stopReq := true }
def askedAborted : State := { asked with sched := { asked.sched with launches := asked.sched.launches.map fun l => { l with aborted := true } } }
def stoppedHart : State := hartWith linked fun h => { h with stopReq := true, stopped := true, who := { h.who with grows := 0 } }

theorem witness_LaunchEvents :
    (match ended.sched.launches with
     | [l] => launchOver ended l && decide (launchAt ended 0 = some l) && ok (storeNat ended (fnPath ended l.fn) l.desc.done 8 (l.gdone * 2 ^ 32 + 1) .fifoOnly)
     | _ => false) = true
    ∧ leaves (exec (.completionWord 0) ended) (fun t => readPaNat t 0x6000 8 == 0x100000001 && t.sched.launches.isEmpty && t.msix == [(0, 0)]) = true
    ∧ asked.hart.stopReq = true ∧ asked.hart.who.dispatch = false ∧ hartOver asked.hart = false ∧ midMatrix asked.hart = false ∧ asked.hart.status ≠ .waiting .remote
    ∧ launchAborted asked asked.hart.who.serial = false ∧ asked.hart.stopped = false ∧ asked.hart.who.resident = true
    ∧ launchAborted askedAborted askedAborted.hart.who.serial = true
    ∧ stoppedHart.hart.stopped = true ∧ stoppedHart.hart.who.resident = true ∧ drained stoppedHart.hart = true ∧ midMatrix stoppedHart.hart = false
    ∧ launchAborted stoppedHart stoppedHart.hart.who.serial = false ∧ stoppedHart.hart.eng.link ≠ none
    ∧ leaves (exec (.contextSave 1) stoppedHart) (fun t => !t.hart.who.resident && t.hart.eng.link == some [(0x40000 / 64, false)])
    ∧ leaves (exec (.preemptionPointReached 1) asked) (fun t => t.hart.stopped && decide (t.hart.status = .running))
    ∧ leaves (exec (.preemptionPointReached 1) askedAborted) (fun t => decide (t.hart.status = .halted)) := by decide +kernel
/-! ## Steps without an encoding: the distributor (R11 to R14, R26, R315 to R321, R354 to R356) -/

/-- The launch of X1's record, pending. -/
def pendingL : State := after (.launch 3 1) launching
def firstCand (s : State) : Option Cand := match candidates (ageAll s) with | c :: _ => some c | [] => none

theorem witness_DistributorEvents_report :
    placing pendingL = true ∧ pendingL.sched.reserved = none
    ∧ (match firstCand pendingL with
       | some c => c.l.serial == 1 && fitAny (ageAll pendingL) noGang c == some (1, [(1, 0)]) && placesOk (ageAll pendingL) c (5 / coresPer c.l.desc.scope) [(5, 0)]
       | none => false) = true
    ∧ leaves (exec (.freeCountReport 0 []) pendingL) (fun t => decide (t.sched.reserved = some { serial := 1, gang := 0, inst := 1, places := [(1, 0)] }))
    ∧ leaves (exec (.freeCountReport 0 [(5, 0)]) pendingL) (fun t => decide (t.sched.reserved = some { serial := 1, gang := 0, inst := 5, places := [(5, 0)] })) := by
  decide +kernel

/-- Places reserved for it, die 1, quad 2, core 3. -/
def reservedL : State := { pendingL with sched := { pendingL.sched with reserved := some { serial := 1, gang := 0, inst := 75, places := [(75, 0)] } } }

/-- A saved gang on the resume queue with a place reserved. -/
def saved : State := after (.contextSave 1) (hartWith { base with sched := { base.sched with launches := base.sched.launches.map fun l =>
  { l with gangs := l.gangs.map fun g => { g with stop := true } } } } fun h => { h with stopReq := true, stopped := true, fcsr := 7, who := { h.who with grows := 0 } })
def reservedR : State := { saved with sched := { saved.sched with reserved := some { serial := 0, gang := 0, inst := 9, places := [(9, 0)] } } }

theorem witness_DistributorEvents_confirm :
    (match (candidates pendingL).find? (fun c => c.l.serial == 1 && c.gang == 0) with
     | some c => placesOk pendingL c 75 [(75, 0)] && !c.resume
     | none => false) = true
    ∧ leaves (exec (.placementConfirm true true) reservedL) (fun t => t.others.map (fun h => (h.who.die, h.who.quad, h.who.core, h.who.slot, h.pc, h.x.get 1)) == [(1, 2, 3, 0, 0x10000, 0x5000)])
    ∧ (match (candidates saved).find? (fun c => c.l.serial == 0 && c.gang == 0) with
     | some c => placesOk saved c 9 [(9, 0)] && c.resume && decide (gangRanks saved c = [saved.hart])
     | none => false) = true
    ∧ focus saved 1 = some saved ∧ lookup saved (identSpace saved saved.hart.who) saved.hart.pc.toNat ≠ .invalid
    ∧ leaves (exec (.placementConfirm true true) reservedR) (fun t => t.hart.who.resident && t.hart.who.quad == 2 && t.hart.who.core == 1 && t.hart.fcsr == 7 && !t.hart.stopped) :=
  ⟨by decide +kernel, by decide +kernel, by decide +kernel, focus_self _ _ (by decide +kernel), by and_intros <;> decide +kernel⟩

/-- It has waited for 10 ms. -/
def waited : State := { pendingL with time := 10000000 }

/-- The base's hart yields, and a gang of the same launch, saved, waits for residency that its function does not have. -/
def yields : State :=
  { base with
    hart := { base.hart with who := { base.hart.who with fn := 1 }, status := .waiting .cwait }
    sched := { base.sched with launches := base.sched.launches.map fun l => { l with
      fn := 1, gangs := l.gangs ++ [{ index := 1, status := .preempted, inst := 1, placeAt := 0, preAt := 0, aged := 0, stop := false }], started := 2, desc := { l.desc with count := 2 } } }
    others := [{ base.hart with who := { base.hart.who with id := 2, gang := 1, fn := 1, resident := false } }] }

/-- Function 1 has die 0: one hart of class 0 runs there since time 0, and a launch of class 1, as wide as the die and late, waits since time 0. -/
def crowded : State :=
  let s := { pendingL with time := 20000000 }
  { s with
    hart := { s.hart with who := { s.hart.who with fn := 1 } }
    hub := { s.hub with parts := [(0, 0x0000000100010001)], vfmaps := [(1, 0x8001)] }
    sched := { s.sched with
      unplaced := [((1, 0), 0)]
      launches := s.sched.launches.map fun l => if l.serial = 1 then
        { l with fn := 1, desc := { l.desc with scope := 3, gsize := 64, cls := 1, deadline := 1000, est := 1 } } else { l with fn := 1 } } }

theorem witness_DistributorEvents_waiting :
    (match launchAt waited 1 with
     | some l => decide (gangAt waited 1 0 = none) && l.started == 0 && decide (l.started < l.desc.count) && decide (l.aged < (waited.time - max l.enqAt l.lastAt) / 10000000)
     | none => false) = true
    ∧ leaves (exec (.aging 1 0) waited) (fun t => (launchAt t 1).map (·.aged) == some 1)
    ∧ mayYield yields 0 0 = true ∧ leaves (exec (.gangYield 0 0) yields) (fun t => t.hart.stopReq)
    ∧ placing crowded = true
    ∧ (match candidates (ageAll crowded) with
       | c :: _ => (fitAny (ageAll crowded) noGang c).isNone && decide (1000000 ≤ unplacedFor (ageAll crowded) c)
          && leastInst (instsOf (ageAll crowded) c) (slotsMissing (ageAll crowded) c) 0 && crowded.sched.blocked.isEmpty
       | [] => false) = true
    ∧ leaves (exec (.unplaceableReservation 0) crowded) (fun t => t.sched.blocked == [(1, 0, 0)]) := by decide +kernel

theorem witness_DistributorEvents_victims :
    placing crowded = true
    ∧ (match firstCand crowded with
       | some c => c.l.serial == 1 && critical (ageAll crowded) c.l && (fitAny (ageAll crowded) noGang c).isNone && (fitAny (ageAll crowded) (leaving (ageAll crowded)) c).isNone
          && leastInst (instsOf (ageAll crowded) c) (victimCount (ageAll crowded) c) 0 && (criticalVictims (ageAll crowded) c 0).isSome
          && decide (10000000 ≤ unplacedFor (ageAll crowded) c)
       | none => false) = true
    ∧ leaves (exec (.criticalLaunch 1 0) crowded) (fun t => t.hart.stopReq)
    ∧ leaves (exec (.timeSharePreempt 1 0 0 0) crowded) (fun t => t.hart.stopReq) := by decide +kernel
/-- Functions 1 and 2 share a partition, with a slice of 100 us; both have a launch. -/
def shared_ (turns : List (Nat × Turn)) : State :=
  { pendingL with
    time := 1000000
    hart := { pendingL.hart with who := { pendingL.hart.who with fn := 1 } }
    hub := { pendingL.hub with parts := [(0, 0x0000000100010001)], vfmaps := [(1, 0x8003), (2, 0x8001)] }
    sched := { pendingL.sched with turns := turns, launches := pendingL.sched.launches.map fun l => { l with fn := if l.serial = 1 then 2 else 1 } } }

theorem witness_DistributorEvents_turns :
    partEn (partReg (shared_ []) 0) = true ∧ 2 ≤ (partFns (shared_ []) 0).length ∧ placing (shared_ []) = true
    ∧ turnAt (shared_ []) 0 = none ∧ nextFn (shared_ []) 0 0 = some 1
    ∧ leaves (exec (.worldSwitch 0) (shared_ [])) (fun t => decide (turnAt t 0 = some { fn := 1, left := 3, since := 1000000, into := none }))
    ∧ (0 + partSlice (partReg (shared_ []) 0) * 100000 ≤ (shared_ []).time) ∧ hasWork (shared_ []) 1 = true
    ∧ leaves (exec (.worldSwitch 0) (shared_ [(0, { fn := 1, left := 3, since := 0, into := none })]))
        (fun t => decide (turnAt t 0 = some { fn := 1, left := 2, since := 1000000, into := none }))
    ∧ nextFn (shared_ [(0, { fn := 1, left := 1, since := 0, into := none })]) 0 1 = some 2
    ∧ leaves (exec (.worldSwitch 0) (shared_ [(0, { fn := 1, left := 1, since := 0, into := none })]))
        (fun t => t.hart.stopReq && t.hart.world && decide (turnAt t 0 = some { fn := 1, left := 0, since := 1000000, into := some 2 }))
    ∧ othersRun (shared_ []) 1 0 = false ∧ othersRun (shared_ []) 2 0 = true ∧ fnPart (shared_ []) 1 = some 0 ∧ fnPart (shared_ []) 2 = some 0
    ∧ (gangOn (shared_ []) ((List.range 1024).filter fun k => natBit (partDies (partReg (shared_ []) 0)) (k / 64)) (setupLaunch base)
        { index := 0, status := .placed, inst := 0, placeAt := 0, preAt := 0, aged := 0, stop := false } = true)
    ∧ hasWork (shared_ []) 2 = true ∧ othersRun { shared_ [] with hart := Hart.blank } 2 0 = false
    ∧ leaves (exec (.worldSwitch 0) (shared_ [(0, { fn := 1, left := 1, since := 0, into := some 2 })]))
        (fun t => decide (t = shared_ [(0, { fn := 1, left := 1, since := 0, into := some 2 })]))
    ∧ leaves (exec (.worldSwitch 0) { shared_ [(0, { fn := 1, left := 1, since := 0, into := some 2 })] with hart := Hart.blank })
        (fun t => decide (turnAt t 0 = some { fn := 2, left := 1, since := 1000000, into := none })) := by decide +kernel

/-! ## Steps without an encoding: the fleet (R7, R8, R279, R305, R344, R346, R369 to R376, R393) -/

/-- A reaching host, ports 0 to 4 in states 2, 3, 1, 4 and 2, and CXL up on port 1. -/
def fleet : State :=
  { base with hub := { base.hub with
      cxlUp := 0xFF, podexp := 0x0000000200000001
      ports := [(0, { Port.init with state := 2, lanes := 15 }), (1, { Port.init with state := 3, lanes := 3 }), (2, { Port.init with state := 1 }),
        (3, { Port.init with state := 4 })] } }

/-- A core with 64 residue errors of group 4 in the last hour; a flit that has been replayed seven times; a port that is down. -/
def worn : State := { fleet with cores := [(9, { CoreState.init with residue := List.replicate 64 (4, 0) })] }
def replayed : State := { fleet with hub := { fleet.hub with ports := [(1, { Port.init with state := 3, lanes := 3, replays := 7 })] } }

def peer (pa age : Nat) (page : Bool) (atom : Option PeerAtom) : PeerReq :=
  { pa := pa, size := 4, data := some 0x11223344, atom := atom, rank := 5, page := page, age := age }

theorem witness_FleetEvents_hypotheses :
    (coreAt fleet 0).out = false ∧ 3 ∉ (coreAt fleet 0).failed ∧ 3 ∉ (coreAt fleet 0).pending ∧ gangsOn fleet 0 ≠ [] ∧ gangsOn fleet 9 = []
    ∧ hasStruct 0 2 = true ∧ 64 < ((4, worn.time) :: (coreAt worn 9).residue.filter fun e => decide (worn.time < e.2 + 3600000000000)).countP (·.1 == 4)
    ∧ gangsOn worn 9 = [] ∧ (portAt replayed 1).state = 3 ∧ 7 ≤ (portAt replayed 1).replays ∧ (portAt fleet 0).replays < 7 ∧ (portAt fleet 9).state = 0
    ∧ (coreAt worn 9).out = false ∧ 4 ∉ (coreAt worn 9).failed ∧ 4 ∉ (coreAt worn 9).pending ∧ hasStruct 0 1 = true ∧ (fnAt fleet (ownerFn fleet 0)).evLg = 0
    ∧ (bankAt fleet (bankKey 1 2 3)).retired = false ∧ (portAt fleet 0).state = 2 ∧ (portAt fleet 1).state = 3 ∧ (portAt fleet 2).state = 1 ∧ (portAt fleet 3).state = 4
    ∧ hostReaches fleet 0 ∧ fleet.hub.cxlUp.getLsbD 7 = true
    ∧ (List.range 4).countP (0b1110#4).getLsbD = 3 ∧ (List.range 4).countP (0b0001#4).getLsbD < 2
    ∧ wBits fleet.hub.podexp 0 16 * 2 ^ 30 = 0x40000000 ∧ wBits fleet.hub.podexp 32 16 * 2 ^ 30 = 0x80000000 ∧ memOk fleet ∧ 0x7FFFFFFC / 64 ∉ fleet.poison := by
  decide +kernel

theorem test_fleet :
    leaves (exec (.laneGroupFailure 0 3) fleet) (fun t => (coreAt t 0).pending == [3] && (coreAt t 0).failed.isEmpty && t.hart.stopReq && t.msix.isEmpty)
    && leaves (exec (.laneGroupFailure 9 3) fleet) (fun t => (coreAt t 9).failed == [3] && !(coreAt t 9).degraded && t.msix == [(0, 0)])
    && leaves (exec (.laneGroupFailure 9 4) { fleet with cores := [(9, { CoreState.init with failed := [3] })] }) (fun t => (coreAt t 9).degraded && !(coreAt t 9).out)
    && leaves (exec (.correctedError 0 ⟨1, 0, 0⟩) fleet) (fun t => tabGet 0 t.hub.coloHour 1 == 1)
    && leaves (exec (.correctedError 0 ⟨2, 9, 4⟩) fleet) (fun t => (coreAt t 9).residue == [(4, fleet.time)] && (coreAt t 9).failed.isEmpty)
    && leaves (exec (.correctedError 0 ⟨2, 9, 4⟩) worn) (fun t => (coreAt t 9).failed == [4])
    && leaves (exec (.flitReplay 1) replayed) (fun t => (portAt t 1).state == 1 && (portAt t 1).retrains == 1)
    && leaves (exec (.evictionDataError 0x40000 0) fleet) (fun t => t.poison == [0x1000] && t.msix == [(0, 0)])
    && leaves (exec (.bankRetirement 1 2 3) fleet) (fun t => (bankAt t (bankKey 1 2 3)).retired)
    && leaves (exec (.flitReplay 1) fleet) (fun t => (portAt t 1).replays == 1)
    && leaves (exec (.linkDown 0) fleet) (fun t => (portAt t 0).state == 1 && (portAt t 0).retrains == 1 && (portAt t 0).lanes == 0)
    && leaves (exec (.linkTrainingEnd 2 15) fleet) (fun t => (portAt t 2).state == 2) && leaves (exec (.linkTrainingEnd 2 0b1110) fleet) (fun t => (portAt t 2).state == 3)
    && leaves (exec (.linkTrainingEnd 2 1) fleet) (fun t => (portAt t 2).state == 4) && leaves (exec (.linkTrainRequest 3) fleet) (fun t => (portAt t 3).state == 1)
    && leaves (exec (.cxlLinkLoss 7) fleet) (fun t => t.hub.cxlUp == 0)
    && leaves (exec (.peerAccess (peer 0x40000000 190 true none)) fleet) (fun t => decide (t = fleet))
    && leaves (exec (.peerAccess (peer 0x3FFFFFFC 0 true none)) fleet) (fun t => t.hub.violHead == 1)
    && leaves (exec (.peerAccess (peer 0x80000000 0 true none)) fleet) (fun t => t.hub.violHead == 1)
    && leaves (exec (.peerAccess (peer 0x7FFFFFFC 0 false none)) fleet) (fun t => t.hub.viol.map (fun v => (v.src, v.kind)) == [(261, 4)])
    && leaves (exec (.peerAccess (peer 0x7FFFFFFC 0 true none)) fleet) (fun t => readPaNat t 0x7FFFFFFC 4 == 0x11223344 && t.hub.violHead == 0)
    = true := by decide +kernel
/-! ## Steps without an encoding: the host's registers and requests (R303 to R308, R323, R324, R333 to R358) -/

/-- Queue 3 is enabled and function 0's; the aperture is open. -/
def hosted : State :=
  { fleet with hub := { fleet.hub with bar2win := 1, queues := [(3, { QueueRegs.init with cfg := 0x8001 })] } }
/-- No launch is pending. -/
def quiet : State := { hosted with sched := { hosted.sched with launches := [] } }

theorem witness_HostRegisters :
    hubOk hosted ∧ hostReaches hosted 0 ∧ hostReaches hosted 1 ∧ barReg 0x7 = none ∧ barReg 0x300 = some .podexp ∧ barVisible hosted 1 .podexp = false
    ∧ barReg 0 = some .hubstat ∧ barVisible hosted 0 .hubstat = true ∧ barReadOnly 0 .hubstat = true ∧ qFunc (queueAt hosted 3) = 0
    ∧ fnLaunches hosted 1 = false ∧ fnPrograms hosted 1 = false ∧ asidUsed hosted 1 0 = true ∧ asidUsed hosted 1 7 = false
    ∧ hubOk quiet ∧ hostReaches quiet 0 ∧ (∀ g, g ≤ 64 → fnLaunches quiet g = false) ∧ (vfmapReg hosted 1).getLsbD 15 = false
    ∧ fleet.hub.bar2win.getLsbD 0 = false ∧ hosted.hub.bar2win.getLsbD 0 = true
    ∧ bar2Bytes (bytesAt hosted 0x40000 [1, 2]) (bar2Va hosted 0x40000) 2 = .ok (([1, 2] : List Byte).map some)
    ∧ ok (storeBlock hosted (fnPath hosted 0) (bar2Va hosted 0x40000) [9]) = true ∧ breaksRule hosted 0 1 0x7 = true ∧ breaksRule hosted 0 2 0 = true := by
  decide +kernel

theorem test_host_registers :
    leaves (exec (.registerWrite 0 0x7 1) hosted) (fun t => t.hub.viol.map (fun v => (v.src, v.kind, v.addr)) == [(0, 1, 7)])
    && leaves (exec (.registerWrite 0 0 1) hosted) (fun t => t.hub.viol.map (·.kind) == [2])
    && leaves (exec (.registerWrite 0 0x300 0xFFFFFFFFFFFFFFFF) hosted) (fun t => t.hub.podexp == 0x0000FFFF0000FFFF)
    && leaves (exec (.registerWrite 0 0x100C0 0x1234500) hosted) (fun t => (queueAt t 3).cfg == 0x34501)
    && leaves (exec (.mbpost 0 3 0x2000) hosted) (fun t => (queueAt t 3).posts == [0x2000]) && leaves (exec (.mbpost 0 3 0x2001) hosted) (fun t => (queueAt t 3).drop)
    && leaves (exec (.mbpost 0 4 0x2000) hosted) (fun t => (queueAt t 4).drop && (queueAt t 4).posts.isEmpty)
    && leaves (exec (.fnownWrite 1 0xFFFF) hosted) (fun t => (fnAt t 1).own == 0x3FF) && leaves (exec (.fnrootWrite 1 0x0070000000010841) hosted) (fun t => (fnAt t 1).root == 0x0070000000010801)
    && leaves (exec (.fnrootWrite 1 0x0000000000010801) hosted) (fun t => (fnAt t 1).root == 0x10800)
    && leaves (exec (.partWrite 2 0x50001F) quiet) (fun t => partReg t 2 == 0x00000001_0000001F) && leaves (exec (.partWrite 2 0x500010003) quiet) (fun t => partReg t 2 == 0x500010003)
    && leaves (exec (.vfmapWrite 1 0xFFFF00) hosted) (fun t => vfmapReg t 1 == 0x8F01)
    && leaves (exec (.bar2Read 0x40000 2) (bytesAt hosted 0x40000 [1, 2])) (fun t => t.hostData == [1, 2] && !t.hostEp)
    && leaves (exec (.bar2Read 0x40000 2) fleet) (fun t => t.hostData == [0xFF, 0xFF] && t.hub.viol.map (·.kind) == [5])
    && leaves (exec (.bar2Write 0x40000 [9]) hosted) (fun t => readPaNat t 0x40000 1 == 9)
    && leaves (exec (.hostAccessViolation 0 2 0) hosted) (fun t => t.hub.violHead == 1) = true := by decide +kernel

/-- OP 1 or 2, session 5, quad 2 of die 1, two banks from 10. -/
def sessWord (op : Nat) : Word := BitVec.ofNat 64 (5 + op * 2 ^ 25 + 2 * 2 ^ 27 + 1 * 2 ^ 31 + 10 * 2 ^ 35 + 2 * 2 ^ 41)
def pinning : State := { hosted with hub := { hosted.hub with sessRes := 1, sessReq := sessWord 1 } }
def pinned : State := { hosted with banks := [(bankKey 1 2 10, { Bank.init with mode := .scratch, session := some 5 })] }
def changing : State := { hosted with banks := [(bankKey 1 2 10, { Bank.init with changing := some .fifo })] }
def posted : State := { hosted with hub := { hosted.hub with queues := [(3, { QueueRegs.init with cfg := 0x8001, posts := [0x2000, 0x3000] })] } }
def invalidating : State := { hosted with hub := { hosted.hub with tlbRes := 1 }, tlb := [{ place := .core 0, asid := 0, vpn := 0, size := 36, leaf := 0xF }] }
def resetting : State := { hosted with hub := { hosted.hub with fns := tabSet FnRegs.init hosted.hub.fns 1 { FnRegs.init with reset := true, errLg := 9, own := 4 } } }

theorem witness_HostRequests :
    hubOk hosted ∧ hostReaches hosted 0 ∧ banksOk hosted ∧ memOk hosted ∧ hosted.hub.sessRes ≠ 1 ∧ wBits (sessWord 1) 49 15 = 0 ∧ wBits (sessWord 1) 12 13 = 0
    ∧ sessOp (sessWord 1) = 1 ∧ pinOk hosted (sessWord 1) = true ∧ pinOk pinned (sessWord 1) = false ∧ hubOk pinned ∧ hostReaches pinned 0 ∧ banksOk pinned
    ∧ wBits (sessWord 2) 49 15 = 0 ∧ wBits (sessWord 2) 12 13 = 0 ∧ sessOp (sessWord 2) = 2 ∧ releaseOk pinned (sessWord 2) = true
    ∧ hubOk pinning ∧ pinning.hub.sessRes = 1 ∧ sessOp pinning.hub.sessReq = 1 := by decide +kernel
theorem witness_HostRequests_banks :
    hubOk changing ∧ (bankAt hosted (bankKey 1 2 10)).session = none ∧ (bankAt hosted (bankKey 1 2 10)).retired = false ∧ (bankAt hosted (bankKey 1 2 10)).changing = none
    ∧ (bankAt changing (bankKey 1 2 10)).changing = some .fifo ∧ pinPending changing (bankKey 1 2 10) = false ∧ bankPending changing (bankKey 1 2 10) = false ∧ banksOk changing
    ∧ hosted.hub.tlbRes ≠ 1 ∧ wBits 0x0008000000000000 50 2 = 2 ∧ wBits 0x0004000000000000 50 2 = 1 ∧ invalidating.hub.tlbRes = 1
    ∧ (∀ h ∈ allHarts invalidating, h.status ≠ .waiting .remote) := by decide +kernel
theorem witness_HostRequests_programs :
    hubOk posted ∧ (queueAt posted 3).posts = [0x2000, 0x3000] ∧ queueBusy posted 3 = false ∧ posted.hub.snap = 0 ∧ (fnAt posted (qFunc (queueAt posted 3))).reset = false
    ∧ hostUp hosted = true ∧ hubOk resetting ∧ (fnAt resetting 1).reset = true ∧ fnLaunches resetting 1 = false ∧ (∀ h ∈ allHarts resetting, h.who.dispatch = false) := by
  decide +kernel
theorem witness_HostRequests_migration :
    hubOk hosted ∧ (rootOf hosted 0).bind (fun r => entryFrom hosted 0x40000 walkLevels r) = some (setupTable, 36)
    ∧ hosted.migs.find? (fun x => x.1 == 0 && x.2.1 == 0) = none ∧ (0xF#64).getLsbD 0 = true ∧ BitVec.ofNat 64 (readPaNat hosted setupTable 8) = 0xF#64
    ∧ leafOk hosted 0xF 36 = true ∧ leafOk hosted (withFrame 0xF (2 ^ 36)) 36 = true ∧ leafFrame 0xF ≠ leafFrame (withFrame 0xF (2 ^ 36)) ∧ 2 ^ 36 % 65536 = 0 := by decide +kernel

theorem test_host_requests :
    leaves (exec (.sessionPin (sessWord 1)) hosted) (fun t => t.hub.sessRes == 1 && decide ((bankAt t (bankKey 1 2 11)).changing = some .scratch))
    && leaves (exec .sessionRequestDone pinning) (fun t => t.hub.sessRes == 0 && (bankAt t (bankKey 1 2 10)).session == some 5 && (bankAt t (bankKey 1 2 12)).session == none)
    && leaves (exec (.sessionPin (sessWord 1)) pinned) (fun t => t.hub.sessRes == 2) && leaves (exec (.sessionRelease (sessWord 2)) pinned) (fun t => t.hub.sessRes == 1 && (bankAt t (bankKey 1 2 10)).session == none)
    && leaves (exec (.bankModeChange 1 2 10 .fifo) hosted) (fun t => decide ((bankAt t (bankKey 1 2 10)).changing = some .fifo))
    && leaves (exec (.bankModeChangeDone 1 2 10) changing) (fun t => decide ((bankAt t (bankKey 1 2 10)).mode = .fifo))
    && leaves (exec (.tlbinvPage 0x0003000000000000) { invalidating with hub := hosted.hub }) (fun t => t.tlb.isEmpty && t.hub.tlbRes == 1)
    && leaves (exec (.tlbinvAsid 0x0014000000000000) { invalidating with hub := hosted.hub }) (fun t => t.tlb.length == 1)
    && leaves (exec (.tlbinvAll 0x0008000000000000) { invalidating with hub := hosted.hub }) (fun t => t.tlb.isEmpty)
    && leaves (exec .tlbinvDone invalidating) (fun t => t.hub.tlbRes == 0) = true := by decide +kernel
theorem test_host_programs :
    leaves (exec (.dispatchProgramStart 3) posted) (fun t => (queueAt t 3).posts == [0x3000] && t.others.map (fun h => (h.pc, h.who.dispatch)) == [(0x2000, true)])
    && leaves (exec (.functionLevelReset 1) hosted) (fun t => (fnAt t 1).reset && !(fnAt t 2).reset)
    && leaves (exec (.functionResetComplete 1) resetting) (fun t => decide (fnAt t 1 = { FnRegs.init with own := 4 })) = true := by decide +kernel
theorem test_page_migration :
    leaves (exec (.pageMigration 0 0x40000 0) hosted) (fun t => readPaNat t setupTable 8 == 0xE && t.migs == [(0, 0, 0xF)])
    && leaves (exec (.pageMigration 0 0x40000 (2 ^ 36)) (withHub (after (.pageMigration 0 0x40000 0) (bytesAt hosted 0x40000 [7])) fun h => { h with tlbRes := 0 }))
        (fun t => readPaNat t (2 ^ 36 + 0x40000) 1 == 7 && t.migs.isEmpty) = true := by decide +kernel
/-! ## Steps without an encoding: power, firmware, attestation, bring-up (R325, R371, R373, R377 to R384) -/

def withSec' (s : State) (f : Security → Security) : State := withHub s fun h => { h with sec := f h.sec }

/-- Frozen, and about to be, with nothing placed. -/
def frozen : State := withHub hosted fun h => { h with snap := 2 }
def freezing : State := { withHub quiet fun h => { h with snap := 1 } with hart := Hart.blank }
/-- Requests of firmware and attestation under way; no image in the staging area is any good. -/
def verifying : State := withSec' hosted fun c => { c with fwRes := 1, fwOp := 1 }
def raising : State := withSec' hosted fun c => { c with fwRes := 1, fwOp := 2, booted := some 0 }
def attesting : State := withSec' hosted fun c => { c with attRes := 1 }
/-- A hot die, and steps of the bring-up. -/
def hot : State := { hosted with time := 1000000, dies := [(0, { DieState.init with temp := 106, hot := true, above := some 0 })] }
/-- The Dusk-queue work that flushes the colophon runs. -/
def flushing : State :=
  let s := withHub hosted fun h => { h with colo := [(3, 4)], coloHour := [(1, 2)] }
  { s with sched := { s.sched with dusk := [{ num := 0, kind := .flush, shape := 0, places := [(0, 0)] }] } }
def bringUp (n : Nat) : State := withHub State.reset fun h => { h with step := n }

theorem witness_ModuleRequests_freeze :
    hostReaches hosted 0 ∧ hosted.hub.snap = 0 ∧ frozen.hub.snap = 2 ∧ hostReaches frozen 0 ∧ freezing.hub.snap = 1 ∧ hostReaches freezing 0 ∧ placedGangs freezing = []
    ∧ (∀ p ∈ freezing.banks, p.2.changing = none) ∧ (∀ h ∈ allHarts freezing, h.who.dispatch = true → h.status ≠ .waiting .remote) := by decide +kernel
theorem witness_ModuleRequests_security :
    hostUp hosted = true ∧ (fnAt hosted 0).reset = false ∧ hosted.hub.sec.fwRes ≠ 1 ∧ verifying.hub.sec.fwRes = 1 ∧ verifying.hub.sec.fwOp = 1
    ∧ raising.hub.sec.fwRes = 1 ∧ raising.hub.sec.fwOp = 2 ∧ raising.hub.sec.booted = some 0 ∧ raising.hub.sec.rollback < 64 ∧ imageVersion (raising.hub.sec.slots.get 0) ≤ 64
    ∧ hosted.hub.sec.attRes ≠ 1 ∧ attesting.hub.sec.attRes = 1 := by decide +kernel
theorem witness_ModuleRequests_power :
    (9000#64).getLsbD 16 = false ∧ 3000 ≤ hosted.hub.pwrCap ∧ hosted.hub.pwrCap ≤ 12000 ∧ hubOk hosted ∧ hosted.hub.pwrCap < 13000 ∧ (dieAt hot 0).tripped = false ∧ (dieAt hot 0).above = some 0 ∧ 0 + 1000000 ≤ hot.time
    ∧ (bringUp 0).hub.step = 0 ∧ (bringUp 0).hub.sec.booted = none ∧ (bringUp 0).hub.sec.failed = false ∧ (bringUp 3).hub.step = 3
    ∧ (List.range 8).countP (0x0F#8).getLsbD ∈ [1, 2, 4, 8] ∧ 2 ^ 41 ≤ (List.range 8).countP (0x0F#8).getLsbD * 2 ^ 41 := by decide +kernel
/-- An image without the magic is refused, and one of the right shape accepted where the signature check accepts it. -/
theorem witness_ModuleRequests_images :
    imageOk verifying (stagedImage verifying) = false ∧ imageOk State.reset [] = false
    ∧ (Config.fwSignatureOk resetImage = true → imageOk State.reset resetImage = true ∧ imageOk (bringUp 0) (bringUp 0).hub.sec.slots[0] = true) := by
  have a : imageShape (stagedImage verifying) = false := by decide +kernel
  have b : imageShape [] = false := by decide +kernel
  have c : imageShape resetImage = true := by decide +kernel
  have d : (bringUp 0).hub.sec.slots[0] = resetImage := by decide +kernel
  refine ⟨by simp [imageOk, a], by simp [imageOk, b], fun h => ⟨?_, ?_⟩⟩
  · simp only [imageOk, h, c]; decide +kernel
  · rw [d]; simp only [imageOk, h, c]; decide +kernel

theorem test_module_requests :
    leaves (exec .freeze hosted) (fun t => t.hub.snap == 1 && t.hart.stopReq) && leaves (exec .thaw frozen) (fun t => t.hub.snap == 3)
    && leaves (exec .thaw freezing) (fun t => t.hub.snap == 1 && t.hub.thawPend) && leaves (exec .freezeComplete freezing) (fun t => t.hub.snap == 2)
    && leaves (exec .fwVerifyStaged hosted) (fun t => t.hub.sec.fwRes == 1 && t.hub.sec.fwOp == 1) && leaves (exec .fwRaiseRollback hosted) (fun t => t.hub.sec.fwOp == 2)
    && leaves (exec .fwOperationDone raising) (fun t => t.hub.sec.fwRes == 0 && t.hub.sec.rollback == 0)
    && leaves (exec .attestationRequest hosted) (fun t => t.hub.sec.attRes == 1) && leaves (exec .attestationDone attesting) (fun t => t.hub.sec.attRes == 0)
    && leaves (exec (.powerCap 2000) hosted) (fun t => t.hub.pwrCap == 3000) && leaves (exec (.powerCap 9000) hosted) (fun t => t.hub.pwrCap == 9000)
    && leaves (exec .powerOff hosted) (fun t => t.hub.offPend && t.hub.snap == 1)
    && leaves (exec (.powerThrottle 13000) hosted) (fun t => t.hub.watts == 13000 && aclkOf t 15 == 17)
    && leaves (exec (.thermalThrottle 2 96) hosted) (fun t => aclkOf t 2 == 17 && aclkOf t 1 == 18)
    && leaves (exec (.thermalTrip 0) hot) (fun t => (dieAt t 0).tripped) = true := by decide +kernel
theorem test_bring_up :
    leaves (exec .moduleReset hosted) (fun t => decide (t.hart = Hart.blank) && t.mem.isEmpty && !t.hub.ready) && leaves (exec .powerLoss hosted) (fun t => !t.power)
    && leaves (exec .pcieLinkTrained (bringUp 1)) (fun t => t.hub.step == 2) && leaves (exec .hbmTrained (bringUp 2)) (fun t => t.hub.step == 3)
    && leaves (exec (.cxlEnumerated 0x0F (2 ^ 41)) (bringUp 3)) (fun t => t.hub.step == 4 && t.hub.cxlUp == 0x0F) && leaves (exec .diesReleased (bringUp 4)) (fun t => t.hub.ready)
    && leaves (exec .colophonFlush flushing) (fun t => t.hub.coloNv == [(3, 4)] && t.hub.hourNv == [(1, 2)] && t.sched.dusk.isEmpty)
    && leaves (exec .colophonHour (withHub hosted fun h => { h with coloHour := [(1, 9)], hourSecs := 3605 })) (fun t => t.hub.hourSecs == 5 && t.hub.coloHour.isEmpty && t.hub.colo.length != 0) = true := by decide +kernel
theorem test_coll_timeout_and_band :
    leaves (exec (.collTimeout 1 (cmdId collecting)) { collecting with time := 10000000 }) (fun t => t.hart.eng.cmds.isEmpty && (rc t 2).poison && (rc t 2).count == 0)
    && leaves (exec (.encfBandRead 1 (cmdId encoding_)) encoding_) (fun t => t.hart.eng.cmds.map (·.units) == [1]) = true := by decide +kernel

/-! ## Stores that are held back (R267) -/

/-- Both streams hold their stores back. -/
def holding (s : State) : State := hartWith s fun h => { h with weak := { h.weak with holdS := true, holdV := true } }
/-- A store of X2 to 0x40008 is held back. -/
def heldS : State := match exec (.std 2 1 1) (holding loads) with | .next t => t | _ => loads

/-- A held-back store shows to its own stream only; another place performs it. -/
theorem test_held_store :
    readPaNat heldS 0x40008 8 == 0 && heldS.hart.weak.postS.length == 1 && x3All heldS [(.ldd 3 1 1, 0x1122334455667788)]
    && leaves (exec (.ldd 3 1 1) heldS) (fun t => readPaNat t 0x40008 8 == 0x1122334455667788 && t.hart.weak.postS.isEmpty) = true := by decide +kernel

/-- A bank of 32,768 entries. -/
def fifoFull : State :=
  { bankedRegs with banks := [(1, { Bank.init with mode := .fifo, holder := some (0, 0), fifo := List.replicate 32768 0 })] }
/-- A bank in FIFO mode without an entry. -/
def fifoNone : State := { bankedRegs with banks := [(1, { Bank.init with mode := .fifo, holder := some (0, 0) })] }

theorem witness_ScalarLoads_weak :
    loads.hart.weak.postS = [] ∧ heldS.hart.weak.postS ≠ [] ∧ loads.hart.strike = none ∧ (∀ key, Loc.pa 0x40000 0xF 36 ≠ .fifo key)
    ∧ locate fifoNone (fifoNone.hart.path fifoNone) fifoVa.toNat .load = .ok (.fifo 1) ∧ (bankAt fifoNone 1).fifo = [] ∧ fenced fifoNone clsS = false :=
  by and_intros <;> first | decide +kernel | exact fun _ h => Loc.noConfusion h

theorem witness_ScalarStores_weak :
    loads.hart.weak.holdS = false ∧ (holding loads).hart.weak.holdS = true ∧ postable (holding loads) (.pa 0x40000 0xF 36) = true
    ∧ postable (holding { loads with poison := [0x40000 / 64] }) (.pa 0x40000 0xF 36) = false ∧ memOk (holding loads) ∧ banksOk (holding loads)
    ∧ locate fifoFull (fifoFull.hart.path fifoFull) fifoVa.toNat .store = .ok (.fifo 1) := by decide +kernel
theorem witness_ScalarStores_full : 32768 ≤ (bankAt fifoFull 1).fifo.length := Nat.le_of_eq (List.length_replicate ..).symm

/-- A SCRATCHZ bank with 64 nonzero tiles; whether a further one has room depends on its contents alone. -/
def tiles64 : List Host.Cell := (List.range 64).map fun j => (4096 * j, 1)
def scratchz : State := regs { loads with banks := [(0, { Bank.init with mode := .scratchz, holder := some (0, 0), data := tiles64 })] } [(1, 0x00FE010000040000)]

/-- A device page at 2^36, which is hub device space. -/
theorem witness_ScalarAccessFaults_more :
    badAddrs.hart.strike = none ∧ banksOk bankedRegs ∧ memOk bankedRegs ∧ bankedRegs.hart.strike = none
    ∧ locate scratchz (scratchz.hart.path scratchz) 0x00FE010000040000 .store = .ok (.bank 0 0x40000)
    ∧ (Config.scratchzFull (cellsPut (bankAt scratchz 0).data 0x40000 (toStore scratchz 0x00FE010000040000 8 (rx scratchz 2).toNat)) = true →
        ¬takesStore scratchz (.bank 0 0x40000) (toStore scratchz 0x00FE010000040000 8 (rx scratchz 2).toNat)) := by
  and_intros
  all_goals try decide +kernel
  intro h k
  have m : (bankAt scratchz 0).mode = .scratchz := by decide +kernel
  have n : ¬tilesUsed none (cellsPut (bankAt scratchz 0).data 0x40000 (toStore scratchz 0x00FE010000040000 8 (rx scratchz 2).toNat)) ≤ 64 := by
    decide +kernel
  rcases k m with k | k
  · exact n k
  · exact absurd (h.symm.trans k) (by decide)

/-- Beside the pages of `s`, a device page at 2^36, which is hub device space, and a page of a remote module at 2^37. -/
def pages (s : State) : State := dwordAt (dwordAt s (setupTable + 8) (2 ^ 47 + 0x17)) (setupTable + 16) (2 ^ 53 + 0xF)
def devAt : State := regs (pages loads) [(1, 0x1000000000)]

theorem witness_ScalarAccessFaults_device :
    locate devAt (devAt.hart.path devAt) 0x1000000000 .load = .ok (.pa (2 ^ 45) (BitVec.ofNat 64 (2 ^ 47 + 0x17)) 36)
    ∧ leafDev (BitVec.ofNat 64 (2 ^ 47 + 0x17)) = true ∧ banksOk devAt ∧ memOk devAt ∧ fenced devAt clsS = false ∧ devAt.hart.who.dispatch = false
    ∧ stopsWith (exec (.ldc 3 1 0) devAt) 0x40 0x1000000000 = true
    ∧ stopsWith (exec (.ldw 3 4 0) bankedRegs) 0x4C fifoVa = true ∧ stopsWith (exec (.stw 2 5 0) badAddrs) 0x45 0x40001 = true
    ∧ stopsWith (exec (.stw 2 4 0) badAddrs) 0x41 0x00FD000000000000 = true ∧ stopsWith (exec (.ldw 3 1 0) badAddrs) 0xE0 0x40000 = true := by
  decide +kernel

/-! ## System registers: what is in a queue, a dispatch hart, a blind counter -/

/-- A dispatch hart. -/
def dispatching (s : State) : State := hartWith s fun h => { h with who := { h.who with dispatch := true, queue := 4 } }

theorem witness_CsrReads :
    base.hart.who.dispatch = false ∧ (dispatching base).hart.who.dispatch = true ∧ (base.hart.mat.mq = [] ∧ base.hart.mat.fetches = [])
    ∧ (queued1 mats (.mzero 15)).hart.mat.mq ≠ [] ∧ fetched.hart.mat.fetches ≠ []
    ∧ x3All base [(.csrr 3 0x023, 128 + 128 * 256 + 128 * 65536), (.csrr 3 0x026, 1 + 2 ^ 32 + 2 ^ 48), (.csrr 3 0x027, 0)]
    ∧ leaves (exec (.csrr 3 0x003) (queued1 mats (.mzero 15))) (fun t => decide (t.hart.status = .waiting .drain))
    ∧ x3All (dispatching base) [(.csrr 3 0x025, 0), (.csrr 3 0x026, 0), (.csrr 3 0x027, 4)] = true := by decide +kernel

/-- Counter 0 counts link transmissions in the context of function 1; counter 1 retired instructions. -/
def counters : State := hartWith (regs base [(1, 0x123456789ABC)]) fun h =>
  { h with who := { h.who with fn := 1 }, evsel := (h.evsel.set 0 0x40000030).set 1 0x40000002 }

theorem witness_CsrWrites_events :
    csrWriteOk false 0x080#12 = true ∧ evBlind counters.hart 0 = true ∧ evBlind counters.hart 1 = false ∧ evCounts counters.hart 2 1 = true
    ∧ leaves (exec (.csrw 1 0x080) counters) (fun t => t.hart.ev.get 0 == 0 && t.hart.ev.get 1 == 0)
    ∧ leaves (exec (.csrw 1 0x081) counters) (fun t => t.hart.ev.get 1 == 0x123456789ABC)
    ∧ leaves (exec (.csrw 1 0x003) (queued1 mats (.mzero 15))) (fun t => decide (t.hart.status = .waiting .drain))
    ∧ csrAssigned 0x028#12 = true ∧ leaves (exec (.csrr 3 0x001) (dispatching ints)) (fun t => (queueAt t 4).err && (queueAt t 4).cause == 0x02)
    ∧ stopsWith (exec (.csrw 1 0x001) ints) 0x02 ((wordOf (.csrw 1 0x001)).setWidth 64) = true := by decide +kernel

/-- Counters 3 and 5 are poisoned, 5 first. -/
def poisonedTwice : State := wc (wc ints 3 { Counter.zero with poison := true, first := 0x700, entry := 9 }) 5 { Counter.zero with poison := true, first := 0x740, entry := 4 }

theorem witness_ControlInstructions_poison :
    poisonedTwice.hart.eng.errPend = none ∧ (rc poisonedTwice 5).poison = true
    ∧ (∀ j, j < 16 → (rc poisonedTwice j).poison = true → (rc poisonedTwice 5).entry < (rc poisonedTwice j).entry ∨ ((rc poisonedTwice 5).entry = (rc poisonedTwice j).entry ∧ 5 ≤ j))
    ∧ stopsWith (exec .halt poisonedTwice) 0xA0 0x740 = true ∧ poisonedTwice.hart.mat.mq = [] ∧ ints.hart.weak.postS = [] ∧ ints.hart.weak.postV = []
    ∧ heldS.hart.weak.postS ≠ [] ∧ leaves (exec .halt heldS) (fun t => readPaNat t 0x40008 8 == 0x1122334455667788 && decide (t.hart.status = .ended)) = true
    ∧ leaves (exec .cfence heldS) (fun t => readPaNat t 0x40008 8 == 0x1122334455667788) = true := by decide +kernel

/-! ## Vectors: a stage guard that is off, VSTART past the end -/

def stagedOff : State := hartWith vint fun h => { h with vec := { h.vec with vmode := makeVmode 0x00180003 } }
/-- Matrix mode with every slot claimed. -/
def stagedClaimed : State := hartWith stagedOff fun h => { h with mat := { h.mat with mvl := 0x0000020010100010, claimed := List.range 512 } }

theorem witness_ElementwiseResults_off :
    stageOff stagedClaimed = true ∧ modeIll stagedClaimed.hart.vec.vmode = false ∧ modeTy stagedClaimed.hart.vec.vmode = some (.int true 32)
    ∧ (match elemSpec stagedClaimed (.int true 32) (.vadd 3 1 2) with
       | some (_, ops, _) => ops.all fun o => winFits stagedClaimed o.win && !badWidth o && o.shape
       | none => false) = true
    ∧ leaves (exec (.vadd 3 1 2) stagedClaimed) (fun t => t.hart.pc == 0x10004 && t.hart.vec.galley == vint.hart.vec.galley) = true := by decide +kernel

/-- A pair instruction, and a compare, from a VSTART past their ends. -/
def pairsPast : State := hartWith vpairs fun h => { h with vec := { h.vec with vstart := 5 } }
theorem witness_past_the_end :
    (pairReady pairsPast (.spadd 5 1 2) true = true ∧ 0 < pairsPast.hart.vec.vstart)
    ∧ (match pairSpec pairsPast (.int true 32) (.spadd 5 1 2) with | some (_, _, out, _) => decide (out.length ≤ pairsPast.hart.vec.vstart) | none => false) = true
    ∧ leaves (exec (.spadd 5 1 2) pairsPast) (fun t => wClen (rw t 5) == 3 && t.hart.vec.vstart == 0 && t.hart.vec.galley == vpairs.hart.vec.galley) = true
    ∧ (let s := hartWith vint fun h => { h with vec := { h.vec with vstart := 4, m := h.vec.m.set 5 0xFF } }
       leaves (exec (.vcmpeq 5 1 1) s) (fun t => rm t 5 == 0x0F && t.hart.vec.vstart == 0)) = true := by decide +kernel

/-- One instruction of every major that depends on VMODE, beside 0x20. -/
theorem witness_IllegalModeTraps_majors :
    [Instr.vcmpeq 3 1 2, .vmov 3 1, .vcvt 3 1 0x03, .vredsum 3 1 2, .vperm 3 1 2, .vexp2 3 1, .spadd 3 1 2, .setvl 3 1, .mpopvl 3 1, .mzero 1, .mfetch 1 2 0 0 7 0,
      .mfetchD 4 2 0 0 7 0, .mfetchPg 1 2 0 0 7 0, .mfetchPgD 4 2 0 0 7 0, .mfetchSh 1 2 0 0 7 0, .mfetchShD 1 2 0 0 7 0, .ldt 1 0 0 3, .ldv 1 3, .lds 1 2 3, .gath 3 4 1,
      .glink 3 4 1, .strm 1 2 0 0 3, .strmxUnbind 3, .gld 2 1 2].all (fun i =>
      stopsWith (exec i vill) 0x04 ((wordOf i).setWidth 64) && (encode i == some (wordOf i))) = true := by decide +kernel

/-- A record of a GRID at 0x60080, one of nothing at 0x600C0; X6 and X7 lead to them, X8 to nothing, X9 to a FIFO port, X10 to where no HST goes. -/
def handleRecs : State :=
  let s := bytesAt handles8 0x60080 (gridH.dw.toList.flatMap fun w => bytesOfNat 8 w.toNat)
  regs { s with banks := [(1, { Bank.init with mode := .fifo, holder := some (0, 0) })] }
    [(6, 0x60080), (7, 0x600C0), (8, 0x00FD000000000000), (9, fifoVa), (10, 0x60001)]
/-- A GRID whose level table is not there, or whose level is no good. -/
def gridLost : State := wh handleRecs 2 (handle [0, 0xA0000, 0x00FD000000000000, 2, 0, 0, 0, 0])
def gridBadLevel : State := dwordAt handleRecs 0x80000 0

theorem witness_HandleInstructions_more :
    loadWords handleRecs (handleRecs.hart.path handleRecs) 0x60080 8 = .ok gridH.dw.toList ∧ (handleOf gridH.dw.toList).kind = kindGrid
    ∧ gridOk (handleOf gridH.dw.toList) = true ∧ loadWords handleRecs (handleRecs.hart.path handleRecs) 0x600C0 8 = .ok (List.replicate 8 0)
    ∧ (handleOf (List.replicate 8 0)).kind ≠ kindGrid ∧ tensorOk (handleOf (List.replicate 8 0)) = false
    ∧ loadWords handleRecs (handleRecs.hart.path handleRecs) 0x00FD000000000000 8 = .trap 0x40 0x00FD000000000000
    ∧ ((rh gridLost 2).put 0 (rx gridLost 4)).kind = kindGrid ∧ gridOk ((rh gridLost 2).put 0 (rx gridLost 4)) = true
    ∧ loadWords gridLost (gridLost.hart.path gridLost) 0x00FD000000000000 1 = .trap 0x40 0x00FD000000000000
    ∧ loadWords gridBadLevel (gridBadLevel.hart.path gridBadLevel) gridH.lvt gridH.gridL = .ok [0] ∧ [(0 : Word)].all levelOk = false
    ∧ gridOk ((rh handles8 2).put 0 0x2000000000000001) = false ∧ ((rh handles8 2).put 0 0x2000000000000001).kind = kindGrid
    ∧ banksOk handleRecs ∧ memOk handleRecs ∧ handleRecs.hart.who.dispatch = false := by decide +kernel

theorem witness_HandleInstructions_hst :
    scalarWrites handleRecs 0x60000 (.pa 0x60000 0xF 36) (lineBytes handleRecs (identSpace handleRecs handleRecs.hart.who).asid 0x60000 (rh handleRecs 1).dw.toList)
    ∧ locate handleRecs (handleRecs.hart.path handleRecs) 0x00FD000000000000 .store = .trap 0x41 0x00FD000000000000
    ∧ locate handleRecs (handleRecs.hart.path handleRecs) fifoVa.toNat .store = .ok (.fifo 1) ∧ postable (holding handleRecs) (.pa 0x60000 0xF 36) = true :=
  by and_intros <;> first | decide +kernel | trivial

theorem test_handles_fail :
    stopsWith (exec (.hld 7 7) handleRecs) 0x46 ((wordOf (.hld 7 7)).setWidth 64) && stopsWith (exec (.hld 7 8) handleRecs) 0x40 0x00FD000000000000
    && leaves (exec (.hld 7 6) handleRecs) (fun t => (rh t 7).levels == [0x0000000A00000004] && (rh t 7).valid)
    && stopsWith (exec (.hset 2 0 4) gridBadLevel) 0x46 ((wordOf (.hset 2 0 4)).setWidth 64) && stopsWith (exec (.hset 2 0 4) gridLost) 0x40 0x00FD000000000000
    && stopsWith (exec (.hst 1 9) handleRecs) 0x4C fifoVa && stopsWith (exec (.hst 1 10) handleRecs) 0x45 0x60001
    && leaves (exec (.hst 1 1) (holding (regs handleRecs [(1, 0x61000)]))) (fun t => readPaNat t 0x61000 64 == 0 && t.hart.weak.postS.length == 1) = true := by
  decide +kernel

/-! ## The vector stream's view and its stores that are held back (R267, R269, log 117, log 118) -/

/-- Memory and banks as they are in `s`, for a view. -/
def earlier (s : State) : View := { mem := s.mem, poison := s.poison, banks := s.banks.map fun b => (b.1, b.2.data), taint := 0, seen := [] }
/-- The vector stream still reads memory as it was before a store of the scalar stream to 0x40000. -/
def viewing : State :=
  hartWith (bytesAt vmem 0x40000 (rowBytes [90])) fun h => { h with weak := { h.weak with viewV := some (earlier vmem) } }
/-- X1 depends on a later load of the scalar stream. -/
def viewStale : State := hartWith viewing fun h => { h with weak := { h.weak with viewV := h.weak.viewV.map fun v => { v with taint := 2 } } }
/-- The same bytes have been read from the view 255 times. -/
def viewWorn : State := hartWith viewing fun h => { h with weak := { h.weak with viewV := h.weak.viewV.map fun v => { v with seen := [(0x40000 / 8, 255)] } } }

theorem test_view :
    w3 viewing (.ldv 1 3) 4 == [10, 11, 12, 13] && w3 viewStale (.ldv 1 3) 4 == [90, 11, 12, 13]
    && w3 viewWorn (.ldv 1 3) 4 == [90, 11, 12, 13]
    && leaves (exec (.ldv 1 3) viewStale) (fun t => t.hart.weak.viewV.isNone) && leaves (exec (.ldv 1 3) viewing) (fun t => t.hart.weak.viewV.isSome)
    && leaves (exec (.vfence 1) viewing) (fun t => t.hart.weak.viewV.isNone) = true := by decide +kernel

theorem witness_VectorLoads_view :
    loadsFrom vmem (.ldv 1 3) (.int true 32) vmem vmem (vmem.hart.vpath vmem)
    ∧ (let v := earlier vmem
       let r := viewed viewing (viewing.hart.vpath viewing) v
       viewing.hart.weak.viewV = some v ∧ viewServes viewing v [1] = true
       ∧ (match loadSpec viewing r.1 r.2 (.int true 32) (.ldv 1 3) with
          | some (d, ops, _, f) => decide (vecReady viewing (.int true 32) ops) && (List.range (count d)).all fun k => match f k with | .ok _ => true | _ => false
          | none => false) = true)
    ∧ galleysOk viewing ∧ modeTe viewing.hart.vec.vmode = 0 ∧ stageOff viewing = false ∧ fenced viewing clsV = false :=
  ⟨⟨rfl, rfl, rfl⟩, by and_intros <;> decide +kernel⟩

/-- W3 is a whole line. -/
def wholeLine : State := ww (hartWith vmem fun h => { h with vec := { h.vec with vl := 16 } }) 3 (rowWin 3 16 3)

theorem witness_VectorStores_held :
    (memOk (holding vmem) ∧ banksOk (holding vmem) ∧ storeReady (holding vmem) (.stv 1 3) = true)
    ∧ leaves (exec (.stv 1 3) (holding vmem)) (fun t => t.hart.weak.postV.length == 4 && readPaNat t 0x40000 4 == 10)
    ∧ leaves (exec (.stv 1 3) { vmem with poison := [0x40000 / 64] }) (fun t => t.poison == [0x40000 / 64])
    ∧ leaves (exec (.stv 1 3) { wholeLine with poison := [0x40000 / 64] }) (fun t => t.poison.isEmpty) = true := by decide +kernel

/-- A port without room for two entries, and a hart that resumes at element 2. -/
def fifoTight : State :=
  { regs vmem [(1, fifoVa)] with banks := [(1, { Bank.init with mode := .fifo, holder := some (0, 0), fifo := List.replicate 32767 0 })] }
theorem witness_FifoTransfers_wait :
    count (winOp fifos 3 0) * 32 % 64 = 0 ∧ fifos.hart.vec.vstart < count (winOp fifos 3 0)
    ∧ locate fifoTight (fifoTight.hart.path fifoTight) (rx fifoTight 1).toNat .store = .ok (.fifo 1)
    ∧ (let s := hartWith fifos fun h => { h with vec := { h.vec with vstart := 2 } }
       s.hart.vec.vstart < count (winOp s 3 0) ∧ w3 s (.ldv 1 3) 4 = [1, 1, 3, 4]) := by decide +kernel
theorem witness_FifoTransfers_room : 32768 < (bankAt fifoTight 1).fifo.length + count (winOp fifoTight 3 0) * 32 / 64 := by
  have e : (bankAt fifoTight 1).fifo.length = 32767 := List.length_replicate ..
  have c : count (winOp fifoTight 3 0) * 32 / 64 = 2 := by decide +kernel
  omega

theorem witness_LinkedAccess_stores :
    vmem.hart.vec.vstart < count (winOp vmem 3 0) ∧ memOk linked ∧ banksOk linked ∧ galleysOk linked
    ∧ ((List.range 4).all fun k => match placeOf linked (linked.hart.vpath linked) (gathAddr linked (rx linked 1) (winOp linked 4 1) k) 4 .store .fifoOnly with
        | .ok l => (match l with | .pa _ _ _ => true | _ => false) && holdsTag linked (locLine l) && !locRemote l | _ => false) = true := by decide +kernel

theorem witness_ScatterAdds_path :
    ((List.range (count (winOp vmem 3 0))).all fun k => match placeOf vmem { vmem.hart.vpath vmem with remote := some true, post := none }
        (gathAddr vmem (rx vmem 1) (winOp vmem 4 1) k) 4 .store .fifoOnly with | .ok _ => true | _ => false) = true := by decide +kernel

/-- AMO with ACQ ends the views of the engines; VWAIT sees the stores before it. -/
theorem witness_AtomicResults_more :
    takesStore vmem (.pa 0x40000 0xF 36) (toStore vmem 0x40000 4 18) ∧ galleysOk vmem
    ∧ leaves (exec (.amo 3 1 2 0 0 1 0 0) (hartWith vmem fun h => { h with weak := { h.weak with viewE :=
        [(3, earlier vmem)] } })) (fun t => t.hart.weak.viewE.isEmpty) = true :=
  ⟨trivial, by decide +kernel, by decide +kernel⟩

/-- Elements 0 and 2 of VAMO meet at one place. -/
def meetingAt : State := hartWith vmem fun h => { h with vec := { h.vec with galley := cellsPut h.vec.galley (4 * 512) ((([12, 0, 12, 4] : List Nat)).flatMap (bytesOfNat 8)) } }
theorem witness_VectorAtomics_places :
    banksOk meetingAt ∧ vecReady meetingAt (.int true 32) (gathOpds meetingAt (winOp meetingAt 3 0) (winOp meetingAt 4 1) true true (.int true 32))
    ∧ ((List.range 4).all fun k => match placeOf meetingAt (meetingAt.hart.vpath meetingAt) (gathAddr meetingAt (rx meetingAt 1) (winOp meetingAt 4 1) k) 4 .load .devFifo,
        placeOf meetingAt (meetingAt.hart.vpath meetingAt) (gathAddr meetingAt (rx meetingAt 1) (winOp meetingAt 4 1) k) 4 .store .devFifo with
        | .ok x, .ok y => decide (x = y) && !locPoisoned meetingAt x && (match x with | .pa _ _ _ => true | _ => false) | _, _ => false) = true
    ∧ w3 meetingAt (.vamoOrd 3 4 1 0 0 0) 4 = [13, 10, 14, 11] ∧ memAfter meetingAt (.vamoOrd 3 4 1 0 0 0) = [11, 12, 12, 15, 14, 15, 16, 17] := by decide +kernel

/-- W3 is bound, and is bound again; the block of X6 is good. -/
theorem witness_StreamBindings_again :
    (boundTo bound 3).isSome = true ∧ blockRead streaming 6 8 (asWords [0, 0, 0x0000000200000004, 1, 0, 0, 0, 0])
    ∧ leaves (exec (.strm 1 4 7 7 3) bound) (fun t => (t.hart.eng.streams.map fun x => (x.win, x.ctr)) == [(3, 4)] && (rc t 2).count == 0 && (rc t 4).count == 1)
    ∧ leaves (exec (.strmx 1 2 6 3) bound) (fun t => (t.hart.eng.streams.map fun x => (x.raster, x.steps)) == [(false, List.replicate 12 0)] && (rc t 2).count == 1) = true := by
  decide +kernel

/-! ## Engines: a COLL while the module freezes; what a fence ends -/

theorem witness_EngineCommands_more :
    { engines with hub := { engines.hub with snap := 1 } }.hub.snap ≠ 0 ∧ engines.hub.snap = 0
    ∧ leaves (exec (.coll 2 13 0 0 0 0) { engines with hub := { engines.hub with snap := 1 } }) (fun t => (rc t 2).poison && t.hart.eng.cmds.isEmpty)
    ∧ blockRead engines 14 16 (List.replicate 16 0) ∧ encfBad (natOfWords (List.replicate 16 0)) = true ∧ collBad 0 (natOfWords (asWords [0, 0, 0, 0, 0, 0, 0, 0])) = true
    ∧ qcopyBlockBad (natOfWords (asWords [0, 0, 0, 0, 0, 0, 0, 0])) = true
    ∧ stopsWith (exec (.encf 2 14 0) engines) 0x47 0x70000 ∧ stopsWith (exec (.coll 2 14 0 0 0 0) engines) 0x47 0x70000
    ∧ stopsWith (exec (.qcopyBlock 2 14) engines) 0x47 0x70000 = true := by decide +kernel

theorem witness_FencesAndBarriers_stores :
    meeting.hart.who.podid = 0
    ∧ leaves (exec (.sbarr 4 1 5) (holding { meeting with hart := { meeting.hart with weak := heldS.hart.weak } })) (fun t => t.hart.weak.postS.isEmpty)
    ∧ leaves (exec (.fencex 1 2) { meeting with hart := { meeting.hart with weak := heldS.hart.weak } }) (fun t => t.hart.weak.postS.isEmpty && readPaNat t 0x40008 8 == 0x1122334455667788)
    = true := by decide +kernel

/-! ## GSCAT's and GLD's frames -/

theorem witness_GridInstructions_more :
    gridded.hart.strike = none ∧ (classView gridded { gridded.hart.path gridded with quadOf := none, post := none } 6) = (gridded, { gridded.hart.path gridded with quadOf := none, post := none }) :=
  ⟨by decide +kernel, rfl⟩

/-! ## What a matrix instruction makes of its tile -/

/-- Every word of tile 1 and 2 becomes what `tileSpec` says, and the flags are those of its words. -/
def tileAgrees (s : State) (i : Instr) : Bool :=
  let t := started1 s i
  let u := after (.matrixInstructionComplete 1) t
  match t.hart.mat.mq with
  | [e] =>
    (match tileSpec t e with
     | some (tile, new) =>
       let cs := (List.range 5).flatMap fun r => (List.range 5).map fun c => (r, c)
       t.hart.who.resident && e.started && entryReady t e && decide (5 < mvlLen e.mvl)
       && cs.all (fun p => (match new p.1 p.2 with | some v => decide (v.1 < 2 ^ 32) | none => true)
            && accGet u e.mvl tile p.1 p.2 == (match new p.1 p.2 with | some v => v.1 | none => accGet t e.mvl tile p.1 p.2)
            && accGet u e.mvl (tile + 1) p.1 p.2 == accGet t e.mvl (tile + 1) p.1 p.2)
       && u.hart.vec.vflags &&& 0x11D == cs.foldl (fun f p => match new p.1 p.2 with | some v => f ||| (v.2 &&& 0x11D) | none => f) (t.hart.vec.vflags &&& 0x11D)
     | none => false)
  | _ => false

/-- Tile 1 holds numbers; so do the slots. -/
def matFull (ty : Nat) (cells : List Nat) (word : Nat → Nat) : State :=
  let row (g : List Host.Cell) (r c : Nat) : List Host.Cell :=
    cellsPut g (r * 512 + c) ((List.range 4).map fun j => BitVec.ofNat 8 (cells.getD ((3 * r + c / 8 + j) % cells.length) 0))
  let g := (List.range 12).foldl (fun g r => row (row g r 0) r 32) mats.hart.vec.galley
  let s := hartWith mats fun h => { h with vec := { h.vec with vmode := makeVmode (BitVec.ofNat 25 ty), galley := g } }
  let tiles := (List.range 4).flatMap fun r => (List.range 4).map fun c => (1, r, c)
  tiles.foldl (fun u p => accPut u mats.hart.mat.mvl p.1 p.2.1 p.2.2 (word (p.1 + p.2.1 + 2 * p.2.2))) s


/-- Every cell that ATOW or ARED writes becomes what `tileOut` says, with the flags. -/
def outAgrees (s : State) (i : Instr) : Bool :=
  let t := started1 s i
  let u := after (.matrixInstructionComplete 1) t
  match t.hart.mat.mq with
  | [e] =>
    (match tileOut t e with
     | some out =>
       let cs := (List.range (outerOf e.wa)).flatMap fun o => (List.range (innerOf e.wa)).map fun j => (o, j)
       t.hart.who.resident && e.started && entryReady t e && !cs.isEmpty
       && fits t.hart.who.grows (grbOf t.hart.who.shape) { cur := e.rcur, lo := e.rlo, hi := e.rhi } e.wa
       && (isRect e.wa || wKind e.wa == kindRow || wKind e.wa == kindCol)
       && cs.all (fun p => readCell u e.wa (cell (entryWin e e.wa) p.1 p.2) == (out p.1 p.2).1 % 2 ^ wEw e.wa)
       && u.hart.mat.acc == t.hart.mat.acc
       && u.hart.vec.vflags &&& 0x11D == cs.foldl (fun f p => f ||| ((out p.1 p.2).2 &&& 0x11D)) (t.hart.vec.vflags &&& 0x11D)
     | none => false)
  | _ => false


/-- i8, binary8 and f32 elements; a tile of integers, of FP32 values, and with infinities and NaNs. -/
def matI : State := matFull 0x01 [1, 200, 3, 127, 128, 5] fun x => 77 * x
def matB : State := matFull 0x84 [0x38, 0x40, 0xB8, 0x44, 1, 0x7F] fun x => 0x3F800000 + x * 0x400000
def matF : State := matFull 0x13 [0x38, 0x40, 0xB8, 0x44, 1, 0x7F] fun x => 0x7F800000 + x * 0x400001

theorem test_tiles_integer : [Instr.mrankAdd 1 5 6 0, .mrankSub 1 5 6 1, .mma 1 7 8].all (tileAgrees matI) = true := by decide +kernel
theorem test_tiles_sparse : [Instr.mmasp 1 1 4, .mzero 1, .wtoa 1 9 1 0].all (tileAgrees matI) = true := by decide +kernel
theorem test_tiles_float : [Instr.mrankSub 1 5 6 1, .mma 1 7 8, .wtoa 1 9 0 1].all (tileAgrees matB) = true := by decide +kernel
theorem test_tiles_scaled : [Instr.amulr 1 10, .aaddr 1 10].all (tileAgrees matF) = true := by decide +kernel
theorem test_tiles_out :
    [Instr.atow 1 9 1 0, .atow 1 9 0 1].all (outAgrees matI) && outAgrees matB (.atow 1 9 0 1) && [Instr.ared 1 10 0, .ared 1 10 2].all (outAgrees matF) = true := by
  decide +kernel

/-- The words that a rank-1 update names are of the tile, where its windows are no longer than MVL. -/
theorem witness_MatrixEvents_tile (t : State) (e : MEntry) (tile r c : Nat) (v : Nat × Flags) (ha : innerOf e.wa ≤ mvlLen e.mvl)
    (hb : innerOf e.wb ≤ mvlLen e.mvl) (h : tileSpec.rank t e tile false false r c = some v) : r < mvlLen e.mvl ∧ c < mvlLen e.mvl := by
  simp only [tileSpec.rank, Bool.false_eq_true, if_false] at h
  by_cases g : r < innerOf e.wa ∧ c < innerOf e.wb
  · omega
  · simp [g] at h
theorem witness_MatrixEvents_lengths :
    headIs (started1 matI (.mrankAdd 1 5 6 0)) (fun e => decide (innerOf e.wa ≤ mvlLen e.mvl) && decide (innerOf e.wb ≤ mvlLen e.mvl)) = true
    ∧ galleysOk (started1 matI (.mrankAdd 1 5 6 0)) ∧ galleysOk (started1 matB (.atow 1 9 0 1)) := by decide +kernel

/-- An MMA that has started, with an MFETCH behind it. -/
def fetchBehind : State := after (.mfetch 1 2 0 0 7 1) { fetching with hart := { fetching.hart with mat := { fetching.hart.mat with mq := (started1 matB (.mma 1 7 8)).hart.mat.mq } } }

theorem witness_MatrixEvents_parts :
    (match fetchBehind.hart.mat.mq with | [e, e2] => e.started && isFetch e2 && queueRuns fetchBehind.hart | _ => false) = true
    ∧ leaves (exec (.matrixQueueStart 1) fetchBehind) (fun t => t.hart.mat.mq.length == 1 && t.hart.mat.fetches.all fun g => !g.inQueue)
    ∧ ([queued1 matI .mstop, queued1 (regs matI [(1, 16)]) (.mstart 3 1)].all fun s =>
        headIs s (fun e => !e.started && !counted e && !isFetch e && entryReady s e) && queueRuns s.hart
        && leaves (exec (.matrixQueueStart 1) s) fun t => t.hart.mat.acc.isEmpty) = true
    ∧ (let s := queued1 (regs (hartWith mats fun h => { h with mat := { h.mat with plane := [(0, 5), (33, 6)] } }) [(1, 2)]) (.mclaim 1)
       queueRuns s.hart && leaves (exec (.matrixQueueStart 1) s) fun t => t.hart.mat.plane == [(0, 5)]) = true
    ∧ fetched.hart.weak.viewE = [] := by and_intros <;> decide +kernel

/-! ## Which bytes the engines write -/

/-- The core's TLB holds the page. -/
def tlbHot (s : State) : State := { s with tlb := [{ place := .core 0, asid := 0, vpn := 0, size := 36, leaf := 0xF }] }

/-- With the page's translation in the core's TLB, an address below 64 GiB is its own place, whatever memory holds. -/
theorem bytePlace_tlb (s : State) (m : List Host.Cell) (p : Path) (va : Nat) (hc : p.sp.core = some 0) (hp : p.sp.pins = none)
    (hv : p.sp.valid = true) (ha : p.sp.asid = 0) (hw : p.view = false) (h : va < 2 ^ 36) : bytePlace { tlbHot s with mem := m } p va = some va := by
  have h56 : ¬(72057594037927936 ≤ va) := by omega
  have h48 : va / 281474976710656 = 0 := by omega
  have h36 : va / 68719476736 = 0 := by omega
  have hm : va % 68719476736 = va := Nat.mod_eq_of_lt h
  have hr : paRemote va = false := by
    have : va / 2251799813685248 = 0 := by omega
    simp [paRemote, natBit, this]
  have hx : natBits va 44 8 = 0 := by
    have : va / 17592186044416 = 0 := by omega
    simp [natBits, this]
  have hf : leafFrame 15#64 + va % 68719476736 = va := by
    rw [hm, show leafFrame 15#64 = 0 by decide, Nat.zero_add]
  have ht : lookup { tlbHot s with mem := m } p.sp va = .leaf 0xF 36 := by
    simp [lookup, translated, Machine.pinned, hp, lookupNow, hv, tlbFind, hc, tlbIn, tlbHot, ha, h36, h48]
  have hl : Sys2Proof.Machine.translate { tlbHot s with mem := m } p va .store = .ok (.pa va 0xF 36) := by
    simp [Sys2Proof.Machine.translate, h56, h48, ht, leafAllows, leafW, hf, hw]
  simp [bytePlace, locate, hl, MRes.bind, reach, hr, cxlLost, hx, leafCmp]

/-- Engine writes below 64 GiB, where no table counts. -/
theorem plain_tlb (s : State) (p : Path) (ws : List Wr) (hc : p.sp.core = some 0) (hp : p.sp.pins = none) (hv : p.sp.valid = true)
    (ha : p.sp.asid = 0) (hq : p.view = false) (h : ∀ w ∈ ws, w.va < 2 ^ 36) : plainTargets (tlbHot s) p ws := by
  intro m _ w hw
  have a (n : List Host.Cell) := bytePlace_tlb s n p w.va hc hp hv ha hq (h w hw)
  have b : bytePlace (tlbHot s) p w.va = some w.va := a (tlbHot s).mem
  rw [b, a m]
  exact ⟨by simp, rfl⟩

/-- The writes of the items n to n + c - 1, where each gives some. -/
def writesOf (f : Nat → MRes (List Wr)) (n c : Nat) : Option (List Wr) :=
  (List.range c).foldr (fun j r => match f (n + j), r with | .ok x, some ws => some (x ++ ws) | _, _ => none) (some [])

/-- Those bytes, and none beside them, have changed, as `engineWrote` says. -/
def wrote (s t : State) (ws : List Wr) : Bool :=
  let at_ (w : Wr) : Option Nat := bytePlace s (s.hart.enginePath s) w.va
  !ws.isEmpty && ws.all (fun w => (at_ w).isSome)
  && ((ws.filterMap at_).flatMap fun x => [x - 1, x, x + 1]).all fun x =>
    readPa t x == (ws.filter fun w => at_ w == some x).foldl (fun b w => BitVec.ofNat 8 (w.merge b.toNat)) (readPa s x)

/-- The first unit of a copy moves what `copySpec` says. -/
def copyAgrees (s : State) (i : Instr) : Bool :=
  let t := tlbHot (after i s)
  match t.hart.eng.cmds with
  | [k] =>
    (match copySpec (engineView t clsCPY).1 (engineView t clsCPY).2 k with
     | some (total, per, item) =>
       isCopy k && decide (copyFinished t k = .ok false)
       && (match writesOf item 0 (min total per) with
           | some ws => leaves (exec (.copyUnitArrival 1 k.id) t) fun u => wrote t u ws
           | none => false)
     | none => false)
  | _ => false
/-- A page at 2^36 of binary8 elements with a scale for every 16, and TENSORs of 16 f32 elements, 3.0 and fifteen of 1.0 (R239's
example), and of 16 elements of it. -/
def quant : State :=
  let s := dwordAt base (setupTable + 8) (2 ^ 40 + 0x84 * 2 ^ 10 + 2 ^ 8 + 7)
  withH (bytesAt s 0x40000 (rowBytes (0x40400000 :: List.replicate 15 0x3F800000)))
    [(1, handle [2 ^ 60 + 0x40000, 2 ^ 32 + 16, 2 ^ 32 + 1, 3 * 2 ^ 32 + 64, 0, 0, 0, 0]),
     (2, handle [2 ^ 60 + 2 ^ 36, 2 ^ 32 + 16, 2 ^ 32 + 1, 2 ^ 32 + 64, 0, 0, 0, 0])]

/-- A collective delivers what the statement says. -/
def collAgrees (s : State) (parts : List CollPart) : Bool :=
  let t := tlbHot s
  let col := engineView t clsCOL
  match t.hart.eng.cmds with
  | [k] =>
    (match collForm k.op with
     | some (kind, max, ty) =>
       (match collParts col.1 col.2 k.blk kind (ty.width / 8) parts with
        | .ok ps => collComplete k.blk kind parts && !collLate t k
            && leaves (exec (.collDelivery 1 k.id parts) t) fun u => wrote t u
              (rawWrs t (t.hart.enginePath t) ((collResult k.blk kind ty max ps).mapIdx fun j x => elemWr (collDst k.blk + j * (ty.width / 8)) 0 ty.width x).flatten)
        | _ => false)
     | none => false)
  | _ => false
/-- An encode whose bands have been read. -/
def bandsRead (n : Nat) : State := (List.range n).foldl (fun t _ => after (.encfBandRead 1 (cmdId encoding_)) t) encoding_
/-- The conversion of a sheet moves what `sheetSpec` says. -/
def sheetAgrees : Bool :=
  let t := tlbHot relayMid
  match t.relays with
  | [r] =>
    (match writesOf (sheetSpec t (t.hart.enginePath t) r 0) 0 (sheetPoints r.h 0).length with
     | some ws => leaves (exec (.sheetNew r.id) t) fun u => !ws.isEmpty && ws.all fun w => readPa u w.va == BitVec.ofNat 8 (w.merge (readPa t w.va).toNat)
     | none => false)
  | _ => false

/-- A block copy from where nothing is mapped; a conversion that has failed with a sheet on the way. -/
def copyLost : State := after (.copyBlock 2 10) (regs (bytesAt base 0x60000 (words [0x00FD000000000000, 0x50000, 2 ^ 32 + 16, 1, 0, 0, 0, 0])) [(10, 0x60000)])
def relayLost : State := { relayMid with relays := relayMid.relays.map fun r => { r with failed := some (0x40, 0) } }

theorem test_copy_bytes : copyAgrees small (.copy 2 2 0 0 1) && copyAgrees engines (.copyBlock 2 10) = true := by decide +kernel
theorem test_qcopy_bytes :
    (let t := after (.qcopy 2 2 0 0 0 1) quant
     cmdIs t fun k => match copySpec t (t.hart.enginePath t) k with
       | some (total, per, item) => total == 16 && per == 4096 && (match item 0 with
           | .ok ws => ws.map (fun w => (w.va, w.byte)) == [(2 ^ 36, 0x74), (2 ^ 36 + 1024, 0x7A)]
           | _ => false)
       | none => false) = true := by decide +kernel
theorem test_collective_and_sheet_bytes : collAgrees collecting collMembers && sheetAgrees = true := by decide +kernel
theorem witness_EngineEvents_bytes :
    (∀ ws : List Wr, (∀ w ∈ ws, w.va < 2 ^ 36) → plainTargets (tlbHot copying) ((tlbHot copying).hart.enginePath (tlbHot copying)) ws)
    ∧ cmdIs copyLost (fun k => isCopy k && decide (copyFinished copyLost k = .ok false)
        && (match copyUnit copyLost k with | .trap c a => c == 0x40 && a == 0x00FD000000000000 | _ => false)) = true
    ∧ leaves (exec (.copyUnitArrival 1 (cmdId copyLost)) copyLost) (fun t => (rc t 2).poison && t.hart.eng.cmds.isEmpty) = true
    ∧ cmdIs (bandsRead 1) (fun k => decide (encfBands (encfBlock k) ≤ k.units) && ok (encfRef (bandsRead 1) ((bandsRead 1).hart.enginePath (bandsRead 1)) (encfBlock k))) = true
    ∧ leaves (exec (.sheetNew (relayId relayLost)) relayLost) (fun t => t.relays.map (·.sheets) == [[2]]) = true
    ∧ cmdIs { collecting with time := 10000000 } (fun k => collLate { collecting with time := 10000000 } k && !collLate collecting k) = true
    ∧ memOk copying ∧ memOk collecting ∧ memOk encoding_ ∧ memOk relaying ∧ memOk (tlbHot relayMid) :=
  have ⟨c, p, v, a, q⟩ : _ ∧ _ ∧ _ ∧ _ ∧ _ := show (let p := (tlbHot copying).hart.enginePath (tlbHot copying)
    p.sp.core = some 0 ∧ p.sp.pins = none ∧ p.sp.valid = true ∧ p.sp.asid = 0 ∧ p.view = false) by decide +kernel
  ⟨fun ws h => plain_tlb copying _ ws c p v a q h, by and_intros <;> decide +kernel⟩

/-! ## Stops with groups that wait, dusk work, and the rest of the module -/

/-- Group 3 of the core is to be retired at its next pre-emption point (R370). -/
def askedPending : State := { asked with cores := [(0, { CoreState.init with pending := [3] })] }
theorem witness_LaunchEvents_pending :
    (coreAt asked (coreOf asked.hart.who)).pending = [] ∧ (coreAt askedPending (coreOf askedPending.hart.who)).pending = [3] ∧ hubOk askedPending
    ∧ asked.hart.weak.late = []
    ∧ leaves (exec (.preemptionPointReached 1) askedPending) (fun t => t.hart.stopped && (coreAt t 0).failed == [3] && (coreAt t 0).pending.isEmpty) = true := by
  decide +kernel

/-- Dusk-queue work stands where the gang goes, and elsewhere. -/
def duskL : State := { reservedL with sched := { reservedL.sched with
  dusk := [{ num := 1, kind := .translator, shape := 0, places := [(75, 0)] }, { num := 2, kind := .scrub, shape := 0, places := [(76, 1)] }] } }
theorem witness_DistributorEvents_dusk :
    tabWf (0, 0) duskL.sched.rr = true
    ∧ leaves (exec (.placementConfirm true true) duskL) (fun t => t.sched.dusk.map (fun j => (j.num, j.places)) == [(1, []), (2, [(76, 1)])]
        && tabGet (0, 0) t.sched.rr 0 == (1, 0)) = true := by decide +kernel

theorem witness_FleetEvents_ports :
    leaves (exec (.linkDown 9) fleet) (fun t => (portAt t 9).state == 1 && (portAt t 9).retrains == 1)
    ∧ leaves (exec (.flitReplay 0) fleet) (fun t => (portAt t 0).replays == 1 && (portAt t 0).state == 2)
    ∧ (∀ k, k ∈ [1, 2, 4, 8] → 0x7FFFFFF8 % k = 0) ∧ (some { op := 0, sg := true, old := 0, fcsr := 0 } : Option PeerAtom).isSome = true := by decide +kernel

/-- Function 1 is in reset, and queue 3 is its. -/
def inReset : State := { hosted with hub := { hosted.hub with
  queues := [(3, { QueueRegs.init with cfg := 0x8101, drop := true, err := true })], fns := tabSet FnRegs.init hosted.hub.fns 1 { FnRegs.init with reset := true } } }

theorem witness_HostRegisters_more :
    qFunc (queueAt inReset 3) = 1 ∧ (fnAt inReset 1).reset = true ∧ hubOk inReset ∧ hostReaches inReset 0 ∧ tabWf 0#8 hosted.hub.sec.stage = true
    ∧ (portAt hosted 1).state ≠ 4 ∧ (portAt hosted 3).state = 4 ∧ (0x100#64).toNat % 8 ≠ 1
    ∧ leaves (exec (.mbpost 0 3 0x2000) inReset) (fun t => (queueAt t 3).drop && (queueAt t 3).posts.isEmpty)
    ∧ leaves (exec (.registerWrite 0 0x100D0 0x40) inReset) (fun t => !(queueAt t 3).drop && (queueAt t 3).err)
    ∧ leaves (exec (.registerWrite 0 0x20048 0x2C) hosted) (fun t => (fnAt t 1).errLg == 12)
    ∧ leaves (exec (.registerWrite 0 0x20078 0xFFFF) hosted) (fun t => (fnAt t 1).ovfVec == 0x13F)
    ∧ leaves (exec (.registerWrite 0 0x30010 0x1FF) hosted) (fun t => tabGet 0 t.hub.ownmap 2 == 0xFF)
    ∧ leaves (exec (.registerWrite 0 0x40048 7) hosted) (fun t => t.hub.sec.nonce.get 1 == 7 && t.hub.sec.nonce.get 0 == 0)
    ∧ leaves (exec (.registerWrite 0 0x800008 0x0102) hosted) (fun t => tabGet 0#8 t.hub.sec.stage 8 == 2 && tabGet 0#8 t.hub.sec.stage 9 == 1) = true := by
  decide +kernel

/-- A bank add to a bank that is to be pinned; the physical function's reset, before and after the others'. -/
def pinBusy : State := { pinning with hart := { pinning.hart with
  who := { pinning.hart.who with die := 1, quad := 2 }
  eng := { pinning.hart.eng with adds := [{ id := 9, op := .halt, pa := 2 ^ 56 + bankKey 1 2 11 * 2 ^ 24, va := 0, ty := 0x13, part := 0, cmd := none, deps := [] }] } } }
def pfWaits : State := { resetting with hub := { resetting.hub with pfPend := true } }
def pfTurn : State := { hosted with hub := { hosted.hub with pfPend := true } }
def pfEnds : State := { quiet with hub := { quiet.hub with fns := tabSet FnRegs.init quiet.hub.fns 0 { FnRegs.init with reset := true, errLg := 9 }, podexp := 5 } }

/-- A VWAIT that is parked holds the first page. -/
def invalidBusy : State := hartWith invalidating fun h => { h with
  status := .waiting .vwait, pins := some { runs := [{ size := 36, first := 0, n := 1 }], whole := false, store := false, mem := [], tlb := [], wcache := [] } }

theorem witness_HostRequests_pending :
    (∃ k ∈ sessKeys pinBusy.hub.sessReq, bankPending pinBusy k = true) ∧ (∀ k ∈ sessKeys pinning.hub.sessReq, bankPending pinning k = false)
    ∧ pinBusy.hub.sessRes = 1 ∧ sessOp pinBusy.hub.sessReq = 1 ∧ leaves (exec .sessionRequestDone pinBusy) (fun t => decide (t = pinBusy))
    ∧ wBits 0x0003000000000000 40 8 = 0 ∧ translatedBefore invalidating (asidMatch invalidating.hub.tlbReq) (invSpan invalidating.hub.tlbReq).1 (invSpan invalidating.hub.tlbReq).2 = false
    ∧ translatedBefore invalidBusy (asidMatch invalidating.hub.tlbReq) (invSpan invalidating.hub.tlbReq).1 (invSpan invalidating.hub.tlbReq).2 = true
    ∧ leaves (exec .tlbinvDone invalidBusy) (fun t => t.hub.tlbRes == 1) = true := by
  decide +kernel

theorem witness_HostRequests_pf :
    pfWaits.hub.pfPend = true ∧ (∃ g ∈ List.range 65, 1 ≤ g ∧ (fnAt pfWaits g).reset = true)
    ∧ leaves (exec (.functionResetComplete 0) pfWaits) (fun t => decide (t = pfWaits))
    ∧ (∀ g ∈ List.range 65, 1 ≤ g → (fnAt pfTurn g).reset = false) ∧ leaves (exec (.functionResetComplete 0) pfTurn) (fun t => (fnAt t 0).reset && !t.hub.pfPend) := by
  decide +kernel
theorem witness_HostRequests_pf_ends :
    (fnAt pfEnds 0).reset = true ∧ pfEnds.hub.pfPend = false ∧ fnLaunches pfEnds 0 = false ∧ (∀ h ∈ allHarts pfEnds, h.who.dispatch = false) ∧ hubOk pfEnds
    ∧ (resetBar0 pfEnds).hub.podexp = 0 := by decide +kernel
/-- The page migrates, and a bank add of its space is under way. -/
def migrating : State := match execPageMigration 0 0x40000 0 hosted with | .next t => t | _ => hosted
def migBusy : State := { migrating with hart := { migrating.hart with eng := { migrating.hart.eng with adds := pinBusy.hart.eng.adds } } }
theorem witness_HostRequests_moving :
    migrating.migs.find? (fun x => x.1 == 0 && x.2.1 == 0) = some (0, 0, 0xF#64) ∧ translatedBefore migrating (· == 0) 0 (2 ^ 36) = false ∧ translatedBefore migBusy (· == 0) 0 (2 ^ 36) = true
    ∧ (rootOf migrating 0).bind (fun r => entryFrom migrating 0x40000 walkLevels r) = some (setupTable, 36) ∧ memOk migrating
    ∧ leaves (exec (.pageMigration 0 0x40000 (2 ^ 36)) migBusy) (fun t => decide (t = migBusy)) = true := by decide +kernel

/-- Thawing; freezing with a thaw or OFF to follow. -/
def thawing : State := withHub hosted fun h => { h with snap := 3 }
def freezeThaws : State := { freezing with hub := { freezing.hub with thawPend := true } }
def freezeOff : State := { freezing with hub := { freezing.hub with offPend := true, colo := [(3, 4)], coloHour := [(1, 2)] } }
def warm : State := { hosted with dies := [(2, { DieState.init with heat := 3, temp := 95, hot := true }), (3, { DieState.init with heat := 3, temp := 95 })] }

theorem witness_ModuleRequests_more :
    thawing.hub.snap = 3 ∧ leaves (exec .freeze thawing) (fun t => t.hub.snap == 1)
    ∧ freezeThaws.hub.snap = 1 ∧ placedGangs freezeThaws = [] ∧ leaves (exec .freezeComplete freezeThaws) (fun t => t.hub.snap == 3 && !t.hub.thawPend)
    ∧ leaves (exec .freezeComplete freezeOff) (fun t => t.hub.snap == 2 && t.hub.coloNv == [(3, 4)] && t.hub.hourNv == [(1, 2)])
    ∧ leaves (exec (.thermalThrottle 2 95) warm) (fun t => (dieAt t 2).hot && aclkOf t 2 == aclkOf warm 2 - 1)
    ∧ leaves (exec (.thermalThrottle 3 95) warm) (fun t => !(dieAt t 3).hot && (dieAt t 3).heat == 2)
    ∧ leaves (exec (.thermalThrottle 2 106) warm) (fun t => (dieAt t 2).above == some warm.time)
    ∧ leaves (exec (.powerThrottle 100) { hosted with hub := { hosted.hub with pwrSteps := 4 } }) (fun t => t.hub.pwrSteps == 3)
    ∧ agentImages (bringUp 4) = [] ∧ duskRuns flushing .flush = true
    ∧ (Config.agentImages resetImage = [[]] → ∃ img ∈ agentImages (withSec' (bringUp 4) fun c => { c with booted := some 0 }), imageOk (bringUp 4) img = false) := by
  and_intros
  all_goals try decide +kernel
  refine fun h => ⟨[], ?_, ?_⟩
  · have e : (withSec' (bringUp 4) fun c => { c with booted := some 0 }).hub.sec.slots.toList.getD 0 [] = resetImage := by decide +kernel
    show [] ∈ Config.agentImages ((withSec' (bringUp 4) fun c => { c with booted := some 0 }).hub.sec.slots.toList.getD 0 [])
    rw [e, h]; exact List.mem_singleton.mpr rfl
  · have b : imageShape [] = false := by decide +kernel
    simp [imageOk, b]

/-! ## Pins, views of the scalar stream, and what turns an access away (R267, R268, R335, logs 42, 118, 120) -/

/-- LDV of W3 at the pc, and a hart of the core whose access under way fills the pin store. -/
def crowdedPins : State :=
  let s := bytesAt vmem 0x10000 (bytesOfNat 4 (wordOf (.ldv 1 3)).toNat)
  let p : Pins := { runs := List.replicate 1024 { size := 16, first := 9, n := 1 }, whole := false, store := true, mem := [], tlb := [], wcache := [] }
  { s with others := [{ s.hart with who := { s.hart.who with id := 77 }, status := .waiting .remote, pins := some p }] }

theorem witness_StepRunsDecoded_pins :
    pinsFull crowdedPins (.ldv 1 3) = true ∧ locate crowdedPins (crowdedPins.hart.path crowdedPins) crowdedPins.hart.pc.toNat .fetch = .ok (.pa 0x10000 0xF 36)
    ∧ (0x10000 / 64 ∉ crowdedPins.poison ∧ (∀ e ∈ crowdedPins.hart.icache, e.1 ≠ crowdedPins.hart.pc.toNat) ∧ crowdedPins.hart.weak.late = []
      ∧ crowdedPins.hart.status ≠ .waiting .halt ∧ crowdedPins.agenda = [] ∧ crowdedPins.power = true ∧ executing crowdedPins)
    ∧ leaves (step crowdedPins) (fun t => decide (t.hart.status = .waiting .stall)) = true := by and_intros <;> decide +kernel

/-- The scalar stream still reads memory as it was before another hart's store to 0x40000. -/
def scalarView : State := hartWith (bytesAt loads 0x40000 [0x7F]) fun h => { h with weak := { h.weak with viewS := some (earlier loads) } }

theorem no_view (s : State) (va n : Nat) (h : s.hart.weak.viewS = none) : loadsNow s va n :=
  fun _ _ ⟨_, e, _⟩ => absurd (h.symm.trans e) (Option.some_ne_none _).symm

theorem witness_ScalarLoads_view :
    loadsNow loads 0x40000 1 ∧ loadsNow badAddrs 0x40001 4 ∧ syncScalar loads = loads ∧ dropScalar loads = loads ∧ dropScalar badAddrs = badAddrs
    ∧ loadsView scalarView 0x40000 1 ((earlier loads).reads [0x40000 / 8]) 0x80 ∧ fenced scalarView clsS = false
    ∧ locate (syncScalar scalarView) ((syncScalar scalarView).hart.path (syncScalar scalarView)) 0x40000 .load = .ok (.pa 0x40000 0xF 36) :=
  ⟨no_view _ _ _ (by decide +kernel), no_view _ _ _ (by decide +kernel), by decide +kernel, by decide +kernel, by decide +kernel,
    ⟨earlier loads, by and_intros <;> decide +kernel⟩, by and_intros <;> decide +kernel⟩

theorem test_scalar_view :
    x3All scalarView [(.ldb 3 1 0, 0xFFFFFFFFFFFFFF80)] && x3All (dropScalar scalarView) [(.ldb 3 1 0, 0x7F)]
    && leaves (exec (.vfence 1) scalarView) (fun t => t.hart.weak.viewS.isNone) && leaves (exec (.fencex 0 1) scalarView) (fun t => t.hart.weak.viewS.isSome)
    && leaves (exec (.fencex 2 1) scalarView) (fun t => t.hart.weak.viewS.isNone) = true := by decide +kernel

/-- A hart of the hub ends its program at BREAK, and at HALT with an errata state. -/
theorem witness_ControlInstructions_dispatch :
    (dispatching pendingErr).hart.who.dispatch = true ∧ (dispatching pendingErr).hart.eng.errPend = some 0x500 ∧ (dispatching poisonedTwice).hart.eng.errPend = none
    ∧ leaves (exec .brk (dispatching ints)) (fun t => (queueAt t 4).err && (queueAt t 4).cause == 0x0C && (queueAt t 4).mberr == 0x1E00001C)
    ∧ leaves (exec .halt (dispatching pendingErr)) (fun t => (queueAt t 4).cause == 0xA0 && (queueAt t 4).mberr == 0x500)
    ∧ leaves (exec .halt (dispatching poisonedTwice)) (fun t => (queueAt t 4).cause == 0xA0 && (queueAt t 4).mberr == 0x740) = true := by decide +kernel

/-- A GSCAT that has poisoned its counter, with bank adds still to perform, and a fetch that has. -/
def poisonedScat : State := hartWith poisonedTwice fun h => { h with
  mat := { h.mat with fetches := [{ theFetch with faulted := true }] }
  eng := { h.eng with cmds := busyHart.hart.eng.cmds.map fun k => { k with op := .gscat 2 1 2 3, units := 1 } } }
theorem witness_ControlInstructions_scat :
    poisonedScat.hart.mat.mq = [] ∧ (∀ f ∈ poisonedScat.hart.mat.fetches, f.faulted = true)
    ∧ (∀ k ∈ poisonedScat.hart.eng.cmds, k.op = .gscat 2 1 2 3 ∧ k.units ≠ 0) ∧ stopsWith (exec .halt poisonedScat) 0xA0 0x740 = true := by decide +kernel

/-- FIFO accesses that are turned away: a guard, a count that is no multiple of 8 bytes, a bank in another mode; and bases that are no
port's, whose elements are taken one by one. -/
def fifoOff : State := regs fifos [(1, fifoVa + 1)]
def fifoNoPort : State := regs fifos [(1, fifoVa + 0x1000)]
def fifoGuard : State := hartWith fifos fun h => { h with vec := { h.vec with vmode := makeVmode 0x00080003 } }
def fifoOdd : State := ww fifos 3 (rowWin 3 3 3)
def fifoScratch : State := { fifos with banks := [(1, { Bank.init with mode := .scratch, holder := some (0, 0) })] }
/-- Only elements from 2 on are active, or none is. -/
def masked (m : Nat) (s : State) : State := hartWith s fun h => { h with vec := { h.vec with vmode := makeVmode 0x00080003, m := h.vec.m.set 0 (BitVec.ofNat 1024 m) } }

def fifoReady (s : State) : Prop :=
  galleysOk s ∧ banksOk s ∧ stageOff s = false ∧ fenced s clsV = false ∧ isFifoVa (rx s 1).toNat = true ∧ s.hart.vec.vstart < count (winOp s 3 0)
  ∧ vecReady s (.int true 32) [dataDst s (winOp s 3 0) (.int true 32)] ∧ vecReady s (.int true 32) [dataSrc (winOp s 3 0) (.int true 32)]

theorem witness_FifoTransfers_refused :
    fifoReady fifoGuard ∧ fifoReady fifoOdd ∧ fifoReady fifoScratch
    ∧ (isFifoVa (rx fifoOff 1).toNat = false ∧ isFifoVa (rx fifoNoPort 1).toNat = false)
    ∧ (hasGuard fifoGuard = true ∧ hasGuard fifoOdd = false ∧ count (winOp fifoOdd 3 0) * 32 % 64 ≠ 0)
    ∧ locate (dropView (drain fifoScratch true)) ((dropView (drain fifoScratch true)).hart.path fifoScratch) fifoVa.toNat .load = .trap 0x4C fifoVa.toNat := by
  simp only [fifoReady]; and_intros <;> decide +kernel

theorem test_fifo_refused :
    [Instr.ldv 1 3, .stv 1 3].all (fun i => stopsWith (exec i fifoOff) 0x45 (fifoVa + 1) && stopsWith (exec i fifoGuard) 0x4C fifoVa
      && stopsWith (exec i fifoOdd) 0x45 fifoVa && stopsWith (exec i fifoScratch) 0x4C fifoVa)
    && stopsWith (exec (.ldv 1 3) fifoNoPort) 0x40 (fifoVa + 0x1000) && stopsWith (exec (.stv 1 3) fifoNoPort) 0x41 (fifoVa + 0x1000) = true := by
  decide +kernel

/-- R211: an inactive element of an access to no port accesses nothing. -/
theorem test_fifo_masked :
    [Instr.ldv 1 3, .stv 1 3].all (fun i => stopsWith (exec i (masked 12 fifoOff)) 0x45 (fifoVa + 9)
      && leaves (exec i (masked 0 fifoOff)) (fun t => t.hart.pc == 0x10004) && leaves (exec i (masked 0 fifoNoPort)) (fun t => t.hart.pc == 0x10004)) = true := by
  decide +kernel

/-- The places of SCOND's elements, whose tags are tested before any access. -/
theorem witness_LinkedAccess_tags :
    ((List.range 4).all fun k => match tagPlace linked (linked.hart.vpath linked) (gathAddr linked (rx linked 1) (winOp linked 4 1) k) 4 with
      | .ok l => holdsTag linked (locLine l) && !locRemote l | _ => false) = true := by decide +kernel

/-! ## SCALL, images, turns, links (R129, R305, R337, R340, R347 to R350, R354, R371, R376) -/

/-- In SCALL with X3 = 1 and X5 bytes at X4, and with X3 = 3 and an address in X4. -/
def logging (a n : Word) : State := regs (bytesAt (calling 7) 0x40000 [1, 2, 3]) [(7, 1), (4, a), (5, n)]
def paging (a : Word) : State := regs (calling 7) [(7, 3), (4, a)]
/-- The page of a state migrates; function 0 has an event log at 0x80000. -/
def moving_ (s : State) : State := dwordAt s setupTable 0xE
def withLog (s : State) : State := { s with hub := { s.hub with fns := tabSet FnRegs.init s.hub.fns 0 { fnAt s 0 with evBase := 0x80000, evLg := 6 } } }

theorem witness_Wakes_services :
    rx (logging 0x40000 3) 7 = 1 ∧ 1 ≤ (rx (logging 0x40000 3) 5).toNat ∧ (rx (logging 0x40000 3) 5).toNat ≤ 256 ∧ 256 < (rx (logging 0x40000 257) 5).toNat
    ∧ loadBytes (logging 0x40000 3) { (logging 0x40000 3).hart.path (logging 0x40000 3) with remote := some true, port := true } 0x40000 3 = .ok [1, 2, 3]
    ∧ (match loadBytes (logging 0x00FD000000000000 3) { (logging 0x00FD000000000000 3).hart.path (logging 0x00FD000000000000 3) with remote := some true, port := true }
        0x00FD000000000000 3 with | .trap _ _ => true | _ => false) = true
    ∧ (match loadBytes (moving_ (logging 0x40000 3)) { (logging 0x40000 3).hart.path (logging 0x40000 3) with remote := some true, port := true } 0x40000 3 with
        | .wait _ => true | _ => false) = true
    ∧ 6 ≤ (fnAt (withLog (logging 0x40000 3)) 0).evLg ∧ (fnAt (withLog (logging 0x40000 3)) 0).evHead + 1 ≠ 0
    ∧ rx (paging 0x40000) 7 = 3 ∧ lookup (paging 0x40000) (identSpace (paging 0x40000) (paging 0x40000).hart.who) 0x40000 = .leaf 0xF 36
    ∧ lookup (moving_ (paging 0x40000)) (identSpace (paging 0x40000) (paging 0x40000).hart.who) 0x40000 = .migrating
    ∧ lookup (paging 0x00FD000000000000) (identSpace (paging 0) (paging 0).hart.who) 0x00FD000000000000 = .invalid := by decide +kernel

theorem test_services :
    leaves (exec (.scallAnswer 1) (withLog (logging 0x40000 3))) (fun t => rx t 6 == 0 && (fnAt t 0).evHead == 1
      && readPaNat t 0x80000 2 == 0xC004 && readPaNat t 0x80010 4 == 0x030201)
    && leaves (exec (.scallAnswer 1) (logging 0x40000 257)) (fun t => rx t 6 == 0xFFFFFFFFFFFFFFFF)
    && leaves (exec (.scallAnswer 1) (logging 0x00FD000000000000 3)) (fun t => rx t 6 == 0xFFFFFFFFFFFFFFFF)
    && leaves (exec (.scallAnswer 1) (moving_ (logging 0x40000 3))) (fun t => decide (t.hart.status = .inScall 6 7))
    && leaves (exec (.scallAnswer 1) (paging 0x40000)) (fun t => rx t 6 == 0xF) && leaves (exec (.scallAnswer 1) (paging 0x00FD000000000000)) (fun t => rx t 6 == 0xFFFFFFFFFFFFFFFF)
    && leaves (exec (.scallAnswer 1) (moving_ (paging 0x40000))) (fun t => decide (t.hart.status = .inScall 6 7)) = true := by decide +kernel

/-- The check value of CRC-32C, that of the nine digits. -/
theorem test_crc32c : crc32c [0x31, 0x32, 0x33, 0x34, 0x35, 0x36, 0x37, 0x38, 0x39] = 0xE3069283 := by decide +kernel

/-- The image of a saved hart with no galley rows: its size, X1 and the pc. -/
def imaged : List Byte := imageOf (regs (hartWith base fun h => { h with who := { h.who with grows := 0 } }) [(1, 0x1234)])
theorem test_image :
    imaged.length = 0x1400 ∧ natOfBytes (imaged.take 4) = 0x4B435849 ∧ natOfBytes ((imaged.drop 8).take 4) = 0x1400
    ∧ natOfBytes ((imaged.drop 0x108).take 8) = 0x1234 ∧ natOfBytes ((imaged.drop 0x200).take 8) = 0x10000 := by and_intros <;> decide +kernel

/-- The image of the gang that resumes has lost a byte. -/
def damaged : State := damageImage reservedR 1 0x108 0xFF
theorem witness_DistributorEvents_images :
    (match (candidates saved).find? (fun c => c.l.serial == 0 && c.gang == 0) with
     | some c => imagesGood saved c && !imagesGood (damageImage saved 1 0x108 0xFF) c
     | none => false) = true
    ∧ tabWf [] saved.images = true
    ∧ leaves (exec (.placementConfirm true true) damaged) (fun t => t.sched.launches.any fun l => l.serial == 0 && l.aborted) = true := by and_intros <;> decide +kernel

/-- A turn whose function has work while gangs of the other still run. -/
theorem witness_DistributorEvents_shared :
    (let s := shared_ [(0, { fn := 2, left := 3, since := 990000, into := none })]
     othersRun s 2 0 = true ∧ leaves (exec (.worldSwitch 0) s) (fun t => t.hart.stopReq && (turnAt t 0).any (·.into == some 2)) = true)
    ∧ (let s := shared_ [(0, { fn := 1, left := 3, since := 950000, into := none })]
       othersRun s 1 0 = false ∧ s.time < 950000 + partSlice (partReg s 0) * 100000 ∧ leaves (exec (.worldSwitch 0) s) (fun t => decide (t = s)) = true) := by
  decide +kernel

/-- The module has no port that is up; an hour of operation is over. -/
def portless (s : State) : State := withHub s fun h => { h with ports := [] }
def anHour (s : State) : State := withHub s fun h => { h with hourSecs := 3605, coloHour := [(0, 9)] }
theorem witness_FleetEvents_links :
    linkUp fleet = true ∧ linkUp (portless fleet) = false ∧ fleet.hub.hourSecs < 3600 ∧ 3600 ≤ (anHour fleet).hub.hourSecs
    ∧ leaves (exec (.correctedError 0 ⟨0, 0, 0⟩) (anHour fleet)) (fun t => tabGet 0 t.hub.coloHour 0 == 1 && t.hub.hourSecs == 5) = true := by decide +kernel

/-- The page's frame is in the CXL tier, which is out of service; the migration has begun. -/
def cxlGone : State := withHub (dwordAt hosted setupTable (2 ^ 46 + 0xF)) fun h => { h with cxlUp := 0, cxlCap := 2 ^ 37 }
def cxlMoving : State := match execPageMigration 0 0x40000 0 cxlGone with | .next t => after .tlbinvDone t | _ => cxlGone
theorem witness_HostRequests_lost :
    translated 0x40000 = true ∧ leafOk cxlGone (BitVec.ofNat 64 (2 ^ 46 + 0xF)) 36 = true ∧ cxlLost cxlGone (2 ^ 44) = true
    ∧ cxlMoving.migs.find? (fun x => x.1 == 0 && x.2.1 == 0) = some (0, 0, BitVec.ofNat 64 (2 ^ 46 + 0xF)) ∧ cxlMoving.hub.tlbRes ≠ 1
    ∧ leaves (exec (.pageMigration 0 0x40000 (2 ^ 44)) cxlMoving) (fun t => readPaNat t setupTable 8 == 2 ^ 46 + 0xF && t.migs.isEmpty)
    ∧ leaves (exec (.pageMigration 0 0x40000 0) cxlMoving) (fun t => decide (t = cxlMoving))
    ∧ invalidating.hub.tlbRes = 1 ∧ leaves (exec (.pageMigration 0 0x40000 0) invalidating) (fun t => decide (t = invalidating)) = true := by
  and_intros <;> decide +kernel

theorem witness_ModuleRequests_hours :
    hosted.hub.hourSecs < 3600 ∧ 3600 ≤ (anHour hosted).hub.hourSecs ∧ (∀ h ∈ allHarts freezing, h.who.dispatch = true → h.remote = none)
    ∧ leaves (exec .colophonHour hosted) (fun t => decide (t = hosted)) = true := by decide +kernel

/-! ## Accesses under way, errors inside an instruction, and what else befalls a hart (R54, R95, R99, R217, R252, R268 to R271, R377) -/

/-- A state with an instruction at its pc, and with that instruction dispatched and still to perform. -/
def underWay (s : State) (i : Instr) : State := beginLate (bytesAt s s.hart.pc.toNat (bytesOfNat 4 (wordOf i).toNat))
def lates (s : State) : List Late := s.hart.weak.late
def passes (s : State) (i : Instr) : Bool := mayPass s (lates s) i

/-- An LDV under way, and after a SETMODE and a store that come to perform first. -/
def ldvLate : State := underWay vmem (.ldv 1 3)
def retyped : State := bytesAt (after (.setmode 0x10) ldvLate) 0x40000 (rowBytes [99])

theorem test_late_captures :
    (lates ldvLate).length == 1 && [Instr.setmode 0x10, .csrr 3 0x001, .fencex 0xFF 0, .std 2 1 1, .bara 1, .vadd 1 2 2].all (passes ldvLate)
    && !passes ldvLate (.stv 1 1)
    && leaves (performLate true retyped) (fun t => (List.range 4).map (readElem t (winOp t 3 0)) == [99, 11, 12, 13]
        && t.hart.vec.vmode == makeVmode 0x10 && (lates t).isEmpty && t.hart.pc == 0x10008) = true := by decide +kernel

/-- A COPY may be issued, and perform, before an older LDD, but not one whose block the scalar stream loads. -/
def lddLate : State := underWay loads (.ldd 3 1 0)
theorem test_late_engine :
    (lates lddLate).length == 1 && passes lddLate (.copy 2 2 0 0 1) && !passes lddLate (.copyBlock 2 3)
    && leaves (performLate false (bytesAt lddLate 0x40000 [7, 7])) (fun t => rx t 3 == 0x8605040302010707) = true := by decide +kernel

/-- An atomic's store performs within 2 µs. -/
def amoLate : State := underWay loads (.amo 3 1 2 0 0 0 0 0)
theorem test_late_due :
    (lates amoLate).length == 1 && (lates (lateDue { amoLate with time := amoLate.time + 1999 })).length == 1
    && (lates (lateDue { amoLate with time := amoLate.time + 2000 })).isEmpty = true := by decide +kernel

/-- An uncorrectable error at element k of the window of a role. -/
def struck (s : State) (k role : Nat) : State := hartWith s fun h => { h with strike := some (.fault k role 3) }
def struckPos (s : State) (i : Instr) (k role : Nat) : Word :=
  match exec i (struck s k role) with
  | .next t => if t.hart.trap.tcause == 0x80000000000000E0 then t.hart.trap.tpos else 0
  | _ => 0

theorem test_struck :
    struckPos vint (.vfma 3 1 2) 2 1 == 0x0580000010080002 && struckPos vint (.vadd 3 1 2) 2 1 == 0x0500000010080002
    && struckPos vpairs (.spadd 5 1 2) 1 0 == 0x1400000010280001
    && leaves (exec (.vadd 3 1 2) (struck (masked 1 vint) 2 1)) (fun t => t.hart.pc == 0x10004) = true := by decide +kernel

/-- The frame of a WSPILL is in a page that is not valid: the trap names W1. -/
theorem test_spill_fault :
    leaves (exec (.wspill 1 1) (regs vint [(1, 0x1000000000)])) (fun t => t.hart.trap.tcause == 0x8000000000000041 && t.hart.trap.tval == 0x1000000000
      && t.hart.trap.tpos == 0x0500000000000000 && t.hart.trap.twin == rowWin 1 4 3) = true := by decide +kernel

/-- A line that leaves its die cache breaks the link on it. -/
theorem test_line_leaves :
    leaves (perform { linked with lines := [{ quad := none, set := 0, way := 0, line := 0x1000, own := 0 }] } (.cacheDrop none 0x1000))
      (fun t => leaves (exec (.scond 3 4 1) t) fun u => rm u 0 == 0) = true := by decide +kernel

/-- Each counter keeps the barrier bound to it. -/
theorem test_sbind_each :
    leaves (exec (.sbind 3 9) engines) (fun t => boundBarrier t 2 == some 5 && boundBarrier t 3 == some 9
      && boundBarrier (after (.copy 2 2 0 0 1) t) 3 == some 9 && boundBarrier (after (.copy 2 2 0 0 1) t) 2 == none) = true := by decide +kernel

/-- A hart with an access to a remote module open is not stopped. -/
theorem test_remote_not_stopped :
    leaves (exec (.preemptionPointReached 1) (hartWith asked fun h => { h with remote := some true })) (fun t => !t.hart.stopped) = true := by decide +kernel

end Sys2Proof.Tests
end

section
/-!
SUPPORT. Completing an instruction, as the statements say it: `settled`, `countersKept`, `retires` and `givesX`.
-/
namespace Sys2Proof.Proofs

open Sys2Proof Sys2Proof.Machine Sys2Proof.Safety

/-! ## Counters that an overflow marks (R364) -/

theorem countersKept_refl (s : State) : countersKept s s := ⟨fun _ => rfl, fun _ => rfl, [], (List.append_nil _).symm⟩

theorem countersKept_trans {s t u : State} (h : countersKept s t) (k : countersKept t u) : countersKept s u := by
  obtain ⟨hsel, hfn, l, hl⟩ := h
  obtain ⟨ksel, kfn, m, hm⟩ := k
  exact ⟨fun i => (ksel i).trans (hsel i), fun f => (kfn f).trans (hfn f), l ++ m, by rw [hm, hl, List.append_assoc]⟩

/-- What an overflow marks depends on the selectors, the functions' registers and the messages alone. -/
theorem countersKept_of_eq {s t : State} (hsel : t.hart.evsel = s.hart.evsel) (hfn : t.hub.fns = s.hub.fns) (hm : t.msix = s.msix) :
    countersKept s t :=
  ⟨fun _ => by rw [hsel], fun _ => by unfold fnAt; rw [hfn], [], by rw [hm, List.append_nil]⟩

/-- A field set to all ones makes the number nonzero. -/
theorem wSet_one_ne_zero (w : Word) (i : Fin 8) : wSet w i.val 1 1 ≠ 0#64 := by
  intro h
  have hi : i.val < 64 := Nat.lt_trans i.isLt (by decide)
  have hbit : (wSet w i.val 1 1).getLsbD i.val = true := by
    unfold wSet
    rw [show 1 % 2 ^ 1 * 2 ^ i.val = 2 ^ i.val from Nat.one_mul _, BitVec.getLsbD_or, BitVec.getLsbD_ofNat, Nat.testBit_two_pow_self,
      decide_eq_true hi]
    exact Bool.or_true _
  rw [h, BitVec.getLsbD_zero] at hbit
  exact Bool.noConfusion hbit

/-- Writing a value that a key not listed does not read as, read back, whatever the table. -/
theorem tabGet_set_listed {α : Type} [DecidableEq α] (d : α) (t : List (Nat × α)) (a b : Nat) (v : α) (hv : v ≠ d) :
    tabGet d (tabSet d t a v) b = if b = a then v else tabGet d t b := by
  unfold tabSet
  rw [if_neg hv]
  split
  · next h => subst h; exact tabGet_insert_same ..
  · next h => exact tabGet_insert_other _ _ _ _ _ h

theorem fnAt_setFn (s : State) (f g : Nat) (r : FnRegs) (hr : r ≠ FnRegs.init) :
    fnAt (setFn s f r) g = if g = f then r else fnAt s g := tabGet_set_listed _ _ _ _ _ hr

theorem queueAt_setQueue (s : State) (q k : Nat) (r : QueueRegs) (hr : r ≠ QueueRegs.init) :
    queueAt (setQueue s q r) k = if k = q then r else queueAt s k := tabGet_set_listed _ _ _ _ _ hr

/-- An overflow at counter i marks its selector and the function's register. -/
theorem countersKept_mark {s t : State} (i : Fin 8) (st : Word) (hst : st ≠ 0#64)
    (hsel : t.hart.evsel = s.hart.evsel.set i.val (s.hart.evsel.get i ||| 0x10000000#64) i.isLt)
    (hfn : t.hub.fns = (setFn s s.hart.who.fn { fnAt s s.hart.who.fn with ovfStat := st }).hub.fns)
    (hm : ∃ l, t.msix = s.msix ++ l) : countersKept s t := by
  refine ⟨fun j => ?_, fun g => ?_, hm⟩
  · rw [hsel, get_set]
    split
    · next h => rw [show i = j from Fin.ext h, BitVec.or_assoc, BitVec.or_self]
    · rfl
  · have e : fnAt t g = fnAt (setFn s s.hart.who.fn { fnAt s s.hart.who.fn with ovfStat := st }) g :=
      congrArg (fun x => tabGet FnRegs.init x g) hfn
    rw [e, fnAt_setFn _ _ _ _ fun h => hst (congrArg FnRegs.ovfStat h)]
    split
    · next h => rw [h]
    · rfl

theorem evOverflow_countersKept (s : State) (i : Fin 8) : countersKept s (evOverflow s i) := by
  unfold evOverflow
  dsimp only
  split
  · exact countersKept_mark i _ (wSet_one_ne_zero _ i) rfl rfl ⟨_, rfl⟩
  · exact countersKept_mark i _ (wSet_one_ne_zero _ i) rfl rfl ⟨[], (List.append_nil _).symm⟩

theorem evAdd_countersKept (code n : Nat) (s : State) (i : Fin 8) : countersKept s (evAdd code n s i) := by
  unfold evAdd
  split
  · dsimp only
    split
    · exact countersKept_trans (countersKept_of_eq rfl rfl rfl) (evOverflow_countersKept _ i)
    · exact countersKept_of_eq rfl rfl rfl
  · exact countersKept_refl s

theorem evCount_countersKept (code n : Nat) (s : State) : countersKept s (evCount code n s) := by
  unfold evCount
  split
  · exact countersKept_refl s
  · generalize ([0, 1, 2, 3, 4, 5, 6, 7] : List (Fin 8)) = l
    induction l generalizing s with
    | nil => exact countersKept_refl s
    | cons i t ih => exact countersKept_trans (evAdd_countersKept code n s i) (ih _)

theorem complete_countersKept (s : State) (pc : Word) : countersKept s (complete s pc) :=
  countersKept_trans (evCount_countersKept 2 1 s) (countersKept_of_eq rfl rfl rfl)

/-! ## Completion -/

theorem settled_self (s : State) : settled s s = s := rfl

/-- The end of an instruction changes nothing that `settled` leaves in view. -/
@[simp] theorem settled_complete (s t : State) (pc : Word) : settled s (complete t pc) = settled s t := by
  unfold complete
  rw [evCount_only 2 1 t]
  rfl

@[simp] theorem settled_advance (s t : State) : settled s (advance t) = settled s t := settled_complete s t _

/-- An instruction whose effect is `t`, and that goes on at `pc`. -/
theorem completes_complete {s t : State} {P : State → Prop} (pc : Word) (hsel : t.hart.evsel = s.hart.evsel)
    (hfn : t.hub.fns = s.hub.fns) (hm : t.msix = s.msix) (hP : P (complete t pc)) : completes (.next (complete t pc)) s pc P :=
  ⟨_, rfl, by simp, by simp, by simp, by simp,
    countersKept_trans (countersKept_of_eq hsel hfn hm) (complete_countersKept t pc), hP⟩

/-- The same, with the next instruction following. -/
theorem retires_advance {s t : State} {P : State → Prop} (hpc : t.hart.pc = s.hart.pc) (hsel : t.hart.evsel = s.hart.evsel)
    (hfn : t.hub.fns = s.hub.fns) (hm : t.msix = s.msix) (hP : P (advance t)) : retires (.next (advance t)) s P := by
  unfold retires
  rw [← hpc]
  exact completes_complete _ hsel hfn hm hP

theorem wx_hart_x_only (s : State) (d : BitVec 5) (v : Word) : wx s d v = { s with hart := { s.hart with x := (wx s d v).hart.x } } := by
  unfold wx
  split <;> rfl

theorem wroteX_wx (s : State) (d : BitVec 5) (v : Word) : wroteX s (wx s d v) d v := by
  refine ⟨?_, fun r hr => rx_wx_other s d r v hr⟩
  split
  · next h => rw [h]; rfl
  · next h => exact rx_wx_same s d v h

/-- What a register write shows depends on the register files alone. -/
theorem wroteX_congr {s s' t t' : State} {d : BitVec 5} {v : Word} (hs : s'.hart.x = s.hart.x) (ht : t'.hart.x = t.hart.x)
    (h : wroteX s t d v) : wroteX s' t' d v := by
  unfold wroteX rx at h ⊢
  rw [hs, ht]
  exact h

/-- A register result that starts in `t`, an `s` with other things changed. -/
theorem retires_setX {s t : State} {P : State → Prop} (d : BitVec 5) (v : Word) (hpc : t.hart.pc = s.hart.pc)
    (hsel : t.hart.evsel = s.hart.evsel) (hfn : t.hub.fns = s.hub.fns) (hm : t.msix = s.msix) (hP : P (advance (wx t d v))) :
    retires (setX t d v) s P :=
  retires_advance (by simp [hpc]) (by simp [hsel]) (by simp [hfn]) (by simp [hm]) hP

theorem wroteX_setX {s t : State} (d : BitVec 5) (v : Word) (hx : t.hart.x = s.hart.x) : wroteX s (advance (wx t d v)) d v :=
  wroteX_congr hx.symm (advance_hart_x _) (wroteX_wx t d v)

theorem givesX_setX (s : State) (d : BitVec 5) (v : Word) : givesX (setX s d v) s d v := by
  refine retires_setX d v rfl rfl rfl rfl ⟨wroteX_setX d v rfl, ?_⟩
  rw [settled_advance, advance_hart_x, wx_hart_x_only]
  rfl

end Sys2Proof.Proofs
end

section
/-!
SUPPORT. What stores leave alone: only bytes, poison marks and link tags change, whoever stores (R217, R265 to R268, R341).
-/
namespace Sys2Proof.Proofs

open Sys2Proof Sys2Proof.Machine Sys2Proof.Safety

/-- From `s` to `t` stores have performed: but for memory, marks, banks and link tags nothing has changed. -/
def StoresOnly (s t : State) : Prop :=
  t = { s with
    mem := t.mem, poison := t.poison, banks := t.banks, others := t.others
    hart := { s.hart with eng := { s.hart.eng with link := t.hart.eng.link } } }
  ∧ t.others.map unlinked = s.others.map unlinked

theorem StoresOnly.refl (s : State) : StoresOnly s s := ⟨rfl, rfl⟩

theorem StoresOnly.trans {s t u : State} (h : StoresOnly s t) (k : StoresOnly t u) : StoresOnly s u := by
  obtain ⟨h1, h2⟩ := h
  obtain ⟨k1, k2⟩ := k
  exact ⟨by rw [k1, h1], k2.trans h2⟩

theorem unlinked_breakTag (h : Hart) (line : Nat) (exc : Option Nat) :
    unlinked (if exc = some h.who.id then h else match h.eng.link with
      | none => h
      | some ls => { h with eng := { h.eng with link := some (ls.map fun p => if p.1 = line then (p.1, false) else p) } }) = unlinked h := by
  split
  · rfl
  · split <;> rfl

theorem breakLine_stores (line : Nat) (exc : Option Nat) (s : State) : StoresOnly s (breakLine line exc s) := by
  constructor
  · unfold breakLine mapHarts
    dsimp only
    split
    · rfl
    · split <;> rfl
  · simp only [breakLine, mapHarts, List.map_map]
    exact List.map_congr_left fun h _ => unlinked_breakTag h line exc

theorem putBytes_stores {s t : State} {l : Loc} {exc : Option Nat} {va : Nat} {bs : List Byte} (h : putBytes s l exc va bs = .ok t) :
    StoresOnly s t := by
  unfold putBytes at h
  split at h
  · cases h
    exact StoresOnly.trans (by exact ⟨rfl, rfl⟩) (breakLine_stores _ _ _)
  · dsimp only at h
    split at h
    · cases h
    · cases h
      exact StoresOnly.trans (by exact ⟨rfl, rfl⟩) (breakLine_stores _ _ _)
  · cases h

theorem performOne_stores (s : State) (x : Posted) : StoresOnly s (performOne s x) := by
  unfold performOne
  split
  · next h => exact putBytes_stores h
  · exact StoresOnly.refl s

theorem performAll_stores (xs : List Posted) (s : State) : StoresOnly s (xs.foldl performOne s) := by
  induction xs generalizing s with
  | nil => exact StoresOnly.refl s
  | cons x t ih => exact StoresOnly.trans (performOne_stores s x) (ih _)

/-- On a path that holds no store back, a store performs. -/
theorem storeNat_stores {s t : State} {p : Path} {va n v : Nat} {rf : Refuse} (hp : p.post = none) (h : storeNat s p va n v rf = .ok t) :
    StoresOnly s t := by
  obtain ⟨l, -, hl⟩ := bind_ok h
  rw [storeAt_now hp] at hl
  exact putBytes_stores hl

theorem storeBytes_stores {p : Path} (hp : p.post = none) (bs : List Byte) {s t : State} {va : Nat} (h : storeBytes s p va bs = .ok t) :
    StoresOnly s t := by
  induction bs generalizing s va with
  | nil => cases h; exact StoresOnly.refl _
  | cons b bs ih =>
    obtain ⟨u, hu, ht⟩ := bind_ok h
    exact StoresOnly.trans (storeNat_stores hp hu) (ih ht)

theorem clearPoisonAt_stores (s t : State) (p : Path) (va n : Nat) : StoresOnly t (clearPoisonAt s t p va n) := by
  unfold clearPoisonAt
  split <;> exact ⟨rfl, rfl⟩

theorem storeBlock_stores {s t : State} {p : Path} {va : Nat} {bs : List Byte} (hp : p.post = none) (h : storeBlock s p va bs = .ok t) :
    StoresOnly s t := by
  obtain ⟨u, hu, ht⟩ := bind_ok h
  cases ht
  exact StoresOnly.trans (storeBytes_stores hp bs hu) (clearPoisonAt_stores ..)

theorem logStore_stores (s : State) (f va : Nat) (bs : List Byte) : StoresOnly s (logStore s f va bs) := by
  unfold logStore
  split
  · next h => exact storeBlock_stores rfl h
  · split
    · split
      · next h => exact storeBlock_stores rfl h
      · exact StoresOnly.refl s
    · exact StoresOnly.refl s
  · exact StoresOnly.refl s

section
variable {s t : State} (h : StoresOnly s t)
include h

theorem StoresOnly.hart_eq : t.hart = { s.hart with eng := { s.hart.eng with link := t.hart.eng.link } } := by rw [h.1]
theorem StoresOnly.others_eq : t.others.map unlinked = s.others.map unlinked := h.2
theorem StoresOnly.sched_eq : t.sched = s.sched := by rw [h.1]
theorem StoresOnly.hub_eq : t.hub = s.hub := by rw [h.1]
theorem StoresOnly.cores_eq : t.cores = s.cores := by rw [h.1]
theorem StoresOnly.msix_eq : t.msix = s.msix := by rw [h.1]
theorem StoresOnly.images_eq : t.images = s.images := by rw [h.1]

end

/-! ## Events (R341) -/

/-- The state in which the hub stores an event record, if the log is on. -/
def eventStored (s : State) (f : Nat) (bytes : List Byte) : State :=
  let r := fnAt s f
  if 6 ≤ r.evLg && r.evLg ≤ 16 then logStore s f (r.evBase.toNat + r.evHead.toNat % 2 ^ r.evLg * 64) bytes else s

theorem eventStored_stores (s : State) (f : Nat) (bytes : List Byte) : StoresOnly s (eventStored s f bytes) := by
  unfold eventStored
  dsimp only
  split
  · exact logStore_stores ..
  · exact StoresOnly.refl s

/-- An event record is stored, counted and reported. -/
theorem writeEvent_eq (s : State) (f : Nat) (bytes : List Byte) :
    writeEvent s f bytes =
      sendMsix (setFn (eventStored s f bytes) f { fnAt s f with evHead := (fnAt s f).evHead + 1 }) f 0 := by
  have hf : fnAt (eventStored s f bytes) f = fnAt s f := by unfold fnAt; rw [(eventStored_stores s f bytes).hub_eq]
  have e : writeEvent s f bytes = sendMsix (setFn (eventStored s f bytes) f
      { fnAt (eventStored s f bytes) f with evHead := (fnAt s f).evHead + 1 }) f 0 := rfl
  rw [e, hf]

@[simp] theorem writeEvent_cores (s : State) (f : Nat) (bytes : List Byte) : (writeEvent s f bytes).cores = s.cores := by
  rw [writeEvent_eq]; exact (eventStored_stores s f bytes).cores_eq

@[simp] theorem writeEvent_sched (s : State) (f : Nat) (bytes : List Byte) : (writeEvent s f bytes).sched = s.sched := by
  rw [writeEvent_eq]; exact (eventStored_stores s f bytes).sched_eq

@[simp] theorem writeEvent_msix (s : State) (f : Nat) (bytes : List Byte) : (writeEvent s f bytes).msix = s.msix ++ [(f, 0)] := by
  rw [writeEvent_eq]; exact congrArg (· ++ _) (eventStored_stores s f bytes).msix_eq

theorem writeEvent_hart (s : State) (f : Nat) (bytes : List Byte) :
    (writeEvent s f bytes).hart = { s.hart with eng := { s.hart.eng with link := (writeEvent s f bytes).hart.eng.link } } := by
  rw [writeEvent_eq]; exact (eventStored_stores s f bytes).hart_eq

theorem writeEvent_others (s : State) (f : Nat) (bytes : List Byte) :
    (writeEvent s f bytes).others.map unlinked = s.others.map unlinked := by
  rw [writeEvent_eq]; exact (eventStored_stores s f bytes).others_eq

/-- Of the hub's registers only the function's counts an event. -/
theorem writeEvent_hub (s : State) (f : Nat) (bytes : List Byte) :
    (writeEvent s f bytes).hub = { s.hub with fns := (writeEvent s f bytes).hub.fns } := by
  rw [writeEvent_eq]
  have := (eventStored_stores s f bytes).hub_eq
  simp only [sendMsix_hub, setFn, this]

/-! ## Stores that are held back -/

/-- Draining a stream: its stores perform, and none is held back any more. -/
theorem drain_eq (s : State) (vec : Bool) : ∃ u, StoresOnly s u ∧ drain s vec = setPosted u vec [] := by
  unfold drain
  split
  · next h =>
    refine ⟨s, StoresOnly.refl s, ?_⟩
    have : s.hart.weak.setPosted vec [] = s.hart.weak := by rw [← h]; cases vec <;> rfl
    unfold setPosted
    rw [this]
  · exact ⟨_, performAll_stores _ s, rfl⟩

@[simp] theorem drain_cores (s : State) (vec : Bool) : (drain s vec).cores = s.cores := by
  obtain ⟨u, hu, e⟩ := drain_eq s vec
  rw [e]; exact hu.cores_eq

/-- Before an access of the scalar stream its stores perform: of the hart only what is held back, its views and its link tags
change. -/
theorem syncScalar_eq (s : State) : ∃ u, StoresOnly s u ∧ syncScalar s = dropScalar (setPosted u false []) := by
  obtain ⟨u, hu, e⟩ := drain_eq s false
  exact ⟨u, hu, by rw [syncScalar, e]⟩

theorem syncScalar_hart (s : State) : (syncScalar s).hart =
    { s.hart with
      weak := { s.hart.weak with postS := [], viewS := none }
      eng := { s.hart.eng with link := (syncScalar s).hart.eng.link } } := by
  obtain ⟨u, hu, e⟩ := syncScalar_eq s
  rw [e]
  simp only [dropScalar, setPosted, Weak.setPosted]
  rw [hu.hart_eq]
  rfl

@[simp] theorem syncScalar_sched (s : State) : (syncScalar s).sched = s.sched := by
  obtain ⟨u, hu, e⟩ := syncScalar_eq s
  rw [e]; exact hu.sched_eq

@[simp] theorem syncScalar_hub (s : State) : (syncScalar s).hub = s.hub := by
  obtain ⟨u, hu, e⟩ := syncScalar_eq s
  rw [e]; exact hu.hub_eq

@[simp] theorem syncScalar_who (s : State) : (syncScalar s).hart.who = s.hart.who := by rw [syncScalar_hart]
@[simp] theorem syncScalar_vec (s : State) : (syncScalar s).hart.vec = s.hart.vec := by rw [syncScalar_hart]
@[simp] theorem syncScalar_launchRec (s : State) : (syncScalar s).hart.eng.launchRec = s.hart.eng.launchRec := by rw [syncScalar_hart]
@[simp] theorem rx_syncScalar (s : State) (r : BitVec 5) : rx (syncScalar s) r = rx s r := by unfold rx; rw [syncScalar_hart]
@[simp] theorem fenced_syncScalar (s : State) (cls : Nat) : fenced (syncScalar s) cls = fenced s cls := by
  unfold fenced outstanding; rw [syncScalar_hart]

end Sys2Proof.Proofs
end

section
/-!
LAUNCH and LAUNCH.W (R30, R31, R135, R310, R313, R314).
-/
namespace Sys2Proof.Proofs

open Sys2Proof Sys2Proof.Machine Sys2Proof.Safety

/-! ## Serial numbers (R14) -/

theorem launchAt_none {s : State} {n : Nat} (h : (launchAt s n).isSome = false) : ∀ m ∈ s.sched.launches, m.serial ≠ n := by
  simpa [launchAt] using h

/-- The serial number that is found is free, or every one before the last was taken. -/
theorem freshSerial_cases (s : State) (k n : Nat) :
    (∀ m ∈ s.sched.launches, m.serial ≠ freshSerial s k n)
    ∨ (freshSerial s k n = (n + k) % 2 ^ 32 ∧ ∀ j < k, ∃ m ∈ s.sched.launches, m.serial = (n + j) % 2 ^ 32) := by
  induction k generalizing n with
  | zero => exact .inr ⟨rfl, fun j hj => absurd hj (by omega)⟩
  | succ k ih =>
    unfold freshSerial
    split
    · next hn =>
      refine (ih (n + 1)).imp_right fun ⟨he, ht⟩ => ⟨by rw [he]; congr 1; omega, fun j hj => ?_⟩
      cases j with
      | zero => simpa [launchAt] using hn
      | succ j =>
        obtain ⟨m, hm, e⟩ := ht j (by omega)
        exact ⟨m, hm, by rw [e]; congr 1; omega⟩
    · next hn => exact .inl (launchAt_none (by simpa using hn))

/-- A list that holds `k` distinct numbers has at least `k` places. -/
theorem le_length_of_distinct (f : Nat → Nat) (k : Nat) (l : List Nat) (hmem : ∀ j < k, f j ∈ l)
    (hinj : ∀ i < k, ∀ j < k, f i = f j → i = j) : k ≤ l.length := by
  induction k generalizing l with
  | zero => exact Nat.zero_le _
  | succ k ih =>
    have hlast := hmem k (Nat.lt_succ_self k)
    have hrest : ∀ j < k, f j ∈ l.erase (f k) := fun j hj =>
      (List.mem_erase_of_ne fun e => Nat.ne_of_lt hj (hinj j (by omega) k (by omega) e)).mpr (hmem j (by omega))
    have hle := ih (l.erase (f k)) hrest fun i hi j hj => hinj i (by omega) j (by omega)
    rw [List.length_erase_of_mem hlast] at hle
    have hpos := List.length_pos_of_mem hlast
    omega

/-- A launch's serial number is no pending launch's: there are more numbers than the store has entries. -/
theorem freshSerial_fresh (s : State) (n : Nat) (h : s.sched.launches.length < 65536) :
    ∀ m ∈ s.sched.launches, m.serial ≠ freshSerial s s.sched.launches.length n := by
  intro m hm e
  obtain hfree | ⟨hlast, htaken⟩ := freshSerial_cases s s.sched.launches.length n
  · exact hfree m hm e
  · have htried : ∀ j < s.sched.launches.length + 1, (n + j) % 2 ^ 32 ∈ s.sched.launches.map (·.serial) := by
      intro j hj
      rw [List.mem_map]
      rcases Nat.lt_or_ge j s.sched.launches.length with hlt | hge
      · exact htaken j hlt
      · exact ⟨m, hm, by rw [e, hlast, show j = s.sched.launches.length by omega]⟩
    have hle := le_length_of_distinct (fun j => (n + j) % 2 ^ 32) _ _ htried fun i hi j hj hij => by
      omega
    rw [List.length_map] at hle
    omega

/-! ## The store (R313, R314) -/

theorem fnQuits_iff (s : State) (f : Nat) : fnQuits s f = true ↔ (fnAt s f).reset = true ∧ ¬(f = 0 ∧ s.hub.pfPend = true) := by
  simp only [fnQuits, Bool.and_eq_true, Bool.not_eq_true', ← Bool.not_eq_true, beq_iff_eq]

/-- From `s` to `t` the record `ws` has been taken into the store, as a launch of the hart's function and queue. -/
def enqueued (s t : State) (ws : List Word) : Prop :=
  ∃ l, t.sched.launches = s.sched.launches ++ [l] ∧ l.desc = recOf ws ∧ l.queue = s.hart.who.queue ∧ l.fn = s.hart.who.fn
    ∧ l.troot = s.hart.who.troot ∧ l.gangs = [] ∧ l.started = 0 ∧ l.gdone = 0
    ∧ (l.aborted = true ↔ (fnAt s s.hart.who.fn).reset = true ∧ ¬(s.hart.who.fn = 0 ∧ s.hub.pfPend = true))
    ∧ ∀ m ∈ s.sched.launches, m.serial ≠ l.serial

theorem enqueued_enqueue (s : State) (ws : List Word) (hroom : s.sched.launches.length < 65536) : enqueued s (enqueue s ws) ws :=
  ⟨_, rfl, rfl, rfl, rfl, rfl, rfl, rfl, rfl, fnQuits_iff s _, freshSerial_fresh s _ hroom⟩

/-- What the store takes depends on the hart, the store and the hub alone. -/
theorem enqueued_congr {s s' t t' : State} {ws : List Word} (hw : s'.hart.who = s.hart.who) (hs : s'.sched = s.sched)
    (hh : s'.hub = s.hub) (ht : t'.sched = t.sched) (h : enqueued s t ws) : enqueued s' t' ws := by
  unfold enqueued fnAt at h ⊢
  rw [hw, hs, hh, ht]
  exact h

/-- While no record waits, forgetting it changes nothing. -/
theorem setLaunchRec_none {s : State} (h : s.hart.eng.launchRec = none) : setLaunchRec s none = s := by
  unfold setLaunchRec withEng
  rw [← h]

/-- With room in the store the record is enqueued, and the result is 0. -/
theorem launchRoom_room (s : State) (d : BitVec 5) (wt : Bool) (ws : List Word) (hroom : s.sched.launches.length < 65536) :
    retires (launchRoom s d wt ws) s fun t => wroteX s t d 0 ∧ enqueued s t ws ∧ t.mem = s.mem ∧ t.hart.vec = s.hart.vec := by
  have hfull : storeFull s = false := decide_eq_false (by omega)
  unfold launchRoom
  rw [hfull]
  refine retires_setX d 0 rfl rfl rfl rfl ⟨wroteX_setX d 0 rfl, ?_, ?_, ?_⟩
  · exact enqueued_congr rfl rfl rfl (by simp) (enqueued_enqueue (setLaunchRec s none) ws hroom)
  · simp [enqueue, setLaunchRec]
  · simp [enqueue, setLaunchRec]

/-- With a full store LAUNCH gives 1. -/
theorem launchRoom_full (s : State) (d : BitVec 5) (ws : List Word) (hrec : s.hart.eng.launchRec = none)
    (hfull : 65536 ≤ s.sched.launches.length) : givesX (launchRoom s d false ws) s d 1 := by
  unfold launchRoom
  rw [show storeFull s = true from decide_eq_true hfull, setLaunchRec_none hrec]
  exact givesX_setX s d 1

/-- LAUNCH.W parks there, with the record it has read. -/
theorem launchRoom_parks (s : State) (d : BitVec 5) (ws : List Word) (hfull : 65536 ≤ s.sched.launches.length) :
    ∃ t, launchRoom s d true ws = .next t ∧ t.hart.status = .waiting .launchW ∧ t.hart.eng.launchRec = some (true, ws)
      ∧ t.hart.pc = s.hart.pc := by
  unfold launchRoom
  rw [show storeFull s = true from decide_eq_true hfull]
  exact ⟨_, rfl, rfl, rfl, rfl⟩

/-! ## The record's test (R31) -/

/-- A record that has been read is tested. -/
theorem launchRun_read {s : State} {a : BitVec 5} {ws : List Word} (d : BitVec 5) (wt : Bool) (hrec : s.hart.eng.launchRec = none)
    (hread : blockRead s a 8 ws) : launchRun s d a wt = launchTest (syncScalar s) d a wt ws := by
  obtain ⟨halign, hfence, hload⟩ := hread
  unfold launchRun
  rw [hrec]
  simp [halign, hfence, hload, loadOut]

section
variable {s : State} {ws : List Word} (d a : BitVec 5) (wt : Bool)

/-- A well-formed record goes to the store. -/
theorem launchTest_good (hgood : recBad s (identSpace s s.hart.who) s.hart.who.fn (launchMaxClass s) ws = .ok false) :
    launchTest s d a wt ws = launchRoom s d wt ws := by
  unfold launchTest
  rw [hgood]

/-- A malformed one gives 2. -/
theorem launchTest_bad (hrec : s.hart.eng.launchRec = none) (hdis : s.hart.who.dispatch = false)
    (hbad : recBad s (identSpace s s.hart.who) s.hart.who.fn (launchMaxClass s) ws = .ok true) :
    givesX (launchTest s d a wt ws) s d 2 := by
  unfold launchTest
  rw [hbad]
  simp only [hdis, setLaunchRec_none hrec]
  exact givesX_setX s d 2

/-- In a dispatch hart it is a trap of the supervisor class, and the program ends (R310). -/
theorem launchTest_bad_dispatch (hrec : s.hart.eng.launchRec = none) (hdis : s.hart.who.dispatch = true)
    (hbad : recBad s (identSpace s s.hart.who) s.hart.who.fn (launchMaxClass s) ws = .ok true) :
    launchTest s d a wt ws = .next (takeTrap s (plainTrap causeLaunchBad (rx s a))) := by
  unfold launchTest
  rw [hbad]
  simp only [hdis, setLaunchRec_none hrec]
  rfl

end

/-- A cause of the supervisor class halts the hart, whatever UTVEC says (R137). -/
theorem takeTrap_supervisor (s : State) (t : Trap) (hc : handlerClass t.cause = false) :
    takeTrap s t = haltHart { s with hart := withTrap s.hart t } t.cause t.lane t.tval (trapRegs s.hart t).tepc (trapRegs s.hart t).tpos := by
  unfold takeTrap
  simp only [hc, Bool.false_and]
  rfl

/-- A queue's registers, once an error has been reported in them. -/
theorem queueAt_endProgram (s : State) (cause : BitVec 8) (tval : Word) :
    queueAt (endProgram s cause tval) s.hart.who.queue =
      { queueAt s s.hart.who.queue with cause := cause, mberr := tval, err := true } := by
  have hne : ({ queueAt s s.hart.who.queue with cause := cause, mberr := tval, err := true } : QueueRegs) ≠ QueueRegs.init :=
    fun h => Bool.noConfusion (show true = false from congrArg QueueRegs.err h)
  exact (queueAt_setQueue s _ _ _ hne).trans (if_pos rfl)

/-- In a dispatch hart such a cause ends the program, and is reported in its queue's registers (R310). -/
theorem takeTrap_dispatch (s : State) (t : Trap) (hc : handlerClass t.cause = false) (hdis : s.hart.who.dispatch = true) :
    (takeTrap s t).hart.status = .halted
    ∧ queueAt (takeTrap s t) s.hart.who.queue =
      { queueAt s s.hart.who.queue with cause := t.cause, mberr := t.tval, err := true } := by
  rw [takeTrap_supervisor s t hc]
  unfold haltHart
  simp only [withTrap, hdis, if_true]
  exact ⟨rfl, queueAt_endProgram ..⟩

/-! ## LAUNCH and LAUNCH.W -/

/-- Settles O51: once the record is read, its test and then the room in the store decide. -/
theorem launchInstructions : Obligations.LaunchInstructions := by
  intro s d a ws bad u queued hrec hread htest
  have hrecU : u.hart.eng.launchRec = none := by rw [← hrec]; exact syncScalar_launchRec s
  have hwho : u.hart.who = s.hart.who := syncScalar_who s
  have hsched : u.sched = s.sched := syncScalar_sched s
  have hL (wt : Bool) : launchRun s d a wt = launchTest u d a wt ws := launchRun_read d wt hrec hread
  have hLaunch : exec (.launch d a) s = launchTest u d a false ws := hL false
  have hLaunchW : exec (.launchW d a) s = launchTest u d a true ws := hL true
  rw [← hwho] at htest
  have hroom (hgood : bad = false) (hlen : s.sched.launches.length < 65536) (wt : Bool) : queued (launchTest u d a wt ws) := by
    subst hgood
    rw [launchTest_good d a wt htest]
    obtain ⟨t, ho, hpc, hst, hrem, hpin, hkept, hx, henq, hmem, hvec⟩ := launchRoom_room u d wt ws (by rw [hsched]; exact hlen)
    exact ⟨t, ho, hpc, hst, hrem, hpin, hkept, hx, enqueued_congr hwho.symm hsched.symm (syncScalar_hub s).symm rfl henq, hmem,
      hvec.trans (syncScalar_vec s)⟩
  rw [hLaunch, hLaunchW]
  refine ⟨fun hbad hdis => ?_, fun hbad hdis => ?_, fun hgood hlen => ?_, fun hgood hlen => ?_⟩
  · subst hbad
    rw [← hwho] at hdis
    exact ⟨launchTest_bad d a false hrecU hdis htest, launchTest_bad d a true hrecU hdis htest⟩
  · subst hbad
    rw [← hwho] at hdis
    obtain ⟨hst, hq⟩ := takeTrap_dispatch u (plainTrap causeLaunchBad (rx u a)) rfl hdis
    refine ⟨_, launchTest_bad_dispatch d a false hrecU hdis htest, hst, ?_⟩
    rw [hwho] at hq
    rw [hq, show rx u a = rx s a from rx_syncScalar s a]
    unfold queueAt
    rw [show u.hub = s.hub from syncScalar_hub s]
    rfl
  · exact ⟨hroom hgood hlen false, hroom hgood hlen true⟩
  · subst hgood
    rw [← hsched] at hlen
    rw [launchTest_good d a false htest, launchTest_good d a true htest]
    obtain ⟨t, ho, hst, hr, hpc⟩ := launchRoom_parks u d ws hlen
    exact ⟨launchRoom_full u d ws hrecU hlen, t, ho, hst, hr, hpc.trans (by rw [show u.hart = _ from syncScalar_hart s])⟩

end Sys2Proof.Proofs
end

section
/-!
The wakes of waiting harts (R20, R129, R130, R135, R204, R220, R231, R252, R257, R337, R340, R376).
-/
namespace Sys2Proof.Proofs

open Sys2Proof Sys2Proof.Machine Sys2Proof.Safety

/-! ## A parked hart -/

theorem waitsAt_instrAt {t : State} {w : Wait} {i : Instr} (h : waitsAt t w i) : instrAt t = some i := by
  obtain ⟨-, -, x, hx, hi⟩ := h
  unfold instrAt
  rw [hx]
  simp only [hi]
  rfl

/-- A wake whose instruction, performed from the park on, completes, is that completion. -/
theorem wake_completes {s t r : State} {hid : Nat} {w : Wait} {i : Instr} {f : State → Instr → Option Out} {pc : Word} {P : State → Prop}
    (hf : focus s hid = some t) (hw : waitsAt t w i) (ho : ∃ o, f t i = some o ∧ completes o r pc P) : completes (wake s hid w f) r pc P := by
  obtain ⟨_, hfi, u, rfl, hpc, hst, hrest⟩ := ho
  obtain ⟨hwait, hact, -⟩ := id hw
  have e : wake s hid w f = .next u := by
    unfold wake
    rw [hf]
    simp [hact, hwait, waitsAt_instrAt hw, hfi, hst]
  exact ⟨u, e, hpc, hst, hrest⟩

/-- The streams' views end, and nothing else changes, where a wait is over (R273). -/
theorem retires_dropStreams (t : State) : retires (.next (advance (dropStreams t))) t fun u => settled t u = dropStreams t :=
  retires_advance rfl rfl rfl rfl (settled_advance t _)

/-! ## A hart that performs its access again -/

theorem goOn_waiting {s t : State} {hid : Nat} {w : Wait} (hf : focus s hid = some t) (hact : active t.hart = true)
    (hst : t.hart.status = .waiting w) : goOn s hid w = .next (setRunning t) := by
  unfold goOn
  rw [hf]
  simp [hact, hst]

theorem endRemote_due {s t : State} {hid : Nat} {ok : Bool} {due : Hart → Bool} (hf : focus s hid = some t)
    (hst : t.hart.status = .waiting .remote) (hrem : t.hart.remote = none) :
    endRemote s hid ok due =
      .next (if due t.hart = true then setRunning { t with hart := { t.hart with remote := some ok } } else s) := by
  unfold endRemote
  rw [hf]
  simp only [hst, hrem]
  by_cases hdue : due t.hart = true
  · simp [hdue]
  · simp [hdue]

/-! ## The supervisor's answers (R340) -/

/-- A hart in SCALL goes on with the result of its service. -/
theorem execScallAnswer_some {s t u : State} {hid : Nat} {d a : BitVec 5} {v : Word} (hf : focus s hid = some t)
    (hst : t.hart.status = .inScall d a) (hv : scallService t (rx t a) = some (u, v)) :
    exec (.scallAnswer hid) s = .next (let w := advance (wx u d v); if w.hart.who.resident || w.hart.who.dispatch then w else resaveImage w) := by
  show execScallAnswer hid s = _
  unfold execScallAnswer
  rw [hf]
  simp only [hst, hv]

/-- It stays in it while the service waits. -/
theorem execScallAnswer_none {s t : State} {hid : Nat} {d a : BitVec 5} (hf : focus s hid = some t) (hst : t.hart.status = .inScall d a)
    (hv : scallService t (rx t a) = none) : exec (.scallAnswer hid) s = .next s := by
  show execScallAnswer hid s = _
  unfold execScallAnswer
  rw [hf]
  simp only [hst, hv]

theorem resaveImage_only (s : State) : resaveImage s = { s with images := (resaveImage s).images } := by
  unfold resaveImage
  split
  · exact saveImage_only s
  · rfl

/-- The end of an answer: but for the image nothing is added to what the answer changes. -/
theorem answerEnd_only (w : State) : (if w.hart.who.resident || w.hart.who.dispatch then w else resaveImage w) =
    { w with images := (if w.hart.who.resident || w.hart.who.dispatch then w else resaveImage w).images } := by
  split
  · rfl
  · exact resaveImage_only w

@[simp] theorem advance_images (s : State) : (advance s).images = s.images := by
  unfold advance complete
  rw [evCount_only 2 1 s]
  rfl

/-- Bits [17:0] of a word. -/
theorem ofNat_wBits_low (w : Word) : BitVec.ofNat 64 (wBits w 0 18) = w &&& 0x3FFFF#64 := by
  apply BitVec.eq_of_toNat_eq
  rw [BitVec.toNat_and, BitVec.toNat_ofNat]
  have hm : w.toNat &&& (0x3FFFF#64).toNat = w.toNat % 2 ^ 18 := Nat.and_two_pow_sub_one_eq_mod w.toNat 18
  rw [hm, wBits, natBits]
  omega

/-- An answer is a register result; a saved hart's goes into its image, too (R349). -/
def answered (t : State) (d : BitVec 5) (v : Word) (o : Out) : Prop :=
  retires o t fun u => wroteX t u d v
    ∧ settled t u = { t with images := u.images, hart := { t.hart with x := u.hart.x } }
    ∧ (t.hart.who.resident = true ∨ t.hart.who.dispatch = true → u.images = t.images)

/-- The bytes that LOG names, and the record that it writes of them (R340, R343). -/
def logBytes (t : State) : MRes (List Byte) :=
  loadBytes t { t.hart.path t with remote := some true, port := true } (rx t 4).toNat (rx t 5).toNat

def logRecord (t : State) (bs : List Byte) : List Byte :=
  (bytesOfNat 1 4 ++ [causeSyscall] ++ bytesOfNat 2 0xFFFF ++ bytesOfNat 4 t.hart.who.serial ++ bytesOfNat 8 0)
    ++ (bs.take 48 ++ List.replicate (48 - bs.length) 0)

theorem logRecord_fields (t : State) (bs : List Byte) : (logRecord t bs).length = 64 ∧ (logRecord t bs).take 2 = [4, 0xC0]
    ∧ (logRecord t bs).drop 16 = (bs ++ List.replicate 48 0).take 48 := by
  refine ⟨?_, rfl, ?_⟩
  · simp only [logRecord, List.length_append, length_bytesOfNat, List.length_take, List.length_replicate, List.length_singleton]
    omega
  · unfold logRecord
    rw [List.drop_left' (by simp [length_bytesOfNat]), List.take_append, List.take_replicate]
    congr 2
    omega

/-- Completing an instruction leaves the number of a function's events alone. -/
theorem fnAt_advance_evHead (s : State) (f : Nat) : (fnAt (advance s) f).evHead = (fnAt s f).evHead := by
  obtain ⟨-, hfn, -⟩ := complete_countersKept s (s.hart.pc + 4)
  have h := congrArg FnRegs.evHead (hfn f)
  exact h

@[simp] theorem fnAt_wx (s : State) (d : BitVec 5) (v : Word) (f : Nat) : fnAt (wx s d v) f = fnAt s f := by
  unfold fnAt
  rw [wx_hub]

/-- LOG has answered 0, counted an event, and stored its record if the log is on. -/
def logAnswered (t u : State) (d : BitVec 5) (bs : List Byte) : Prop :=
  let f := fnAt t t.hart.who.fn
  wroteX t u d 0 ∧ u.hart.pc = t.hart.pc + 4 ∧ u.hart.status = .running
  ∧ (f.evHead + 1 ≠ 0 → (fnAt u t.hart.who.fn).evHead = f.evHead + 1)
  ∧ (6 ≤ f.evLg → f.evLg ≤ 16 → ∃ r : List Byte, r.length = 64 ∧ r.take 2 = [4, 0xC0] ∧ r.drop 16 = (bs ++ List.replicate 48 0).take 48
    ∧ u.mem = (logStore t t.hart.who.fn (f.evBase.toNat + f.evHead.toNat % 2 ^ f.evLg * 64) r).mem)

theorem logAnswered_images {t u : State} {d : BitVec 5} {bs : List Byte} (h : logAnswered t u d bs) (im : List (Nat × List Byte)) :
    logAnswered t { u with images := im } d bs := h

theorem logAnswered_record (t : State) (d : BitVec 5) (bs : List Byte) :
    logAnswered t (advance (wx (writeEvent t t.hart.who.fn (logRecord t bs)) d 0)) d bs := by
  have hh := writeEvent_hart t t.hart.who.fn (logRecord t bs)
  refine ⟨wroteX_setX d 0 (by rw [hh]), by rw [advance_hart_pc, wx_hart_pc, hh], advance_hart_status _, fun hne => ?_, fun hlo hhi => ?_⟩
  · rw [fnAt_advance_evHead, fnAt_wx, writeEvent_eq]
    exact congrArg FnRegs.evHead ((fnAt_setFn _ _ _ _ fun h => hne (congrArg FnRegs.evHead h)).trans (if_pos rfl))
  · obtain ⟨hlen, htake, hdrop⟩ := logRecord_fields t bs
    refine ⟨_, hlen, htake, hdrop, ?_⟩
    rw [advance_mem, wx_mem, writeEvent_eq, sendMsix_mem, setFn_mem, eventStored, if_pos (by simp [hlo, hhi])]

section
variable {t : State} {va : Nat} (hlo : va < 2 ^ 56) (hhi : va / 2 ^ 48 < 0xFE)
include hlo hhi

/-- PAGEINFO of an address that tables may map. -/
theorem pageinfo_in_range : ¬(decide (2 ^ 56 ≤ va) || decide (0xFE ≤ va / 2 ^ 48)) = true := by
  rw [Bool.or_eq_true, decide_eq_true_iff, decide_eq_true_iff]
  omega

theorem scallPageinfo_leaf {w : Word} {lg : Nat} (h : lookup t (identSpace t t.hart.who) va = .leaf w lg) :
    scallPageinfo t va = some (BitVec.ofNat 64 (wBits w 0 18)) := by
  unfold scallPageinfo
  simp only [if_neg (pageinfo_in_range hlo hhi), h]

theorem scallPageinfo_migrating (h : lookup t (identSpace t t.hart.who) va = .migrating) : scallPageinfo t va = none := by
  unfold scallPageinfo
  simp only [if_neg (pageinfo_in_range hlo hhi), h]

theorem scallPageinfo_other (hleaf : ∀ w lg, lookup t (identSpace t t.hart.who) va ≠ .leaf w lg)
    (hmig : lookup t (identSpace t t.hart.who) va ≠ .migrating) : scallPageinfo t va = some minusOne := by
  unfold scallPageinfo
  rw [if_neg (pageinfo_in_range hlo hhi)]
  split
  · next w lg h => exact absurd h (hleaf w lg)
  · next h => exact absurd h hmig
  · rfl

end

section
variable {t : State} (hlo : 1 ≤ (rx t 5).toNat) (hhi : (rx t 5).toNat ≤ 256)
include hlo hhi

/-- LOG of a length that it takes. -/
theorem log_in_range : ¬(decide ((rx t 5).toNat = 0) || decide (256 < (rx t 5).toNat)) = true := by
  rw [Bool.or_eq_true, decide_eq_true_iff, decide_eq_true_iff]
  omega

theorem scallLog_ok {bs : List Byte} (h : logBytes t = .ok bs) :
    scallLog t = some (writeEvent t t.hart.who.fn (logRecord t bs), 0) := by
  unfold logBytes at h
  unfold scallLog logRecord
  simp only [if_neg (log_in_range hlo hhi), h]

theorem scallLog_trap {c : BitVec 8} {x : Nat} (h : logBytes t = .trap c x) : scallLog t = some (t, minusOne) := by
  unfold logBytes at h
  unfold scallLog
  simp only [if_neg (log_in_range hlo hhi), h]

theorem scallLog_wait {w : Wait} (h : logBytes t = .wait w) : scallLog t = none := by
  unfold logBytes at h
  unfold scallLog
  simp only [if_neg (log_in_range hlo hhi), h]

end

section
variable {s t : State} {hid : Nat} {d a : BitVec 5} (hf : focus s hid = some t) (hst : t.hart.status = .inScall d a)
include hf hst

/-- A service that leaves the state as it is answers its result. -/
theorem answered_of_service {v : Word} (hv : scallService t (rx t a) = some (t, v)) : answered t d v (exec (.scallAnswer hid) s) := by
  rw [execScallAnswer_some hf hst hv]
  obtain ⟨w, ho, hpc, hst, hrem, hpin, hkept, hx, hsettled⟩ := givesX_setX t d v
  cases ho
  refine ⟨_, rfl, ?_⟩
  have hwho : (advance (wx t d v)).hart.who = t.hart.who := by simp
  simp only [hwho, Bool.or_eq_true]
  split
  · exact ⟨hpc, hst, hrem, hpin, hkept, hx, by rw [hsettled]; simp, fun _ => by simp⟩
  · next hno =>
    rw [resaveImage_only]
    exact ⟨hpc, hst, hrem, hpin, hkept, hx,
      congrArg (fun q : State => { q with images := (resaveImage (advance (wx t d v))).images }) hsettled, fun h => absurd h hno⟩

/-- Services 0 and 2, and those that are none. -/
theorem answered_plain : (rx t a = 0 → answered t d 1 (exec (.scallAnswer hid) s))
    ∧ (rx t a = 2 → answered t d (fnAt t t.hart.who.fn).errHead (exec (.scallAnswer hid) s))
    ∧ (4 ≤ (rx t a).toNat → answered t d (BitVec.allOnes 64) (exec (.scallAnswer hid) s)) := by
  refine ⟨fun h => answered_of_service hf hst ?_, fun h => answered_of_service hf hst ?_, fun h => answered_of_service hf hst ?_⟩
  · rw [h]; rfl
  · rw [h]; rfl
  · obtain ⟨k, hk⟩ : ∃ k, (rx t a).toNat = k + 4 := ⟨_, (Nat.sub_add_cancel h).symm⟩
    unfold scallService
    rw [hk]
    rfl

/-- PAGEINFO (R340). -/
theorem answered_pageinfo (h3 : rx t a = 3) :
    (2 ^ 56 ≤ (rx t 4).toNat ∨ 0xFE ≤ (rx t 4).toNat / 2 ^ 48 → answered t d (BitVec.allOnes 64) (exec (.scallAnswer hid) s))
    ∧ ((rx t 4).toNat < 2 ^ 56 → (rx t 4).toNat / 2 ^ 48 < 0xFE →
      let leafAt := lookup t (identSpace t t.hart.who) (rx t 4).toNat
      (∀ w lg, leafAt = .leaf w lg → answered t d (w &&& 0x3FFFF#64) (exec (.scallAnswer hid) s))
      ∧ (leafAt = .migrating → exec (.scallAnswer hid) s = .next s)
      ∧ ((∀ w lg, leafAt ≠ .leaf w lg) → leafAt ≠ .migrating → answered t d (BitVec.allOnes 64) (exec (.scallAnswer hid) s))) := by
  have hserv : scallService t (rx t a) = (scallPageinfo t (rx t 4).toNat).map fun v => (t, v) := by rw [h3]; rfl
  have hsome {v : Word} (hv : scallPageinfo t (rx t 4).toNat = some v) : answered t d v (exec (.scallAnswer hid) s) :=
    answered_of_service hf hst (by rw [hserv, hv]; rfl)
  refine ⟨fun hout => hsome ?_, fun hlo hhi => ?_⟩
  · unfold scallPageinfo
    rw [if_pos (by simpa using hout)]
    rfl
  · refine ⟨fun w lg hl => hsome ?_, fun hm => ?_, fun hl hm => hsome ?_⟩
    · rw [scallPageinfo_leaf hlo hhi hl, ofNat_wBits_low]
    · exact execScallAnswer_none hf hst (by rw [hserv, scallPageinfo_migrating hlo hhi hm]; rfl)
    · exact scallPageinfo_other hlo hhi hl hm

/-- LOG with a length that it does not take (log 63), or with bytes that cannot be read. -/
theorem answered_log (h1 : rx t a = 1) :
    ((rx t 5).toNat = 0 ∨ 256 < (rx t 5).toNat → answered t d (BitVec.allOnes 64) (exec (.scallAnswer hid) s))
    ∧ (1 ≤ (rx t 5).toNat → (rx t 5).toNat ≤ 256 →
      (∀ c x, logBytes t = .trap c x → answered t d (BitVec.allOnes 64) (exec (.scallAnswer hid) s))
      ∧ (∀ w, logBytes t = .wait w → exec (.scallAnswer hid) s = .next s)
      ∧ (∀ bs, logBytes t = .ok bs → ∃ u, exec (.scallAnswer hid) s = .next u ∧ logAnswered t u d bs)) := by
  have hserv : scallService t (rx t a) = scallLog t := by rw [h1]; rfl
  refine ⟨fun hlen => answered_of_service hf hst ?_, fun hlo hhi => ?_⟩
  · rw [hserv]
    unfold scallLog
    rw [if_pos (by simpa using hlen)]
    rfl
  · refine ⟨fun c x hb => answered_of_service hf hst ?_, fun w hb => ?_, fun bs hb => ?_⟩
    · rw [hserv, scallLog_trap hlo hhi hb]
      rfl
    · exact execScallAnswer_none hf hst (by rw [hserv, scallLog_wait hlo hhi hb])
    · refine ⟨_, execScallAnswer_some hf hst (by rw [hserv, scallLog_ok hlo hhi hb]), ?_⟩
      rw [answerEnd_only]
      exact logAnswered_images (logAnswered_record t d bs) _

end

/-! ## The five parks of R20 -/

section
variable {s t : State} {hid : Nat} (hf : focus s hid = some t)
include hf

/-- VWAIT_WAKE: the word is loaded again, and the condition holds of it (R220). -/
theorem vwaitWake_holds {d a b : BitVec 5} {e : BitVec 1} {c : BitVec 3} {l : Loc} (hw : waitsAt t .vwait (.vwait d a b e c))
    (hfence : fenced t clsS = false) :
    let w := if e = 1#1 then 64 else 32
    let u := syncScalar t
    let m := loaded u (rx t a).toNat (w / 8) l
    placeOf u (u.hart.path u) (rx t a).toNat (w / 8) .load .devFifo = .ok l → locPoisoned u l = false →
    vwaitHolds c.toNat w m ((rx t b).toNat % 2 ^ w) = true → givesX (exec (.vwaitWake hid) s) u d (BitVec.ofNat 64 m) := by
  intro w u m hplace hpoison hholds
  have hload : loadNat u (u.hart.path u) (rx t a).toNat (w / 8) .devFifo = .ok m := by
    unfold loadNat
    rw [hplace]
    show (if locPoisoned u l then _ else _) = _
    rw [hpoison]
    rfl
  have hexec : execVwait d a b e c t = setX u d (BitVec.ofNat 64 m) := by
    show scalarAccess u ((loadNat u (u.hart.path u) (rx u a).toNat (w / 8) .devFifo).bind fun m =>
      if vwaitHolds c.toNat w m ((rx u b).toNat % 2 ^ w) then .ok (advance (wx u d (BitVec.ofNat 64 m))) else .wait .vwait) = _
    rw [rx_syncScalar t a, rx_syncScalar t b, hload]
    unfold scalarAccess
    rw [fenced_syncScalar, hfence]
    show scalarOut u (if vwaitHolds c.toNat w m ((rx t b).toNat % 2 ^ w) then _ else _) = _
    rw [hholds]
    rfl
  refine wake_completes hf hw ⟨_, rfl, ?_⟩
  rw [hexec]
  exact givesX_setX u d _

/-- CWAIT_WAKE: the count is below the limit, of which 0 counts as 1 (R231). -/
theorem cwaitWake_below {c : BitVec 4} {k : BitVec 6} (hw : waitsAt t .cwait (.cwait c k)) (hpoison : (rc t c.toNat).poison = false)
    (hcount : (rc t c.toNat).count.toNat < max 1 k.toNat) :
    retires (exec (.cwaitWake hid) s) t fun u => settled t u = dropStreams t := by
  have hends : cwaitEnds (rc t c.toNat) k.toNat = true := by
    have : (rc t c.toNat).count.toNat < if k.toNat = 0 then 1 else k.toNat := by split <;> omega
    simp [cwaitEnds, this]
  refine wake_completes hf hw ⟨_, rfl, ?_⟩
  unfold cwaitPark
  dsimp only
  rw [hends, hpoison]
  exact retires_dropStreams t

/-- SBARW_WAKE: the barrier's count has reached the limit (R252). -/
theorem sbarwWake_reached {d a : BitVec 5} {n : BitVec 6} (hw : waitsAt t .sbarw (.sbarw d a n))
    (hcount : (rx t a).toNat % 2 ^ 32 ≤ (sbGet t t.hart.who.serial n.toNat).1.toNat) :
    retires (exec (.sbarwWake hid) s) t fun u => wroteX t u d (sbWord (sbGet t t.hart.who.serial n.toNat))
      ∧ settled t u = { dropStreams t with hart := { (dropStreams t).hart with x := u.hart.x } } := by
  have hends : sbarwEnds (sbGet t t.hart.who.serial n.toNat) (wBits (rx t a) 0 32) = true := by
    have hk : wBits (rx t a) 0 32 = (rx t a).toNat % 2 ^ 32 := by simp [wBits, natBits]
    simp only [sbarwEnds, hk, hcount, decide_true, Bool.true_or]
  refine wake_completes hf hw ⟨_, rfl, ?_⟩
  unfold execSbarw
  dsimp only
  rw [hends]
  refine retires_setX d _ rfl rfl rfl rfl ⟨wroteX_setX d _ rfl, ?_⟩
  rw [settled_advance, advance_hart_x, wx_hart_x_only]
  rfl

/-- BARW_WAKE: every participant has arrived (R257). -/
theorem barwWake_open {c : BitVec 3} (hw : waitsAt t .barw (.barw c)) (hopen : barrierOpen t c.toNat = true) :
    retires (exec (.barwWake hid) s) t fun u => settled t u = dropStreams t := by
  refine wake_completes hf hw ⟨_, rfl, ?_⟩
  unfold barwPark
  rw [hopen, Bool.or_true]
  exact retires_dropStreams t

/-- LAUNCH_W_WAKE: the store has room for the record that it has read (R30, R135). -/
theorem launchWWake_room {d a : BitVec 5} {ws : List Word} (hw : waitsAt t .launchW (.launchW d a))
    (hrec : t.hart.eng.launchRec = some (true, ws)) (hroom : t.sched.launches.length < 65536) :
    retires (exec (.launchWWake hid) s) t fun u => wroteX t u d 0
      ∧ ∃ q, u.sched.launches = t.sched.launches ++ [q] ∧ q.desc = recOf ws ∧ q.fn = t.hart.who.fn := by
  refine wake_completes hf hw ⟨_, rfl, ?_⟩
  have hexec : execLaunchW d a t = launchRoom t d true ws := by
    unfold execLaunchW launchRun
    rw [hrec]
  rw [hexec]
  obtain ⟨u, ho, hpc, hst, hrem, hpin, hkept, hx, ⟨q, hq, hdesc, -, hfn, -⟩, -⟩ := launchRoom_room t d true ws hroom
  exact ⟨u, ho, hpc, hst, hrem, hpin, hkept, hx, q, hq, hdesc, hfn⟩

/-! ## FIFO ports and remote accesses -/

/-- FIFO_ACCESS_WAKE, while the bank keeps its mode (R204, R205). -/
theorem fifoAccessWake_again {key : Nat} (hact : active t.hart = true) (hst : t.hart.status = .waiting (.fifo key))
    (hmode : (bankAt t key).changing = none) : exec (.fifoAccessWake hid) s = .next (setRunning t) := by
  show execFifoAccessWake hid s = _
  unfold execFifoAccessWake
  rw [hf]
  simp only [hst, hmode]
  exact goOn_waiting hf hact hst

/-- A remote access ends by its response within 200 ms over a port that is up, and after them by the time-out (R376). -/
theorem remote_ends (hst : t.hart.status = .waiting .remote) (hrem : t.hart.remote = none) :
    (s.time - t.hart.waitFrom < 200000000 → linkUp s = true →
      exec (.remoteAccessResponse hid) s = .next (setRunning { t with hart := { t.hart with remote := some true } }))
    ∧ (200000000 ≤ s.time - t.hart.waitFrom → exec (.remoteAccessResponse hid) s = .next s
      ∧ exec (.remoteTimeout hid) s = .next (setRunning { t with hart := { t.hart with remote := some false } }))
    ∧ (linkUp s = false → exec (.remoteAccessResponse hid) s = .next s) := by
  have hresp := endRemote_due (ok := true) (due := fun h => decide (s.time - h.waitFrom < 200000000) && linkUp s) hf hst hrem
  have htime := endRemote_due (ok := false) (due := fun h => decide (200000000 ≤ s.time - h.waitFrom)) hf hst hrem
  change exec (.remoteAccessResponse hid) s = _ at hresp
  change exec (.remoteTimeout hid) s = _ at htime
  rw [hresp, htime]
  refine ⟨fun hin hup => ?_, fun hlate => ⟨?_, ?_⟩, fun hdown => ?_⟩
  · rw [if_pos (by simp [hin, hup])]
  · rw [if_neg (by simp; omega)]
  · rw [if_pos (by simpa using hlate)]
  · rw [if_neg (by simp [hdown])]

/-- DEBUGGER_RESUME (R130). -/
theorem debuggerResume_atBreak (pc : Word) (hst : t.hart.status = .atBreak) : exec (.debuggerResume hid pc) s =
    .next (setRunning { t with hart := { t.hart with pc := tepcOf pc, trap := { t.hart.trap with tepc := tepcOf pc } } }) := by
  show execDebuggerResume hid pc s = _
  unfold execDebuggerResume
  rw [hf]
  simp [hst]

end

/-- Settles O54: clause by clause, each wake by the lemma about it. -/
theorem wakes : Obligations.Wakes := by
  intro s t hid d a b e c3 c k n l hf again onwards
  refine ⟨fun hw hfence => vwaitWake_holds hf hw hfence, fun hw => cwaitWake_below hf hw, fun hw => sbarwWake_reached hf hw,
    fun hw => barwWake_open hf hw, fun ws hw => launchWWake_room hf hw, fun key => fifoAccessWake_again hf, fun hact hst => ?_,
    fun hact hst => ?_, remote_ends hf, fun hst => ?_, debuggerResume_atBreak hf⟩
  · exact goOn_waiting hf hact hst
  · exact goOn_waiting hf hact hst
  · obtain ⟨h0, h2, h4⟩ := answered_plain hf hst
    exact ⟨h0, h2, h4, answered_log hf hst, answered_pageinfo hf hst⟩

end Sys2Proof.Proofs
end

section
/-!
Context images (R347, R348, R350): where their fields lie, and that a restore accepts what a save has written.
-/
namespace Sys2Proof.Proofs

open Sys2Proof Sys2Proof.Machine Sys2Proof.Safety

/-! ## CRC-32C -/

theorem crcBit_lt (c : Nat) (h : c < 2 ^ 32) : crcBit c < 2 ^ 32 := by
  unfold crcBit
  refine Nat.xor_lt_two_pow (by omega) ?_
  have : c % 2 < 2 := Nat.mod_lt _ (by omega)
  omega

/-- What each step keeps below a bound, a fold does. -/
theorem foldl_lt {α : Type} (f : Nat → α → Nat) (n : Nat) (hf : ∀ c a, c < n → f c a < n) (xs : List α) (c : Nat) (hc : c < n) :
    xs.foldl f c < n := by
  induction xs generalizing c with
  | nil => exact hc
  | cons x xs ih => exact ih _ (hf c x hc)

theorem crcByte_lt (c : Nat) (b : Byte) (h : c < 2 ^ 32) : crcByte c b < 2 ^ 32 :=
  foldl_lt _ _ (fun x _ hx => crcBit_lt x hx) _ _ (Nat.xor_lt_two_pow h (Nat.lt_trans b.isLt (by decide)))

theorem crc32c_lt (bs : List Byte) : crc32c bs < 2 ^ 32 := by
  unfold crc32c
  rw [foldBytes_eq]
  exact Nat.xor_lt_two_pow (foldl_lt _ _ crcByte_lt bs _ (by decide)) (by decide)

/-! ## Fields of a list of bytes -/

theorem fieldOf_eq {n : Nat} {bs : List Byte} (h : bs.length ≤ n) : fieldOf n bs = bs ++ List.replicate (n - bs.length) 0 := by
  rw [fieldOf, List.take_of_length_le h]

@[simp] theorem length_fieldOf (n : Nat) (bs : List Byte) : (fieldOf n bs).length = n := by
  simp only [fieldOf, List.length_append, List.length_take, List.length_replicate]
  omega

@[simp] theorem length_wordBytes (ws : List Word) : (wordBytes ws).length = 8 * ws.length := by
  induction ws with
  | nil => rfl
  | cons w ws ih => simp only [wordBytes, List.flatMap_cons, List.length_append, length_bytesOfNat, List.length_cons] at ih ⊢; omega

/-- The number at a place of an image. -/
def fieldAt (img : List Byte) (off n : Nat) : Nat := natOfBytes ((img.drop off).take n)

theorem fieldAt_append_right {a b : List Byte} {off n : Nat} (h : a.length ≤ off) :
    fieldAt (a ++ b) off n = fieldAt b (off - a.length) n := by
  rw [fieldAt, List.drop_append, List.drop_of_length_le h, List.nil_append, fieldAt]

theorem fieldAt_append_left {a b : List Byte} {off n : Nat} (h : off + n ≤ a.length) : fieldAt (a ++ b) off n = fieldAt a off n := by
  rw [fieldAt, List.drop_append_of_le_length (by omega), List.take_append_of_le_length (by rw [List.length_drop]; omega), fieldAt]

theorem fieldAt_bytesOfNat (n v : Nat) : fieldAt (bytesOfNat n v) 0 n = v % 2 ^ (8 * n) := by
  rw [fieldAt, List.drop_zero, List.take_of_length_le (Nat.le_of_eq (length_bytesOfNat n v)), natOfBytes_bytesOfNat]

theorem fieldAt_wordBytes (ws : List Word) (r : Nat) (h : r < ws.length) : fieldAt (wordBytes ws) (8 * r) 8 = ws[r].toNat := by
  induction ws generalizing r with
  | nil => exact absurd h (Nat.not_lt_zero r)
  | cons w ws ih =>
    have e : wordBytes (w :: ws) = bytesOfNat 8 w.toNat ++ wordBytes ws := rfl
    rw [e]
    cases r with
    | zero =>
      rw [Nat.mul_zero, fieldAt_append_left (by exact Nat.le_of_eq (length_bytesOfNat ..).symm), fieldAt_bytesOfNat]
      exact Nat.mod_eq_of_lt w.isLt
    | succ r =>
      rw [fieldAt_append_right (by rw [length_bytesOfNat]; omega), length_bytesOfNat, Nat.mul_succ, Nat.add_sub_cancel,
        ih r (Nat.lt_of_succ_lt_succ h)]
      rfl

/-! ## The parts of an image -/

/-- What stands before the CRC, and behind it in the fixed part's first 0x42 bytes (R347). -/
def headBefore (h : Hart) (size : Nat) : List Byte :=
  bytesOfNat 4 0x4B435849 ++ (bytesOfNat 2 1 ++ ((bytesOfNat 1 h.who.shape
  ++ bytesOfNat 1 (bitsNat [h.mat.mvl != 0, h.eng.errPend.isSome, h.who.degr]))
  ++ (bytesOfNat 4 size ++ (bytesOfNat 2 h.who.grows ++ (bytesOfNat 2 (grbOf h.who.shape)
  ++ (bytesOfNat 4 h.who.serial ++ (bytesOfNat 2 h.who.rank ++ (bytesOfNat 2 0
  ++ (bytesOfNat 1 (waitCode h.status) ++ bytesOfNat 3 0)))))))))

def headBehind (h : Hart) : List Byte :=
  wordBytes [h.who.troot, h.who.ctxown] ++ (wordBytes [h.eng.errPend.getD 0]
  ++ (bytesOfNat 8 (match h.eng.sbind.head? with | some (c, n) => 2 ^ 15 + n % 64 * 16 + c % 16 | none => 0)
  ++ bytesOfNat 2 (bitsNat (h.h.toList.map (·.valid)))))

theorem imageHead_eq (h : Hart) (size crc : Nat) : imageHead h size crc = headBefore h size ++ (bytesOfNat 4 crc ++ headBehind h) := by
  simp only [imageHead, headBefore, headBehind, List.append_assoc]
    <;> rfl

theorem length_headBefore (h : Hart) (size : Nat) : (headBefore h size).length = 0x1C := by
  simp only [headBefore, List.length_append, length_bytesOfNat]

theorem length_headBehind (h : Hart) : (headBehind h).length = 0x22 := by
  simp only [headBehind, List.length_append, length_bytesOfNat, length_wordBytes, List.length_cons, List.length_nil]

/-- The registers and the items. -/
def imageRest (x : State) : List Byte := imageRegs x ++ imageItems x.hart

/-- What stands behind the CRC. -/
def imageBehind (x : State) : List Byte := headBehind x.hart ++ (List.replicate 0xBE 0 ++ imageRest x)

/-- The image with a CRC. -/
def imageWith (x : State) (crc : Nat) : List Byte :=
  headBefore x.hart (0x100 + (imageRest x).length) ++ (bytesOfNat 4 crc ++ imageBehind x)

theorem foldBytes_count (bs : List Byte) (n : Nat) : foldBytes (fun n _ => n + 1) n bs = n + bs.length := by
  rw [foldBytes_eq]
  induction bs generalizing n with
  | nil => rfl
  | cons b bs ih => simp only [List.foldl_cons, ih, List.length_cons]; omega

theorem fixedPart_eq (x : State) (crc : Nat) :
    fieldOf 0x100 (imageHead x.hart (foldBytes (fun n _ => n + 1) 0x100 (imageRest x)) crc) ++ imageRest x = imageWith x crc := by
  rw [foldBytes_count, imageHead_eq, fieldOf_eq (by simp [length_headBefore, length_headBehind, length_bytesOfNat])]
  simp only [imageWith, imageBehind, List.append_assoc, List.length_append, length_headBefore, length_headBehind, length_bytesOfNat]

/-- The image carries the CRC of itself with the CRC's bytes 0. -/
theorem imageOf_eq (x : State) : imageOf x = imageWith x (crc32c (imageWith x 0)) := by
  rw [← fixedPart_eq, ← fixedPart_eq]
  rfl

theorem length_imageWith (x : State) (crc : Nat) : (imageWith x crc).length = 0x100 + (imageRest x).length := by
  simp only [imageWith, imageBehind, List.length_append, length_headBefore, length_headBehind, length_bytesOfNat, List.length_replicate]
  omega

/-! ## The fields -/

section
variable (x : State) (crc : Nat)

/-- A field before the CRC. -/
theorem fieldAt_before {off n : Nat} (h : off + n ≤ 0x1C) :
    fieldAt (imageWith x crc) off n = fieldAt (headBefore x.hart (0x100 + (imageRest x).length)) off n :=
  fieldAt_append_left (by rw [length_headBefore]; exact h)

theorem fieldAt_magic : fieldAt (imageWith x crc) 0 4 = 0x4B435849 := by
  rw [fieldAt_before x crc (by decide)]
  simp [headBefore, fieldAt_append_left, length_bytesOfNat, fieldAt_bytesOfNat]

theorem fieldAt_version : fieldAt (imageWith x crc) 4 2 = 1 := by
  rw [fieldAt_before x crc (by decide)]
  simp [headBefore, fieldAt_append_right, fieldAt_append_left, length_bytesOfNat, fieldAt_bytesOfNat]

theorem fieldAt_size : fieldAt (imageWith x crc) 8 4 = (imageWith x crc).length % 2 ^ 32 := by
  rw [fieldAt_before x crc (by decide), length_imageWith]
  simp [headBefore, fieldAt_append_right, fieldAt_append_left, length_bytesOfNat, fieldAt_bytesOfNat]

theorem fieldAt_grb : fieldAt (imageWith x crc) 0x0E 2 = grbOf x.hart.who.shape := by
  have hle : grbOf x.hart.who.shape < 2 ^ 16 := Nat.lt_of_le_of_lt (Nat.div_le_self _ _) (by decide)
  rw [fieldAt_before x crc (by decide)]
  simp only [headBefore, fieldAt_append_right, fieldAt_append_left, length_bytesOfNat, fieldAt_bytesOfNat, List.length_append,
    Nat.reduceLeDiff, Nat.reduceSub, Nat.reduceAdd]
  exact Nat.mod_eq_of_lt hle

theorem fieldAt_crc (h : crc < 2 ^ 32) : fieldAt (imageWith x crc) 0x1C 4 = crc := by
  rw [imageWith, fieldAt_append_right (Nat.le_of_eq (length_headBefore ..)), length_headBefore,
    fieldAt_append_left (by exact Nat.le_of_eq (length_bytesOfNat ..).symm), fieldAt_bytesOfNat]
  exact Nat.mod_eq_of_lt h

/-- The bytes over which the CRC of a restore is taken. -/
theorem imageWith_crc_cleared : (imageWith x crc).take 0x1C ++ [0, 0, 0, 0] ++ (imageWith x crc).drop 0x20 = imageWith x 0 := by
  have hbehind : (imageWith x crc).drop 0x20 = imageBehind x := by
    rw [imageWith, ← List.append_assoc]
    exact List.drop_left' (by rw [List.length_append, length_headBefore, length_bytesOfNat])
  rw [hbehind, imageWith, List.take_left' (length_headBefore ..), List.append_assoc]
  rfl

/-- A restore accepts the image that a save of the hart has written (R350). -/
theorem imageGood_imageOf : imageGood (imageOf x) x.hart.who.shape = true := by
  rw [imageOf_eq]
  have htest (img : List Byte) (shape : Nat) : imageGood img shape =
      (fieldAt img 0 4 == 0x4B435849 && fieldAt img 4 2 == 1 && fieldAt img 0x0E 2 == grbOf shape
        && fieldAt img 0x1C 4 == crc32c (img.take 0x1C ++ [0, 0, 0, 0] ++ img.drop 0x20)) := rfl
  rw [htest, imageWith_crc_cleared, fieldAt_crc x _ (crc32c_lt _), fieldAt_magic, fieldAt_version, fieldAt_grb]
  simp

/-- A field of the registers (R347). -/
theorem fieldAt_regs {off n : Nat} (h : 0x100 ≤ off) (hn : off + n ≤ 0x100 + (imageRegs x).length) :
    fieldAt (imageWith x crc) off n = fieldAt (imageRegs x) (off - 0x100) n := by
  rw [← fixedPart_eq, fieldAt_append_right (by rw [length_fieldOf]; exact h), length_fieldOf, imageRest,
    fieldAt_append_left (by omega)]

theorem length_imageRegs : 0x500 ≤ (imageRegs x).length := by
  simp only [imageRegs, List.length_append, length_wordBytes, length_fieldOf, List.length_map, List.length_range, Vector.length_toList]
  omega

/-- X, from 0x100 on. -/
theorem fieldAt_x (r : BitVec 5) : fieldAt (imageWith x crc) (0x100 + 8 * r.toNat) 8 = (rx x r).toNat := by
  have hr := r.isLt
  have hlen := length_imageRegs x
  rw [fieldAt_regs x crc (by omega) (by omega), Nat.add_sub_cancel_left]
  simp only [imageRegs, List.append_assoc]
  rw [fieldAt_append_left (by rw [length_wordBytes, List.length_map, List.length_range]; omega),
    fieldAt_wordBytes _ _ (by rw [List.length_map, List.length_range]; omega)]
  simp

/-- The pc, at 0x200. -/
theorem fieldAt_pc : fieldAt (imageWith x crc) 0x200 8 = x.hart.pc.toNat := by
  have hlen := length_imageRegs x
  rw [fieldAt_regs x crc (by omega) (by omega)]
  simp only [imageRegs, List.append_assoc]
  rw [fieldAt_append_right (by simp), length_wordBytes, List.length_map,
    List.length_range, fieldAt_append_left (by rw [length_fieldOf]; omega), fieldOf_eq (by simp), fieldAt_append_left (by simp)]
  exact fieldAt_wordBytes _ 0 (by simp)

/-- The window registers, from 0x400 on. -/
theorem fieldAt_w (r : BitVec 6) : fieldAt (imageWith x crc) (0x400 + 8 * r.toNat) 8 = (rw x r).toNat := by
  have hr := r.isLt
  have hlen := length_imageRegs x
  rw [fieldAt_regs x crc (by omega) (by omega)]
  simp only [imageRegs, List.append_assoc]
  have hskip (ws : List Word) (l : List Byte) (k : Nat) (hk : 8 * ws.length ≤ k) :
      fieldAt (wordBytes ws ++ l) k 8 = fieldAt l (k - 8 * ws.length) 8 := by
    rw [fieldAt_append_right (by rw [length_wordBytes]; exact hk), length_wordBytes]
  rw [hskip _ _ _ (by simp; omega), fieldAt_append_right (by rw [length_fieldOf]; simp; omega), length_fieldOf, hskip _ _ _ (by simp; omega),
    hskip _ _ _ (by simp; omega), hskip _ _ _ (by simp; omega), fieldAt_append_left (by rw [length_wordBytes]; simp; omega)]
  have hoff : 0x400 + 8 * r.toNat - 0x100 - 8 * ((List.range 32).map fun r => rx x (BitVec.ofNat 5 r)).length - 256
      - 8 * ((List.range 16).map fun k => csrGet x (BitVec.ofNat 12 (0x10 + k))).length
      - 8 * (x.hart.ev.toList.map (·.setWidth 64)).length - 8 * x.hart.evsel.toList.length = 8 * r.toNat := by
    simp
    omega
  rw [hoff, fieldAt_wordBytes _ _ (by simp; omega)]
  simp [rw, Vector.get]

end

end Sys2Proof.Proofs
end

section
/-!
Completion words, pre-emption points and context saves (R12, R15 to R18, R21 to R23, R310, R313, R349, R370).
-/
namespace Sys2Proof.Proofs

open Sys2Proof Sys2Proof.Machine Sys2Proof.Safety

/-! ## Gangs that settle (R11, R16, R18) -/

/-- What a change of its harts makes of a gang: nothing, its end, or its place on the resume queue. -/
theorem settleGang_cases (s : State) (n g : Nat) :
    settleGang s n g = s ∨ settleGang s n g = endGang s n g ∨ settleGang s n g = queueGang s n g := by
  unfold settleGang
  split
  · exact .inl rfl
  · dsimp only
    split
    · exact .inl rfl
    · split
      · exact .inr (.inl rfl)
      · split
        · exact .inr (.inr rfl)
        · exact .inl rfl

theorem settleGang_hart (s : State) (n g : Nat) :
    (settleGang s n g).hart = { s.hart with stopReq := (settleGang s n g).hart.stopReq } := by
  obtain h | h | h := settleGang_cases s n g
  · rw [h]
  · rw [h]; rfl
  · rw [h]
    simp only [queueGang, mapHarts]
    split <;> rfl

@[simp] theorem settleGang_images (s : State) (n g : Nat) : (settleGang s n g).images = s.images := by
  obtain h | h | h := settleGang_cases s n g <;> rw [h] <;> rfl

/-- A launch's hart that is over has left its core. -/
theorem settleHart_hart (s : State) (hdis : s.hart.who.dispatch = false) :
    (settleHart s).hart = { s.hart with who := { s.hart.who with resident := false }, stopReq := (settleHart s).hart.stopReq } := by
  have e : settleHart s = settleGang (leaveCore s) s.hart.who.serial s.hart.who.gang := by
    unfold settleHart
    rw [hdis]
    rfl
  rw [e]
  exact settleGang_hart (leaveCore s) _ _

/-! ## Gangs that are asked to stop, and lane groups (R12, R370) -/

/-- From `s` to `t` harts have been asked to stop, or bound to their core, lane groups retired, and records of it written. -/
def LanesOnly (s t : State) : Prop :=
  t = { s with
    hart := { s.hart with
      stopReq := t.hart.stopReq, sameCore := t.hart.sameCore, eng := { s.hart.eng with link := t.hart.eng.link } }
    others := t.others, sched := t.sched, cores := t.cores, mem := t.mem, poison := t.poison, banks := t.banks
    hub := { s.hub with colo := t.hub.colo, fns := t.hub.fns }, msix := t.msix }

theorem LanesOnly.refl (s : State) : LanesOnly s s := rfl

theorem LanesOnly.trans {s t u : State} (h : LanesOnly s t) (k : LanesOnly t u) : LanesOnly s u := by
  unfold LanesOnly at h k ⊢
  rw [k, h]

theorem LanesOnly.foldl {α : Type} {f : State → α → State} (hf : ∀ s a, LanesOnly s (f s a)) (xs : List α) (s : State) :
    LanesOnly s (xs.foldl f s) := by
  induction xs generalizing s with
  | nil => exact LanesOnly.refl s
  | cons x xs ih => exact LanesOnly.trans (hf s x) (ih _)

theorem requestStop_lanes (s : State) (n g : Nat) : LanesOnly s (requestStop s n g) := by
  unfold LanesOnly requestStop mapHarts
  dsimp only
  split <;> rfl

theorem writeEvent_lanes (s : State) (f : Nat) (bytes : List Byte) : LanesOnly s (writeEvent s f bytes) := by
  rw [writeEvent_eq]
  have h := (eventStored_stores s f bytes).1
  generalize eventStored s f bytes = u at h
  unfold LanesOnly
  rw [h]
  rfl

/-- Asking gangs to stop changes no core. -/
@[simp] theorem requestStops_cores (gs : List (Nat × Nat)) (s : State) :
    (gs.foldl (fun t g => requestStop t g.1 g.2) s).cores = s.cores := by
  induction gs generalizing s with
  | nil => rfl
  | cons g gs ih => exact ih _

@[simp] theorem requestStops_msix (gs : List (Nat × Nat)) (s : State) :
    (gs.foldl (fun t g => requestStop t g.1 g.2) s).msix = s.msix := by
  induction gs generalizing s with
  | nil => rfl
  | cons g gs ih => exact ih _

/-- A core after a group of it has been retired (R7, R8, R393). -/
def coreRetired (c : CoreState) (grp : Nat) : CoreState :=
  { c with
    failed := c.failed ++ [grp], degraded := decide (2 ≤ c.failed.length + 1), out := decide (5 < c.failed.length + 1)
    pending := c.pending.filter (· ≠ grp) }

theorem coreAt_setCore (s : State) (c k : Nat) (v : CoreState) (hv : v ≠ CoreState.init) :
    coreAt (setCore s c v) k = if k = c then v else coreAt s k := tabGet_set_listed _ _ _ _ _ hv

/-- The core with its group retired, and, where that took the spare, its harts bound to it (R7). -/
def groupMarked (s : State) (core grp : Nat) : State :=
  let s1 := setCore s core (coreRetired (coreAt s core) grp)
  if (coreAt s core).failed.length + 1 = 1 then mapHarts (fun h => if onCore core h then { h with sameCore := true } else h) s1 else s1

/-- The gangs on the core are asked to stop, and the retirement is recorded. -/
theorem retireGroup_eq (s : State) (core grp : Nat) : ∃ key degr out, retireGroup s core grp =
    laneRecord (coloAdd ((gangsOn (groupMarked s core grp) core).foldl (fun t g => requestStop t g.1 g.2) (groupMarked s core grp)) key 1)
      core grp degr out := ⟨_, _, _, rfl⟩

theorem groupMarked_cores (s : State) (core grp : Nat) :
    (groupMarked s core grp).cores = (setCore s core (coreRetired (coreAt s core) grp)).cores := by
  unfold groupMarked
  dsimp only
  split <;> rfl

theorem groupMarked_lanes (s : State) (core grp : Nat) : LanesOnly s (groupMarked s core grp) := by
  unfold groupMarked
  dsimp only
  split
  · unfold LanesOnly mapHarts
    dsimp only
    split <;> rfl
  · rfl

theorem retireGroup_lanes (s : State) (core grp : Nat) : LanesOnly s (retireGroup s core grp) := by
  obtain ⟨key, degr, out, e⟩ := retireGroup_eq s core grp
  rw [e]
  have hstops := LanesOnly.foldl (f := fun t (g : Nat × Nat) => requestStop t g.1 g.2) (fun t g => requestStop_lanes t g.1 g.2)
    (gangsOn (groupMarked s core grp) core) (groupMarked s core grp)
  exact ((groupMarked_lanes s core grp).trans hstops).trans (LanesOnly.trans (by exact rfl) (writeEvent_lanes _ 0 _))

theorem retirePending_lanes (s : State) (core : Nat) : LanesOnly s (retirePending s core) :=
  LanesOnly.foldl (fun t g => retireGroup_lanes t core g) _ s

theorem coreRetired_ne_init (c : CoreState) (grp : Nat) : coreRetired c grp ≠ CoreState.init := fun h => by
  simpa [coreRetired, CoreState.init] using congrArg CoreState.failed h

theorem coreAt_retireGroup (s : State) (core grp k : Nat) :
    coreAt (retireGroup s core grp) k = if k = core then coreRetired (coreAt s core) grp else coreAt s k := by
  obtain ⟨key, degr, out, e⟩ := retireGroup_eq s core grp
  rw [← coreAt_setCore s core k _ (coreRetired_ne_init (coreAt s core) grp), e]
  unfold coreAt laneRecord coloAdd
  rw [writeEvent_cores, requestStops_cores, groupMarked_cores]
  rfl

theorem retireGroup_msix (s : State) (core grp : Nat) : (retireGroup s core grp).msix = s.msix ++ [(0, 0)] := by
  obtain ⟨key, degr, out, e⟩ := retireGroup_eq s core grp
  rw [e]
  unfold laneRecord coloAdd
  rw [writeEvent_msix, requestStops_msix]
  unfold groupMarked
  dsimp only
  split <;> rfl

/-- Every group that waited has been retired. -/
theorem retireGroups_failed (core : Nat) (gs : List Nat) (s : State) :
    (coreAt (gs.foldl (fun t g => retireGroup t core g) s) core).failed = (coreAt s core).failed ++ gs := by
  induction gs generalizing s with
  | nil => exact (List.append_nil _).symm
  | cons g gs ih =>
    rw [List.foldl_cons, ih, coreAt_retireGroup, if_pos rfl]
    exact List.append_assoc _ [g] gs

/-! ## The completion word -/

theorem dropHarts_eq (s : State) (p : Hart → Bool) :
    dropHarts s p = { s with hart := (dropHarts s p).hart, others := (dropHarts s p).others, images := (dropHarts s p).images } := by
  unfold dropHarts
  split <;> rfl

/-- A launch that is over has its completion word stored and leaves the store, with the message that it asked for. -/
theorem completionWord_leaves {s u : State} {serial : Nat} {l : Launch} (hl : launchAt s serial = some l) (hover : launchOver s l = true)
    (hst : storeNat s (fnPath s l.fn) l.desc.done 8 (completionWord s l) .fifoOnly = .ok u) :
    ∃ v, exec (.completionWord serial) s = .next v ∧ v.mem = u.mem
      ∧ v.sched.launches = s.sched.launches.filter (fun x => x.serial ≠ serial)
      ∧ v.msix = s.msix ++ (if l.desc.irq && !l.quiet then [(qFunc (queueAt s l.queue), l.queue % 64)] else []) := by
  have hserial : l.serial = serial := by simpa using List.find?_some hl
  have hu := storeNat_stores (p := fnPath s l.fn) rfl hst
  have hexec : exec (.completionWord serial) s = .next (launchIrq (freeLaunch u l) l) := by
    show execCompletionWord serial s = _
    unfold execCompletionWord
    rw [hl]
    simp only [hover, hst]
    rfl
  refine ⟨_, hexec, ?_⟩
  have hq : queueAt (freeLaunch u l) l.queue = queueAt s l.queue := by
    unfold freeLaunch queueAt
    rw [dropHarts_eq]
    dsimp only
    rw [hu.hub_eq]
  have hlaunches : (freeLaunch u l).sched.launches = s.sched.launches.filter (fun x => x.serial ≠ serial) := by
    unfold freeLaunch
    rw [dropHarts_eq]
    dsimp only
    rw [hu.sched_eq, hserial]
  have hmem : (freeLaunch u l).mem = u.mem := by unfold freeLaunch; rw [dropHarts_eq]
  have hmsix : (freeLaunch u l).msix = s.msix := by unfold freeLaunch; rw [dropHarts_eq]; exact hu.msix_eq
  unfold launchIrq
  rw [hq]
  split
  · exact ⟨hmem, hlaunches, congrArg (· ++ _) hmsix⟩
  · exact ⟨hmem, hlaunches, hmsix.trans (List.append_nil _).symm⟩

/-! ## Pre-emption points (R18, R21, R370) -/

theorem drain_posted (s : State) (vec : Bool) : (drain s vec).hart.weak = s.hart.weak.setPosted vec [] := by
  obtain ⟨u, hu, e⟩ := drain_eq s vec
  rw [e]
  simp only [setPosted]
  rw [hu.hart_eq]

/-- A hart asked to stop, between two instructions. -/
structure atPoint (h : Hart) : Prop where
  asked : h.stopReq = true
  launched : h.who.dispatch = false
  goesOn : hartOver h = false
  between : midMatrix h = false
  performed : h.weak.late = []
  answered : remoteOpen h = false

section
variable {s t : State} {hid : Nat} (hf : focus s hid = some t) (hp : atPoint t.hart)
include hf hp

/-- Its stores perform, it stops, and the groups of its core that waited are retired. -/
theorem preemptionPoint_stops (hrun : launchAborted t t.hart.who.serial = false) (hgo : t.hart.stopped = false)
    (hres : t.hart.who.resident = true) : exec (.preemptionPointReached hid) s =
      .next (retirePending { drainAll t with hart := { (drainAll t).hart with stopped := true } } (coreOf t.hart.who)) := by
  show execPreemptionPointReached hid s = _
  unfold execPreemptionPointReached
  rw [hf]
  simp [hp.asked, hp.launched, hp.goesOn, hp.between, hp.performed, hp.answered, hrun, hgo, hres]

/-- The same, where no group waits. -/
theorem preemptionPoint_no_groups (hrun : launchAborted t t.hart.who.serial = false) (hgo : t.hart.stopped = false)
    (hres : t.hart.who.resident = true) (hnone : (coreAt t (coreOf t.hart.who)).pending = []) :
    exec (.preemptionPointReached hid) s = .next { drainAll t with hart := { (drainAll t).hart with stopped := true } } := by
  have hpend : (coreAt { drainAll t with hart := { (drainAll t).hart with stopped := true } } (coreOf t.hart.who)).pending = [] := by
    rw [← hnone]
    unfold coreAt drainAll
    rw [drain_cores, drain_cores]
  rw [preemptionPoint_stops hf hp hrun hgo hres, retirePending, hpend]
  rfl

/-- What holds of it in any case. -/
theorem preemptionPoint_groups (hrun : launchAborted t t.hart.who.serial = false) (hgo : t.hart.stopped = false)
    (hres : t.hart.who.resident = true) : ∃ v, exec (.preemptionPointReached hid) s = .next v ∧ v.hart.stopped = true
      ∧ v.hart.weak.postS = [] ∧ v.hart.weak.postV = []
      ∧ (coreAt v (coreOf t.hart.who)).failed = (coreAt t (coreOf t.hart.who)).failed ++ (coreAt t (coreOf t.hart.who)).pending := by
  refine ⟨_, preemptionPoint_stops hf hp hrun hgo hres, ?_⟩
  have hcores : ({ drainAll t with hart := { (drainAll t).hart with stopped := true } } : State).cores = t.cores := by
    unfold drainAll
    rw [drain_cores, drain_cores]
  have hweak : (drainAll t).hart.weak = (t.hart.weak.setPosted false []).setPosted true [] := by
    unfold drainAll
    rw [drain_posted, drain_posted]
  have hcore : coreAt { drainAll t with hart := { (drainAll t).hart with stopped := true } } (coreOf t.hart.who)
      = coreAt t (coreOf t.hart.who) := congrArg (fun x => tabGet CoreState.init x (coreOf t.hart.who)) hcores
  refine ⟨?_, ?_, ?_, ?_⟩
  · rw [retirePending_lanes]
  · rw [retirePending_lanes]
    exact congrArg Weak.postS hweak
  · rw [retirePending_lanes]
    exact congrArg Weak.postV hweak
  · rw [retirePending, retireGroups_failed, hcore]

/-- A hart of an aborted launch ends there (R18). -/
theorem preemptionPoint_aborted (hab : launchAborted t t.hart.who.serial = true) :
    ∃ v, exec (.preemptionPointReached hid) s = .next v ∧ v.hart.status = .halted ∧ v.hart.who.resident = false := by
  have hexec : exec (.preemptionPointReached hid) s =
      .next (settleHart { t with hart := { t.hart with status := .halted, stopReq := false, stopped := false } }) := by
    show execPreemptionPointReached hid s = _
    unfold execPreemptionPointReached
    rw [hf]
    simp [hp.asked, hp.launched, hp.goesOn, hp.between, hp.performed, hp.answered, hab]
  refine ⟨_, hexec, ?_⟩
  rw [settleHart_hart { t with hart := { t.hart with status := .halted, stopReq := false, stopped := false } } hp.launched]
  exact ⟨rfl, rfl⟩

end

/-! ## Context saves (R22, R23, R349) -/

/-- A request to stop does not show in the registers, and so not in the image. -/
theorem imageOf_stopReq (s : State) (b : Bool) : imageOf { s with hart := { s.hart with stopReq := b } } = imageOf s := by
  have hcsr (n : BitVec 12) : csrGet { s with hart := { s.hart with stopReq := b } } n = csrGet s n := rfl
  have hregs : imageRegs { s with hart := { s.hart with stopReq := b } } = imageRegs s := by
    unfold imageRegs
    simp only [hcsr]
    rfl
  unfold imageOf
  rw [hregs]
  rfl

theorem imageAt_saveImage (s : State) (hwf : tabWf [] s.images = true) : imageAt (saveImage s) s.hart.who.id = imageOf s := by
  unfold imageAt saveImage
  generalize imageOf s = img
  exact tabGet_set_same [] s.images s.hart.who.id img hwf

/-- The hart as a save leaves it. -/
def savedHart (h : Hart) : Hart :=
  { h with
    who := { h.who with resident := false }, weak := Weak.calm, pins := none
    eng := { h.eng with link := h.eng.link.map fun ls => ls.map fun p => (p.1, false) } }

/-- A stopped hart whose engines have drained is saved. -/
theorem contextSave_saves {s t : State} {hid : Nat} (hf : focus s hid = some t) (hstop : t.hart.stopped = true)
    (hres : t.hart.who.resident = true) (hdrained : drained t.hart = true) (hmid : midMatrix t.hart = false)
    (hrun : launchAborted t t.hart.who.serial = false) :
    ∃ v, exec (.contextSave hid) s = .next v ∧ v.hart.who = { t.hart.who with resident := false } ∧ v.hart.x = t.hart.x
      ∧ v.hart.vec = t.hart.vec ∧ v.hart.mat = t.hart.mat ∧ v.hart.trap = t.hart.trap ∧ v.hart.pc = t.hart.pc ∧ v.mem = t.mem
      ∧ (∀ ls, v.hart.eng.link = some ls → ∀ p ∈ ls, p.2 = false)
      ∧ (tabWf [] t.images = true → imageAt v t.hart.who.id = imageOf { t with hart := v.hart }) := by
  have hexec : exec (.contextSave hid) s =
      .next (settleGang (saveImage { t with hart := savedHart t.hart }) t.hart.who.serial t.hart.who.gang) := by
    show execContextSave hid s = _
    unfold execContextSave
    rw [hf]
    simp [hstop, hres, hdrained, hmid, hrun, savedHart]
  refine ⟨_, hexec, ?_⟩
  have hhart := settleGang_hart (saveImage { t with hart := savedHart t.hart }) t.hart.who.serial t.hart.who.gang
  generalize hv : settleGang (saveImage { t with hart := savedHart t.hart }) t.hart.who.serial t.hart.who.gang = v at hhart ⊢
  have himages : v.images = (saveImage { t with hart := savedHart t.hart }).images := by rw [← hv, settleGang_images]
  have hmem : v.mem = t.mem := by rw [← hv, settleGang_mem, saveImage_mem]
  rw [saveImage_hart] at hhart
  refine ⟨by rw [hhart]; rfl, by rw [hhart]; rfl, by rw [hhart]; rfl, by rw [hhart]; rfl, by rw [hhart]; rfl, by rw [hhart]; rfl,
    hmem, fun ls hls p hp => ?_, fun hwf => ?_⟩
  · rw [hhart] at hls
    obtain ⟨ks, -, rfl⟩ := Option.map_eq_some_iff.mp hls
    obtain ⟨q, -, rfl⟩ := List.mem_map.mp hp
    rfl
  · rw [hhart, imageAt, himages]
    have hid := imageAt_saveImage { t with hart := savedHart t.hart } hwf
    rw [imageAt] at hid
    exact hid.trans (imageOf_stopReq { t with hart := savedHart t.hart } v.hart.stopReq).symm

/-- Fields of an image, at the places of R347. -/
theorem imageOf_fields (x : State) : fieldAt (imageOf x) 0 4 = 0x4B435849 ∧ fieldAt (imageOf x) 4 2 = 1
    ∧ fieldAt (imageOf x) 8 4 = (imageOf x).length % 2 ^ 32
    ∧ (∀ r : BitVec 5, fieldAt (imageOf x) (0x100 + 8 * r.toNat) 8 = (rx x r).toNat) ∧ fieldAt (imageOf x) 0x200 8 = x.hart.pc.toNat
    ∧ (∀ r : BitVec 6, fieldAt (imageOf x) (0x400 + 8 * r.toNat) 8 = (rw x r).toNat) := by
  rw [imageOf_eq]
  generalize crc32c (imageWith x 0) = crc
  exact ⟨fieldAt_magic x crc, fieldAt_version x crc, fieldAt_size x crc, fieldAt_x x crc, fieldAt_pc x crc, fieldAt_w x crc⟩

/-- Settles O55: the completion word, the pre-emption point, the save, and the places of the image's fields. -/
theorem launchEvents : Obligations.LaunchEvents := by
  intro s t u serial hid l
  refine ⟨fun hl hover hst => completionWord_leaves hl hover ?_, fun hf hreq hdis hover hmid hlate hst hrem => ?_,
    fun hf hstop hres hdrained hmid hrun => contextSave_saves hf hstop hres hdrained hmid hrun, fun x => ?_⟩
  · rw [← hst]
    congr 1
    simp [completionWord]
  · have hp : atPoint t.hart := ⟨hreq, hdis, hover, hmid, hlate, by simp [remoteOpen, hst, hrem]⟩
    exact ⟨fun hrun hgo hres => ⟨preemptionPoint_no_groups hf hp hrun hgo hres, fun _ => preemptionPoint_groups hf hp hrun hgo hres⟩,
      preemptionPoint_aborted hf hp⟩
  · exact ⟨imageGood_imageOf x, imageOf_fields x⟩

end Sys2Proof.Proofs
end

section
/-!
The distributor (R12, R334, R350). DistributorEvents fails: it says that a resumed hart goes on as it was saved wherever the pc is
mapped as the hart's old core sees it, but CONTEXT_RESTORE looks the pc up from the core on which the hart resumes. A TLB of the
old core may still hold a translation that the page tables do not give any more; the new core walks them, finds nothing, and the
hart traps with FETCH_GONE.
-/
namespace Sys2Proof.Proofs

open Sys2Proof Sys2Proof.Machine Sys2Proof.Safety

/-- PLACEMENT_CONFIRM of a gang on the resume queue whose places still serve it and whose images are sound (R350). -/
theorem placementConfirm_resumes {s : State} {r : Reservation} {c : Cand} (hres : s.sched.reserved = some r) (hplacing : placing s = true)
    (hcand : candFor { s with sched := { s.sched with reserved := none } } r.serial r.gang c)
    (hplaces : placesOk { s with sched := { s.sched with reserved := none } } c r.inst r.places = true) (hresume : c.resume = true)
    (himages : imagesGood { s with sched := { s.sched with reserved := none } } c = true) :
    exec (.placementConfirm true true) s = .next (resumeGang { s with sched := { s.sched with reserved := none } } c r.inst r.places) := by
  have hplacing' : placing { s with sched := { s.sched with reserved := none } } = true := hplacing
  show execPlacementConfirm true true s = _
  unfold execPlacementConfirm
  rw [hres]
  dsimp only
  rw [hcand]
  simp [hplacing', hplaces, hresume, himages]

/-- The launch of one hart, whose only gang stands on the resume queue. -/
def staleLaunch : Launch :=
  { desc :=
      { entry := 0x10000, args := 0, done := 0, deadline := 0, cls := 0, shape := 0, scope := 1, gsize := 1, count := 1, irq := false
        sbNum := 0, sbFirst := 0, accb := 0, rows := 0, podid := 0, sessv := false, session := 0, est := 0 }
    serial := 7, queue := 0, fn := 0, troot := 0, ctxown := 0, sbs := []
    gangs := [{ index := 0, status := .preempted, inst := 0, placeAt := 0, preAt := 0, aged := 0, stop := false }]
    started := 1, gdone := 0, aborted := false, cause := 0, quiet := false, enqAt := 0, lastAt := 0, aged := 0, debug := false
    ccache := [], icache := [] }

/-- Its hart, saved while it ran on core 0. -/
def staleHart : Hart :=
  { Hart.blank with
    who := { Ident.zero with id := 1, serial := 7, gcount := 1, gsize := 1, gscope := 1 }, status := .running, stopped := true, pc := 0x10000 }

/-- A place on core 1 is reserved for it. Its address space has no tables; the TLB of core 0 still maps the page of its pc. -/
def staleSaved : State :=
  { State.reset with
    hart := staleHart
    tlb := [{ place := .core 0, asid := 0, vpn := 1, size := 16, leaf := 0xF#64 }]
    hub := { Hub.init with ready := true, fns := [(0, { FnRegs.init with root := 1 })] }
    sched := { Sched.init with launches := [staleLaunch], reserved := some { serial := 7, gang := 0, inst := 1, places := [(1, 0)] } } }

/-- The state, with the hart's image in the hub's memory. -/
def staleState : State := { staleSaved with images := [(1, imageOf staleSaved)] }

def staleCand : Cand := { l := staleLaunch, gang := 0, resume := true, e := 0 }

/-- The state in which the reservation is confirmed. -/
def staleConfirmed : State := { staleState with sched := { staleState.sched with reserved := none } }

theorem stale_candFor : candFor staleConfirmed 7 0 staleCand := by decide +kernel

theorem stale_placesOk : placesOk staleConfirmed staleCand 1 [(1, 0)] = true := by decide +kernel

theorem stale_gangRanks : gangRanks staleConfirmed staleCand = [staleHart] := by decide +kernel

theorem stale_imagesGood : imagesGood staleConfirmed staleCand = true := by
  unfold imagesGood
  rw [stale_gangRanks, List.all_cons, List.all_nil, Bool.and_true]
  exact imageGood_imageOf staleSaved

/-- Core 0 finds the page of the pc in its TLB. -/
theorem stale_mapped_on_old_core : lookup staleState (identSpace staleState staleHart.who) staleHart.pc.toNat ≠ .invalid := by
  decide +kernel

/-- The resumed hart has been halted. -/
theorem stale_resumed_halts :
    (resumeGang staleConfirmed staleCand 1 [(1, 0)]).hart.status = .halted := by decide +kernel

theorem stale_confirm : exec (.placementConfirm true true) staleState = .next (resumeGang staleConfirmed staleCand 1 [(1, 0)]) :=
  placementConfirm_resumes (s := staleState) (r := { serial := 7, gang := 0, inst := 1, places := [(1, 0)] }) rfl rfl stale_candFor
    stale_placesOk rfl stale_imagesGood

/-- Refutes O56: a hart that resumes on another core finds no translation of its pc there, though the TLB of its old core holds
one, and is halted by FETCH_GONE; the statement has it go on as it was saved. -/
theorem not_distributorEvents : ¬ Obligations.DistributorEvents := by
  intro h
  have hplacing : placing staleState = true := rfl
  obtain ⟨-, hconfirm, -⟩ := h staleState staleCand 1 7 0 [] { serial := 7, gang := 0, inst := 1, places := [(1, 0)] } staleLaunch
  obtain ⟨-, -, hresumes⟩ := hconfirm rfl hplacing stale_candFor stale_placesOk
  obtain ⟨t, ht, -, -, -, -, hstatus, -⟩ := hresumes staleHart (1, 0) staleState rfl stale_imagesGood stale_gangRanks rfl
    (focus_self _ _ rfl) rfl stale_mapped_on_old_core
  have e := Host.Outcome.next.inj (stale_confirm.symm.trans ht)
  rw [← e, stale_resumed_halts] at hstatus
  exact absurd hstatus (by decide)

end Sys2Proof.Proofs
end

section
/-!
Lane groups, banks, errors, ports and pod peers (R7, R8, R279, R305, R344, R346, R369, R370, R374 to R376, R393).
-/
namespace Sys2Proof.Proofs

open Sys2Proof Sys2Proof.Machine Sys2Proof.Safety

/-! ## Gangs that are asked to stop (R12) -/

/-- Every hart of the gang that goes on has been asked to stop. -/
def gangAsked (s : State) (n g : Nat) : Prop := ∀ x ∈ allHarts s, inGang n g x = true → hartOver x = true ∨ x.stopReq = true

theorem allHarts_mapHarts (f : Hart → Hart) (s : State) : allHarts (mapHarts f s) = (allHarts s).map f := rfl

/-- Asking a gang to stop asks its harts, and takes no earlier request back. -/
theorem gangAsked_requestStop (s : State) (n g m k : Nat) (h : (m = n ∧ k = g) ∨ gangAsked s n g) :
    gangAsked (requestStop s m k) n g := by
  intro x hx hin
  unfold requestStop at hx
  rw [allHarts_mapHarts] at hx
  obtain ⟨y, hy, rfl⟩ := List.mem_map.mp hx
  by_cases hgo : (inGang m k y && !hartOver y) = true
  · exact .inr (by rw [if_pos hgo])
  · rw [if_neg hgo] at hin ⊢
    obtain ⟨rfl, rfl⟩ | hasked := h
    · exact .inl (by simpa [hin] using hgo)
    · exact hasked y hy hin

theorem gangAsked_requestStops (gs : List (Nat × Nat)) (s : State) (n g : Nat) (h : (n, g) ∈ gs ∨ gangAsked s n g) :
    gangAsked (gs.foldl (fun t g => requestStop t g.1 g.2) s) n g := by
  induction gs generalizing s with
  | nil => exact h.resolve_left (List.not_mem_nil)
  | cons p gs ih =>
    refine ih _ ?_
    rw [List.mem_cons] at h
    obtain (rfl | hmem) | hasked := h
    · exact .inr (gangAsked_requestStop s n g _ _ (.inl ⟨rfl, rfl⟩))
    · exact .inl hmem
    · exact .inr (gangAsked_requestStop s n g _ _ (.inr hasked))

/-- The gang of a hart that occupies a slot of a core is on that core. -/
theorem mem_gangsOn {s : State} {core : Nat} {h : Hart} (hh : h ∈ allHarts s) (hocc : occupies noGang h = true)
    (hcore : coreOf h.who = core) : (h.who.serial, h.who.gang) ∈ gangsOn s core := by
  have hon : onCore core h = true := by simpa [onCore, occupies, noGang, hcore] using hocc
  unfold gangsOn
  rw [List.mem_eraseDups]
  exact List.mem_map.mpr ⟨h, List.mem_filter.mpr ⟨hh, hon⟩, rfl⟩

/-! ## Lane groups (R7, R8, R370, R393) -/

section
variable {s : State} {core grp : Nat} (hc : core < 1024) (hg : grp < 9)
  (hserves : (coreAt s core).out = false ∧ grp ∉ (coreAt s core).failed ∧ grp ∉ (coreAt s core).pending)
include hc hg hserves

/-- A group that serves is retired at once where no gang is on its core. -/
theorem failGroup_idle (hidle : gangsOn s core = []) : failGroup s core grp = retireGroup s core grp := by
  obtain ⟨hout, hfailed, hpending⟩ := hserves
  unfold failGroup
  simp [show ¬1024 ≤ core by omega, show ¬9 ≤ grp by omega, hout, hfailed, hpending, hidle]

/-- Else it waits for the core's next pre-emption point, for which the gangs are asked to stop. -/
theorem failGroup_busy (hbusy : gangsOn s core ≠ []) : failGroup s core grp =
    (gangsOn s core).foldl (fun t g => requestStop t g.1 g.2)
      (setCore s core { coreAt s core with pending := (coreAt s core).pending ++ [grp] }) := by
  obtain ⟨hout, hfailed, hpending⟩ := hserves
  unfold failGroup
  simp [show ¬1024 ≤ core by omega, show ¬9 ≤ grp by omega, hout, hfailed, hpending, hbusy]

end

theorem coreRetired_not_pending {c : CoreState} {grp : Nat} (h : grp ∉ c.pending) : coreRetired c grp =
    { c with failed := c.failed ++ [grp], degraded := decide (2 ≤ c.failed.length + 1), out := decide (5 < c.failed.length + 1) } := by
  unfold coreRetired
  rw [List.filter_eq_self.mpr fun a ha => by simpa using fun e : a = grp => h (e ▸ ha)]

/-- A core with one more group that waits. -/
theorem coreAt_failGroup_busy (s : State) (core grp k : Nat) (gs : List (Nat × Nat)) :
    coreAt (gs.foldl (fun t g => requestStop t g.1 g.2)
      (setCore s core { coreAt s core with pending := (coreAt s core).pending ++ [grp] })) k =
    if k = core then { coreAt s core with pending := (coreAt s core).pending ++ [grp] } else coreAt s k := by
  have hne : ({ coreAt s core with pending := (coreAt s core).pending ++ [grp] } : CoreState) ≠ CoreState.init := fun h => by
    simpa [CoreState.init] using congrArg CoreState.pending h
  rw [← coreAt_setCore s core k _ hne]
  exact congrArg (fun x => tabGet CoreState.init x k) (requestStops_cores gs _)

theorem failGroup_lanes (s : State) (core grp : Nat) : LanesOnly s (failGroup s core grp) := by
  unfold failGroup
  dsimp only
  split
  · exact LanesOnly.refl s
  · split
    · exact retireGroup_lanes s core grp
    · exact LanesOnly.trans (by exact rfl) (LanesOnly.foldl (fun t (g : Nat × Nat) => requestStop_lanes t g.1 g.2) _ _)

/-- LANE_GROUP_FAILURE of a group that serves. -/
theorem laneGroupFailure_serving {s : State} {core grp : Nat} (hc : core < 1024) (hg : grp < 9)
    (hserves : (coreAt s core).out = false ∧ grp ∉ (coreAt s core).failed ∧ grp ∉ (coreAt s core).pending) :
    let n := (coreAt s core).failed.length + 1
    ∃ t, exec (.laneGroupFailure core grp) s = .next t ∧ (∀ k, k ≠ core → coreAt t k = coreAt s k)
      ∧ (gangsOn s core = [] → t.msix = s.msix ++ [(0, 0)] ∧ coreAt t core = { coreAt s core with
          failed := (coreAt s core).failed ++ [grp], degraded := decide (2 ≤ n), out := decide (5 < n) })
      ∧ (gangsOn s core ≠ [] → t.msix = s.msix ∧ coreAt t core = { coreAt s core with pending := (coreAt s core).pending ++ [grp] }
        ∧ ∀ h ∈ allHarts s, occupies noGang h = true → coreOf h.who = core →
          ∀ x ∈ allHarts t, inGang h.who.serial h.who.gang x = true → hartOver x = true ∨ x.stopReq = true) := by
  refine ⟨failGroup s core grp, rfl, ?_⟩
  by_cases hidle : gangsOn s core = []
  · rw [failGroup_idle hc hg hserves hidle]
    refine ⟨fun k hk => (coreAt_retireGroup ..).trans (if_neg hk), fun _ => ⟨retireGroup_msix .., ?_⟩, fun h => absurd hidle h⟩
    rw [coreAt_retireGroup, if_pos rfl, coreRetired_not_pending hserves.2.2]
  · rw [failGroup_busy hc hg hserves hidle]
    refine ⟨fun k hk => (coreAt_failGroup_busy ..).trans (if_neg hk), fun h => absurd h hidle, fun _ =>
      ⟨requestStops_msix .., (coreAt_failGroup_busy ..).trans (if_pos rfl), fun h hh hocc hcore => ?_⟩⟩
    exact gangAsked_requestStops _ _ _ _ (.inl (mem_gangsOn hh hocc hcore))

/-! ## Corrected errors (R369, R370, R371) -/

/-- From `s` to `t` the colophon and its hour have changed. -/
def HoursOnly (s t : State) : Prop :=
  t = { s with hub := { s.hub with colo := t.hub.colo, coloHour := t.hub.coloHour, hourSecs := t.hub.hourSecs } }

theorem HoursOnly.trans {s t u : State} (h : HoursOnly s t) (k : HoursOnly t u) : HoursOnly s u := by
  unfold HoursOnly at h k ⊢
  rw [k, h]

theorem HoursOnly.foldl {α : Type} {f : State → α → State} (hf : ∀ s a, HoursOnly s (f s a)) (xs : List α) (s : State) :
    HoursOnly s (xs.foldl f s) := by
  induction xs generalizing s with
  | nil => exact rfl
  | cons x xs ih => exact HoursOnly.trans (hf s x) (ih _)

/-- The hour's counts as the colophon takes them over. -/
def hourRecorded (s : State) (ps : List (Nat × Nat)) : State :=
  ps.foldl (fun u p => coloAdd u (coloKey 1 p.1 p.2 (errorBucket (tabGet 0 s.hub.coloHour (p.1 * 16 + p.2)))) 1) s

theorem closeHour_eq (s : State) : ∃ ps, closeHour s =
    { hourRecorded s ps with hub := { (hourRecorded s ps).hub with coloHour := [], hourSecs := s.hub.hourSecs - 3600 } } := ⟨_, rfl⟩

theorem closeHour_only (s : State) : HoursOnly s (closeHour s) := by
  obtain ⟨ps, e⟩ := closeHour_eq s
  have h : HoursOnly s (hourRecorded s ps) := HoursOnly.foldl (by exact fun _ _ => rfl) ps s
  rw [e]
  exact h.trans rfl

theorem closeHours_only (s : State) : HoursOnly s (closeHours s) := HoursOnly.foldl (fun t _ => closeHour_only t) _ s

theorem closeHours_early {s : State} (h : s.hub.hourSecs < 3600) : closeHours s = s := by
  unfold closeHours
  rw [Nat.div_eq_of_lt h]
  rfl

theorem coloError_eq (s : State) (die st : Nat) : coloError s die st =
    { closeHours s with hub := { (closeHours s).hub with coloHour := (coloError s die st).hub.coloHour } } := rfl

/-- An error is counted under its structure, and under no other. -/
theorem coloHour_coloError (s : State) (die st k : Nat) : tabGet 0 (coloError s die st).hub.coloHour k =
    if k = die * 16 + st then tabGet 0 (closeHours s).hub.coloHour (die * 16 + st) + 1 else tabGet 0 (closeHours s).hub.coloHour k :=
  tabGet_set_listed _ _ _ _ _ (Nat.succ_ne_zero _)

theorem coloError_only (s : State) (die st : Nat) : HoursOnly s (coloError s die st) :=
  (closeHours_only s).trans (by exact rfl)

/-- Where a count of the hour is found after the hours that are over have been recorded. -/
theorem closeHours_coloHour (s : State) : (closeHours s).hub.coloHour = if s.hub.hourSecs < 3600 then s.hub.coloHour else [] := by
  split
  · next h => rw [closeHours_early h]
  · next h =>
    obtain ⟨n, hn⟩ := Nat.exists_eq_add_one_of_ne_zero (n := s.hub.hourSecs / 3600) (by omega)
    obtain ⟨ps, e⟩ := closeHour_eq ((List.range n).foldl (fun t _ => closeHour t) s)
    unfold closeHours
    rw [hn, List.range_succ, List.foldl_append, List.foldl_cons, List.foldl_nil, e]

section
variable {s t : State} (h : HoursOnly s t)
include h

theorem HoursOnly.coreAt_eq (k : Nat) : coreAt t k = coreAt s k := by rw [h]; rfl
theorem HoursOnly.gangsOn_eq (k : Nat) : gangsOn t k = gangsOn s k := by rw [h]; rfl
theorem HoursOnly.time_eq : t.time = s.time := by rw [h]

end

/-- The residue errors of a core that count after one of group `grp` at `now` (R370). -/
def residueNow (s : State) (core grp : Nat) : List (Nat × Nat) :=
  (grp, s.time) :: (coreAt s core).residue.filter fun e => decide (s.time < e.2 + 3600000000000)

/-- The core with its residue errors recorded. -/
def residueKept (s : State) (core grp : Nat) : State := setCore s core { coreAt s core with residue := residueNow s core grp }

theorem residueError_eq (s : State) (core grp : Nat) : residueError s core grp =
    if 64 < (residueNow s core grp).countP (·.1 == grp) then failGroup (residueKept s core grp) core grp else residueKept s core grp := rfl

theorem coreAt_residueKept (s : State) (core grp k : Nat) : coreAt (residueKept s core grp) k =
    if k = core then { coreAt s core with residue := residueNow s core grp } else coreAt s k :=
  coreAt_setCore _ _ _ _ fun h => by simpa [CoreState.init, residueNow] using congrArg CoreState.residue h

theorem residueError_lanes (s : State) (core grp : Nat) : LanesOnly s (residueError s core grp) := by
  have hkept : LanesOnly s (residueKept s core grp) := rfl
  rw [residueError_eq]
  split
  · exact hkept.trans (failGroup_lanes _ core grp)
  · exact hkept

theorem residueError_coloHour (s : State) (core grp : Nat) : (residueError s core grp).hub.coloHour = s.hub.coloHour := by
  rw [residueError_lanes s core grp]

/-- With more than 64 in an hour a group that serves is retired, or is to be. -/
theorem residueError_fails {s : State} {core grp : Nat} (hc : core < 1024) (hg : grp < 9)
    (hmany : 64 < (residueNow s core grp).countP (·.1 == grp))
    (hserves : (coreAt s core).out = false ∧ grp ∉ (coreAt s core).failed ∧ grp ∉ (coreAt s core).pending) :
    (gangsOn s core = [] → grp ∈ (coreAt (residueError s core grp) core).failed)
    ∧ (gangsOn s core ≠ [] → grp ∈ (coreAt (residueError s core grp) core).pending) := by
  have hat := coreAt_residueKept s core grp core
  rw [if_pos rfl] at hat
  have hstill : (coreAt (residueKept s core grp) core).out = false ∧ grp ∉ (coreAt (residueKept s core grp) core).failed
      ∧ grp ∉ (coreAt (residueKept s core grp) core).pending := by rw [hat]; exact hserves
  have hgangs : gangsOn (residueKept s core grp) core = gangsOn s core := rfl
  rw [residueError_eq, if_pos hmany]
  constructor
  · intro hidle
    rw [failGroup_idle hc hg hstill (hgangs.trans hidle), coreAt_retireGroup, if_pos rfl]
    exact List.mem_append_right _ (List.mem_singleton.mpr rfl)
  · intro hbusy
    rw [failGroup_busy hc hg hstill fun h => hbusy (hgangs.symm.trans h), coreAt_failGroup_busy, if_pos rfl]
    exact List.mem_append_right _ (List.mem_singleton.mpr rfl)

/-- Only a die of the module has lanes. -/
theorem die_of_lanes {die : Nat} (h : hasStruct die 2 = true) : die < 16 := by
  unfold hasStruct at h
  split at h
  · cases h
  · simpa using h

theorem execCorrectedError_eq {s : State} {die st core grp : Nat} (hst : hasStruct die st = true) (hsite : st = 2 → core < 64 ∧ grp < 9) :
    execCorrectedError die ⟨st, core, grp⟩ s =
      .next (if st = 2 then residueError (coloError s die 2) (die * 64 + core) grp else coloError s die st) := by
  refine if_neg fun h => ?_
  simp only [hst, Bool.not_true, Bool.false_or, Bool.and_eq_true, beq_iff_eq, Bool.or_eq_true, decide_eq_true_eq] at h
  obtain ⟨h2, hout⟩ := h
  have := hsite h2
  omega

/-- An error of a structure other than the lanes' residue is counted, and nothing else is done. -/
theorem correctedError_counted {s : State} {die st core grp : Nat} (hst : hasStruct die st = true) (hne : st ≠ 2) :
    exec (.correctedError die ⟨st, core, grp⟩) s = .next (coloError s die st) := by
  exact (execCorrectedError_eq hst fun h => absurd h hne).trans (by rw [if_neg hne])

theorem correctedError_residue {s : State} {die core grp : Nat} (hst : hasStruct die 2 = true) (hc : core < 64) (hg : grp < 9) :
    exec (.correctedError die ⟨2, core, grp⟩) s = .next (residueError (coloError s die 2) (die * 64 + core) grp) :=
  (execCorrectedError_eq hst fun _ => ⟨hc, hg⟩).trans (by rw [if_pos rfl])

/-- What the lanes' residue errors of an hour make of the core. -/
theorem residue_counted {s u : State} (h : HoursOnly s u) {c grp : Nat} (hc : c < 1024) (hg : grp < 9) :
    let now := (grp, s.time) :: (coreAt s c).residue.filter fun e => decide (s.time < e.2 + 3600000000000)
    let t := residueError u c grp
    (now.countP (·.1 == grp) ≤ 64 → t = { u with cores := t.cores }
      ∧ coreAt t c = { coreAt s c with residue := now } ∧ ∀ k, k ≠ c → coreAt t k = coreAt s k)
    ∧ (64 < now.countP (·.1 == grp) → ((coreAt s c).out = false ∧ grp ∉ (coreAt s c).failed ∧ grp ∉ (coreAt s c).pending) →
      (gangsOn s c = [] → grp ∈ (coreAt t c).failed) ∧ (gangsOn s c ≠ [] → grp ∈ (coreAt t c).pending)) := by
  dsimp only
  have hnow : residueNow u c grp = (grp, s.time) :: (coreAt s c).residue.filter fun e => decide (s.time < e.2 + 3600000000000) := by
    rw [residueNow, h.coreAt_eq, h.time_eq]
  rw [← hnow, ← h.coreAt_eq, ← h.gangsOn_eq]
  refine ⟨fun hfew => ?_, fun hmany hserves => residueError_fails hc hg hmany hserves⟩
  rw [residueError_eq, if_neg (by omega)]
  refine ⟨rfl, by rw [coreAt_residueKept, if_pos rfl], fun k hk => ?_⟩
  rw [coreAt_residueKept, if_neg hk, h.coreAt_eq]

end Sys2Proof.Proofs
end

section
/-!
Evicted lines with errors, retired banks, and the ports (R344, R370, R374, R375, R305).
-/
namespace Sys2Proof.Proofs

open Sys2Proof Sys2Proof.Machine Sys2Proof.Safety

/-! ## Evictions with a data error (R344) -/

theorem StoresOnly.allHarts_eq {s t : State} (h : StoresOnly s t) : (allHarts t).map unlinked = (allHarts s).map unlinked := by
  unfold allHarts
  rw [List.map_cons, List.map_cons, h.others_eq, h.hart_eq]
  rfl

/-- An event of a function whose log is off is counted and reported alone. -/
theorem writeEvent_unlogged {s : State} {f : Nat} (bytes : List Byte) (hoff : (fnAt s f).evLg = 0) :
    writeEvent s f bytes = sendMsix (setFn s f { fnAt s f with evHead := (fnAt s f).evHead + 1 }) f 0 := by
  have h : eventStored s f bytes = s := by
    unfold eventStored
    dsimp only
    rw [hoff]
    rfl
  rw [writeEvent_eq, h]

/-- The line's owner domain, where the copies agree on it. -/
theorem lineDomain_eq {s : State} {line dom d : Nat} (hnone : s.lines.filter (fun l => l.line == line) = [] → d = dom)
    (hown : ∀ l ∈ s.lines, l.line = line → l.own = d) : lineDomain s line dom = d := by
  have hat : ∀ x ∈ s.lines.filter (fun l => l.line == line), x.own = d := fun x hx => by
    obtain ⟨hmem, hline⟩ := List.mem_filter.mp hx
    exact hown x hmem (by simpa using hline)
  unfold lineDomain
  dsimp only
  split
  · next x h => exact hat x (List.mem_of_find?_eq_some h)
  · next x _ h => exact hat x (List.mem_of_head? h)
  · next _ h => exact (hnone (List.head?_eq_none_iff.mp h)).symm

/-- The line gone from the caches and marked, its link tags broken. -/
def lineEvicted (s : State) (line : Nat) : State :=
  breakLine line none { s with
    lines := s.lines.filter fun x => x.line != line
    poison := if s.poison.contains line then s.poison else s.poison ++ [line] }

theorem execEvictionDataError_eq {s : State} {pa dom d : Nat} (hpa : pa < 2 ^ 52) (hd : lineDomain s (pa / 64) dom = d) :
    ∃ bytes, execEvictionDataError pa dom s = .next (writeEvent (lineEvicted s (pa / 64)) (ownerFn s d) bytes) := by
  subst hd
  exact ⟨_, if_neg (Nat.not_le.mpr hpa)⟩

theorem lineEvicted_poison (s : State) (line k : Nat) : k ∈ (lineEvicted s line).poison ↔ k = line ∨ k ∈ s.poison := by
  have e : (lineEvicted s line).poison = if s.poison.contains line then s.poison else s.poison ++ [line] := rfl
  rw [e]
  split
  · next h =>
    rw [List.contains_iff_mem] at h
    exact ⟨.inr, fun hk => hk.elim (fun hk => hk ▸ h) id⟩
  · rw [List.mem_append, List.mem_singleton, or_comm]

theorem lineEvicted_lines (s : State) (line : Nat) (l : CacheLine) :
    l ∈ (lineEvicted s line).lines ↔ l ∈ s.lines ∧ l.line ≠ line := by
  have e : (lineEvicted s line).lines = s.lines.filter fun x => x.line != line := rfl
  rw [e, List.mem_filter, bne_iff_ne]

theorem lineEvicted_harts (s : State) (line : Nat) : (allHarts (lineEvicted s line)).map unlinked = (allHarts s).map unlinked :=
  (breakLine_stores ..).allHarts_eq

/-- EVICTION_DATA_ERROR of a line whose owner's function keeps no event log. -/
theorem evictionDataError_marks {s : State} {pa dom d : Nat} (hpa : pa < 2 ^ 52)
    (hnone : s.lines.filter (fun l => l.line == pa / 64) = [] → d = dom) (hown : ∀ l ∈ s.lines, l.line = pa / 64 → l.own = d)
    (hoff : (fnAt s (ownerFn s d)).evLg = 0) : ∃ t, exec (.evictionDataError pa dom) s = .next t
      ∧ pa / 64 ∈ t.poison ∧ (∀ k, k ≠ pa / 64 → (k ∈ t.poison ↔ k ∈ s.poison)) ∧ t.mem = s.mem
      ∧ (∀ l, l ∈ t.lines ↔ l ∈ s.lines ∧ l.line ≠ pa / 64)
      ∧ t.msix = s.msix ++ [(ownerFn s d, 0)] ∧ (allHarts t).map unlinked = (allHarts s).map unlinked := by
  obtain ⟨bytes, e⟩ := execEvictionDataError_eq hpa (lineDomain_eq hnone hown)
  have hoff' : (fnAt (lineEvicted s (pa / 64)) (ownerFn s d)).evLg = 0 := hoff
  rw [writeEvent_unlogged bytes hoff'] at e
  refine ⟨_, e, (lineEvicted_poison ..).mpr (.inl rfl), fun k hk => (lineEvicted_poison ..).trans (or_iff_right hk), rfl,
    lineEvicted_lines s (pa / 64), rfl, lineEvicted_harts s (pa / 64)⟩

/-! ## Banks (R370) -/

theorem bankAt_setBank (s : State) (key k : Nat) (b : Bank) (hb : b ≠ Bank.init) :
    bankAt (setBank s key b) k = if k = key then b else bankAt s k := tabGet_set_listed _ _ _ _ _ hb

theorem mem_dropWay (s : State) (quad bank : Nat) (hbank : bank < 64) (l : CacheLine) :
    l ∈ (dropWay s (quad * 64 + bank)).lines ↔ l ∈ s.lines ∧ ¬(l.quad = some quad ∧ l.way = bank) := by
  have hquad : (quad * 64 + bank) / 64 = quad := by omega
  have hway : (quad * 64 + bank) % 64 = bank := by omega
  have e : (dropWay s (quad * 64 + bank)).lines = s.lines.filter fun l => !(l.quad == some quad && l.way == bank) := by
    unfold dropWay
    rw [hquad, hway]
  rw [e, List.mem_filter, Bool.not_eq_true', ← Bool.not_eq_true, Bool.and_eq_true, beq_iff_eq, beq_iff_eq]

/-- BANK_RETIREMENT of a bank in service. -/
theorem bankRetirement_retires {s : State} {die quad bank : Nat} (hdie : die < 16) (hquad : quad < 16) (hbank : bank < 64)
    (hin : (bankAt s (bankKey die quad bank)).retired = false) : ∃ t, exec (.bankRetirement die quad bank) s = .next t
      ∧ bankAt t (bankKey die quad bank) = { bankAt s (bankKey die quad bank) with retired := true, changing := none }
      ∧ (∀ k, k ≠ bankKey die quad bank → bankAt t k = bankAt s k)
      ∧ (∀ l, l ∈ t.lines ↔ l ∈ s.lines ∧ ¬(l.quad = some (die * 16 + quad) ∧ l.way = bank))
      ∧ t = { s with banks := t.banks, lines := t.lines, hub := { s.hub with colo := t.hub.colo } } := by
  have e : execBankRetirement die quad bank s = .next (coloAdd (dropWay (setBank s (bankKey die quad bank)
      { bankAt s (bankKey die quad bank) with retired := true, changing := none }) (bankKey die quad bank)) (coloKey 3 die 0 2) 1) := by
    unfold execBankRetirement
    simp only [Nat.not_le_of_lt hdie, Nat.not_le_of_lt hquad, Nat.not_le_of_lt hbank, hin, decide_false, Bool.or_false, if_false,
      Bool.false_eq_true]
  have hset := fun k => bankAt_setBank s (bankKey die quad bank) k
    { bankAt s (bankKey die quad bank) with retired := true, changing := none }
    fun h => Bool.noConfusion (congrArg Bank.retired h)
  exact ⟨_, e, (hset _).trans (if_pos rfl), fun k hk => (hset k).trans (if_neg hk), mem_dropWay _ _ _ hbank, rfl⟩

/-! ## Ports (R374, R375) -/

theorem portAt_setPort (s : State) (p k : Nat) (v : Port) (hv : v ≠ Port.init) :
    portAt (setPort s p v) k = if k = p then v else portAt s k := tabGet_set_listed _ _ _ _ _ hv

/-- A change of STATE sets EV. -/
theorem portAt_portState (s : State) (p k st : Nat) (lanes : BitVec 4) :
    portAt (portState s p st lanes) k = if k = p then { portAt s p with state := st, ev := true, lanes := lanes } else portAt s k :=
  portAt_setPort _ _ _ _ fun h => Bool.noConfusion (congrArg Port.ev h)

/-- The port as it enters training. -/
def portTraining (p : Port) : Port :=
  { p with state := 1, ev := true, lanes := 0, retrains := (p.retrains + 1) % 65536, replays := 0 }

theorem portTrain_eq (s : State) (p : Nat) :
    portTrain s p = coloAdd (setPort (portState s p 1 0) p (portTraining (portAt s p))) (coloKey 4 0 0 p) 1 := by
  have hstate := portAt_portState s p p 1 0
  rw [if_pos rfl] at hstate
  unfold portTrain portTraining
  dsimp only
  rw [hstate]

theorem portAt_portTrain (s : State) (p k : Nat) :
    portAt (portTrain s p) k = if k = p then portTraining (portAt s p) else portAt s k := by
  have htrain : portAt (portTrain s p) k = portAt (setPort (portState s p 1 0) p (portTraining (portAt s p))) k := by
    rw [portTrain_eq]
    rfl
  rw [htrain, portAt_setPort _ _ _ _ fun h => Bool.noConfusion (congrArg Port.ev h)]
  split
  · rfl
  · next hk => rw [portAt_portState, if_neg hk]

theorem portAt_linkFalls (s : State) (p k : Nat) :
    portAt (linkFalls s p) k = if k = p then portTraining (portAt s p) else portAt s k := by
  have hcolo : ∀ k, portAt (coloAdd (portState s p 0 0) (coloKey 6 0 0 p) 1) k = portAt (portState s p 0 0) k := fun _ => rfl
  unfold linkFalls
  rw [portAt_portTrain, hcolo, hcolo, portAt_portState, portAt_portState, if_pos rfl]
  split
  · rfl
  · rfl

/-- From `s` to `t` the ports, their records and the messages have changed. -/
def PortsOnly (s t : State) : Prop := t = { s with hub := { s.hub with ports := t.hub.ports, colo := t.hub.colo }, msix := t.msix }

theorem PortsOnly.trans {s t u : State} (h : PortsOnly s t) (k : PortsOnly t u) : PortsOnly s u := by
  unfold PortsOnly at h k ⊢
  rw [k, h]

theorem portState_only (s : State) (p st : Nat) (lanes : BitVec 4) : PortsOnly s (portState s p st lanes) := rfl
theorem setPort_only (s : State) (p : Nat) (v : Port) : PortsOnly s (setPort s p v) := rfl
theorem coloAdd_only (s : State) (key n : Nat) : PortsOnly s (coloAdd s key n) := rfl

theorem portTrain_only (s : State) (p : Nat) : PortsOnly s (portTrain s p) := by
  rw [portTrain_eq]
  exact ((portState_only ..).trans (setPort_only ..)).trans (coloAdd_only ..)

theorem linkFalls_only (s : State) (p : Nat) : PortsOnly s (linkFalls s p) :=
  ((portState_only ..).trans (coloAdd_only ..)).trans (portTrain_only ..)

/-- A port that enters training, said of the module. -/
theorem training_of {s t : State} {port : Nat} (hat : ∀ k, portAt t k = if k = port then portTraining (portAt s port) else portAt s k)
    (honly : PortsOnly s t) : portAt t port = portTraining (portAt s port)
      ∧ (∀ k, k ≠ port → portAt t k = portAt s k) ∧ t.mem = s.mem ∧ t.hart = s.hart :=
  ⟨(hat port).trans (if_pos rfl), fun k hk => (hat k).trans (if_neg hk), by rw [honly], by rw [honly]⟩

/-- LINK_DOWN of a port that is neither in training nor failed. -/
theorem linkDown_trains {s : State} {port : Nat} (hport : port < 32)
    (hst : (portAt s port).state = 0 ∨ (portAt s port).state = 2 ∨ (portAt s port).state = 3) :
    ∃ t, exec (.linkDown port) s = .next t ∧ portAt t port = portTraining (portAt s port)
      ∧ (∀ k, k ≠ port → portAt t k = portAt s k) ∧ t.mem = s.mem ∧ t.hart = s.hart := by
  by_cases h0 : (portAt s port).state = 0
  · have e : execLinkDown port s = .next (portTrain s port) := by
      unfold execLinkDown
      simp [Nat.not_le_of_lt hport, h0]
    exact ⟨_, e, training_of (portAt_portTrain s port) (portTrain_only s port)⟩
  · have e : execLinkDown port s = .next (linkFalls s port) := by
      unfold execLinkDown
      simp [show ¬32 ≤ port by omega, h0, show (portAt s port).state ≠ 1 by omega, show (portAt s port).state ≠ 4 by omega]
    exact ⟨_, e, training_of (portAt_linkFalls s port) (linkFalls_only s port)⟩

/-! ### Flits that are sent again (R375) -/

/-- From `s` to `t` events have been counted: of the hub only functions' registers have changed, and memory has not. -/
def Counted (s t : State) : Prop := t.hub = { s.hub with fns := t.hub.fns } ∧ t.mem = s.mem

theorem Counted.refl (s : State) : Counted s s := ⟨rfl, rfl⟩

theorem Counted.trans {s t u : State} (h : Counted s t) (k : Counted t u) : Counted s u := by
  obtain ⟨h1, h2⟩ := h
  obtain ⟨k1, k2⟩ := k
  exact ⟨by rw [k1, h1], k2.trans h2⟩

theorem focus_counted {s t : State} {hid : Nat} (h : focus s hid = some t) : Counted s t := by
  refine ⟨?_, focus_mem h⟩
  unfold focus at h
  split at h
  · cases h; rfl
  · split at h
    · cases h; rfl
    · cases h

theorem evCount_counted (code n : Nat) (s : State) : Counted s (evCount code n s) :=
  ⟨by rw [evCount_only code n s], evCount_mem code n s⟩

theorem evCounts_counted (code n : Nat) (ids : List Nat) (s : State) :
    Counted s (ids.foldl (fun u id => match focus u id with | some v => evCount code n v | none => u) s) := by
  induction ids generalizing s with
  | nil => exact Counted.refl s
  | cons id ids ih =>
    refine Counted.trans ?_ (ih _)
    dsimp only
    split
    · next h => exact (focus_counted h).trans (evCount_counted code n _)
    · exact Counted.refl s

theorem evCountAll_counted (code n : Nat) (s : State) : Counted s (evCountAll code n s) := by
  unfold evCountAll
  dsimp only
  refine (evCounts_counted code n ((allHarts s).map (·.who.id)) s).trans ?_
  generalize ((allHarts s).map (·.who.id)).foldl (fun u id => match focus u id with | some v => evCount code n v | none => u) s = t
  cases h : focus t s.hart.who.id with
  | none => exact Counted.refl t
  | some u => exact focus_counted h

/-- The state in which a flit of a port has failed its check once more. -/
def flitFailed (s : State) (port : Nat) : State :=
  evCountAll 0x0032 1 (coloError (setPort s port { portAt s port with replays := (portAt s port).replays + 1 }) 16 7)

theorem execFlitReplay_eq {s : State} {port : Nat} (hup : (portAt s port).state = 2 ∨ (portAt s port).state = 3) :
    execFlitReplay port s = .next (if 8 ≤ (portAt s port).replays + 1 then linkFalls (flitFailed s port) port else flitFailed s port) := by
  have h : portUp (portAt s port) = true := by simpa [portUp] using hup
  unfold execFlitReplay
  dsimp only
  rw [if_pos h]
  rfl

theorem portAt_flitFailed (s : State) (port k : Nat) : portAt (flitFailed s port) k =
    if k = port then { portAt s port with replays := (portAt s port).replays + 1 } else portAt s k := by
  have hne : ({ portAt s port with replays := (portAt s port).replays + 1 } : Port) ≠ Port.init :=
    fun h => Nat.succ_ne_zero _ (congrArg Port.replays h)
  have hports : (flitFailed s port).hub.ports =
      (setPort s port { portAt s port with replays := (portAt s port).replays + 1 }).hub.ports := by
    unfold flitFailed
    rw [(evCountAll_counted ..).1, coloError_only]
  rw [← portAt_setPort s port k _ hne]
  unfold portAt
  rw [hports]
  rfl

theorem flitFailed_mem (s : State) (port : Nat) : (flitFailed s port).mem = s.mem := by
  unfold flitFailed
  rw [(evCountAll_counted ..).2, coloError_only]
  rfl

/-- The failure is counted as an error of the hub's structure 7. -/
theorem flitFailed_coloHour (s : State) (port : Nat) :
    tabGet 0 (flitFailed s port).hub.coloHour 263 = tabGet 0 (closeHours s).hub.coloHour 263 + 1 := by
  unfold flitFailed
  rw [(evCountAll_counted ..).1, coloHour_coloError, if_pos rfl, closeHours_coloHour, closeHours_coloHour]
  rfl

/-- FLIT_REPLAY of an up link. -/
theorem flitReplay_counts {s : State} {port : Nat} (hup : (portAt s port).state = 2 ∨ (portAt s port).state = 3) :
    ∃ t, exec (.flitReplay port) s = .next t
      ∧ ((portAt s port).replays < 7 → portAt t port = { portAt s port with replays := (portAt s port).replays + 1 })
      ∧ (7 ≤ (portAt s port).replays → portAt t port = portTraining (portAt s port))
      ∧ (∀ k, k ≠ port → portAt t k = portAt s k)
      ∧ tabGet 0 t.hub.coloHour 263 = tabGet 0 (closeHours s).hub.coloHour 263 + 1 ∧ t.mem = s.mem := by
  refine ⟨_, execFlitReplay_eq hup, ?_⟩
  have hat := portAt_flitFailed s port
  split
  · next h8 =>
    have hfall := portAt_linkFalls (flitFailed s port) port
    have htrain : portTraining (portAt (flitFailed s port) port) = portTraining (portAt s port) := by rw [hat, if_pos rfl]; rfl
    rw [htrain] at hfall
    refine ⟨fun h => by omega, fun _ => (hfall port).trans (if_pos rfl),
      fun k hk => (hfall k).trans ((if_neg hk).trans ((hat k).trans (if_neg hk))), ?_, ?_⟩
    · rw [linkFalls_only]; exact flitFailed_coloHour s port
    · rw [linkFalls_only]; exact flitFailed_mem s port
  · exact ⟨fun _ => (hat port).trans (if_pos rfl), fun h => by omega, fun k hk => (hat k).trans (if_neg hk),
      flitFailed_coloHour s port, flitFailed_mem s port⟩

/-! ### The end of training (R375) -/

/-- The number of lanes of a set. -/
abbrev laneCount (l : BitVec 4) : Nat := (List.range 4).countP l.getLsbD

theorem laneCount_all : laneCount 15#4 = 4 := by decide

/-- Of two or three lanes the two lowest are used. -/
theorem lowLanes_two : ∀ l : BitVec 4, laneCount l ∈ [2, 3] → laneCount (lowLanes l) = 2 ∧ lowLanes l &&& l = lowLanes l := by decide

/-- A port's new STATE, as the statement says it of the module. -/
theorem portState_up (s : State) (port m : Nat) (lanes : BitVec 4) :
    let t := portState s port m lanes
    (portAt t port = { portAt s port with state := m, ev := true, lanes := (portAt t port).lanes }
      ∧ t.msix = s.msix ++ [(0, 0)] ∧ t = { s with hub := { s.hub with ports := t.hub.ports }, msix := t.msix })
    ∧ (portAt t port).lanes = lanes := by
  have h := portAt_portState s port port m lanes
  rw [if_pos rfl] at h
  exact ⟨⟨by rw [h], rfl, rfl⟩, by rw [h]⟩

section
variable {s : State} {port : Nat} (htrain : (portAt s port).state = 1) (lanes : BitVec 4)
include htrain

theorem linkTrainingEnd_four (h : laneCount lanes = 4) : exec (.linkTrainingEnd port lanes) s = .next (portState s port 2 lanes) :=
  (if_neg (not_not_intro htrain)).trans (if_pos h)

theorem linkTrainingEnd_two (h : laneCount lanes ∈ [2, 3]) :
    exec (.linkTrainingEnd port lanes) s = .next (portState s port 3 (lowLanes lanes)) := by
  have hn : laneCount lanes = 2 ∨ laneCount lanes = 3 := by simpa using h
  exact (if_neg (not_not_intro htrain)).trans ((if_neg (show laneCount lanes ≠ 4 by omega)).trans
    (if_pos (show 2 ≤ laneCount lanes by omega)))

theorem linkTrainingEnd_failed (h : laneCount lanes < 2) : exec (.linkTrainingEnd port lanes) s = .next (portState s port 4 0) :=
  (if_neg (not_not_intro htrain)).trans ((if_neg (show laneCount lanes ≠ 4 by omega)).trans
    (if_neg (show ¬2 ≤ laneCount lanes by omega)))

end

/-! ### Training asked for (R374) -/

theorem barReg_linkstat {port : Nat} (h : port < 32) : barReg (0x40100 + 8 * port) = some (.linkstat port) := by
  unfold barReg inBlock
  have hmod : (0x40100 + 8 * port) % 8 = 0 := by omega
  have hport : (0x40100 + 8 * port - 0x40100) / 8 = port := by omega
  simp only [hmod, hport, Bool.and_eq_true, decide_eq_true_eq]
  rw [if_neg (by omega), if_neg (by omega), if_neg (by omega), if_neg (by omega), if_neg (by omega), if_neg (by omega),
    if_neg (by omega), if_neg (by omega), if_neg (by omega), if_pos (by omega)]

/-- A write by the physical function of a register that it sees and may write. -/
theorem hostWrite_reaches {s : State} {off : Nat} {r : BarReg} (v : Word) (hreach : hostReaches s 0) (hreg : barReg off = some r)
    (hsees : barVisible s 0 r = true) (hmay : barReadOnly 0 r = false) : hostWrite s 0 off v = regWrite s r v := by
  obtain ⟨hup, -, hreset, -⟩ := hreach
  unfold hostWrite
  simp [hup, hreset, hreg, hsees, hmay]

theorem linkTrainRequest_trains {s : State} {port : Nat} (hreach : hostReaches s 0) (hport : port < 32)
    (hfailed : (portAt s port).state = 4) : ∃ t, exec (.linkTrainRequest port) s = .next t ∧ portAt t port = portTraining (portAt s port)
      ∧ (∀ k, k ≠ port → portAt t k = portAt s k) ∧ t.mem = s.mem ∧ t.hart = s.hart := by
  have hsees : barVisible s 0 (.linkstat port) = true := by
    obtain ⟨-, -, -, hfirm⟩ := hreach
    have e : barVisible s 0 (.linkstat port) = (true && (false || !s.hub.sec.failed)) := rfl
    rw [e, hfirm]
    rfl
  have hretry : portRetry s port = portTrain s port := if_pos hfailed
  have e : execLinkTrainRequest port s = .next (portTrain s port) := by
    unfold execLinkTrainRequest
    rw [if_pos hport, hostWrite_reaches 1 hreach (barReg_linkstat hport) hsees rfl, ← hretry]
    rfl
  exact ⟨_, e, training_of (portAt_portTrain s port) (portTrain_only s port)⟩

/-- CXL_LINK_LOSS of a port in service (R305). -/
theorem cxlLinkLoss_up {s : State} {port : Nat} (hport : port < 8) (hup : s.hub.cxlUp.getLsbD port = true) :
    exec (.cxlLinkLoss port) s = .next (coloAdd { s with hub := { s.hub with cxlUp := 0 } } (coloKey 6 0 0 (32 + port)) 1) :=
  if_pos (by rw [hup, decide_eq_true hport]; rfl)

end Sys2Proof.Proofs
end

section
/-!
The accesses of pod peers (R279, R346, R376), and O57.
-/
namespace Sys2Proof.Proofs

open Sys2Proof Sys2Proof.Machine Sys2Proof.Safety

/-! ## The violation log (R346) -/

theorem logViolation_logged (s : State) (src kind : Nat) (addr : Word) : logged s (logViolation s src kind addr) src kind addr := by
  refine ⟨rfl, rfl, ⟨addr, src, kind, s.time / 1000 % 2 ^ 32⟩, ?_, rfl, rfl, rfl, rfl⟩
  unfold logViolation
  dsimp only
  split
  · next h => exact List.mem_set h _
  · exact List.mem_append_right _ (List.mem_singleton.mpr rfl)

/-! ## Bytes that are stored -/

/-- A run of bytes in memory, read at any place. -/
theorem tabGet_cellsPut (bs : List Byte) (m : List Host.Cell) (a x : Nat) (h : Memory.wf m = true) :
    tabGet 0#8 (cellsPut m a bs) x = if a ≤ x ∧ x < a + bs.length then bs.getD (x - a) 0 else tabGet 0#8 m x := by
  induction bs generalizing m a with
  | nil => exact (if_neg fun hx => by simp at hx; omega).symm
  | cons b bs ih =>
    have hset := tabWf_set 0#8 m a b h
    by_cases hxa : x = a
    · subst hxa
      rw [cellsPut, cellsPut_outside bs _ _ _ hset (by omega), tabGet_set_same 0#8 m x b h]
      simp
    · rw [cellsPut, ih _ _ hset, tabGet_set_other 0#8 m a x b h hxa]
      by_cases hin : a + 1 ≤ x ∧ x < a + 1 + bs.length
      · rw [if_pos hin, if_pos (by simp; omega), show x - a = (x - (a + 1)) + 1 by omega, List.getD_cons_succ]
      · rw [if_neg hin, if_neg (by simp; omega)]

/-! ## Peer accesses -/

/-- What a peer's write or atomic stores. -/
def peerStored (s : State) (q : PeerReq) (v : Word) : Nat :=
  match q.atom with
  | none => v.toNat
  | some a => peerAtomValue a (8 * q.size) (readPaNat s q.pa q.size) (v.toNat % 2 ^ (8 * q.size))

/-- The state in which a peer has stored. -/
def peerWrote (s : State) (q : PeerReq) (v : Word) : State :=
  breakLine (q.pa / 64) none { s with mem := cellsPut s.mem q.pa (bytesOfNat q.size (peerStored s q v)) }

/-- The module's memory that pod peers reach (PODEXP). -/
abbrev podLow (s : State) : Nat := wBits s.hub.podexp 0 16 * 2 ^ 30
abbrev podHigh (s : State) : Nat := wBits s.hub.podexp 32 16 * 2 ^ 30

theorem peerAccess_down {s : State} (q : PeerReq) (hdown : linkUp s = false) : exec (.peerAccess q) s = .next s :=
  if_pos (by rw [hdown]; rfl)

theorem peerAccess_old {s : State} {q : PeerReq} (hold : 190 ≤ q.age) : exec (.peerAccess q) s = .next s :=
  if_pos (by rw [decide_eq_true hold, Bool.or_true])

section
variable {s : State} {q : PeerReq} (hup : linkUp s = true) (hsize : q.size ∈ [1, 2, 4, 8]) (haligned : q.pa % q.size = 0)
  (hyoung : q.age < 190)
include hup hsize haligned hyoung

/-- A request that is well-formed and in time, by its range. -/
theorem peerAccess_timely : exec (.peerAccess q) s =
    if q.pa < podLow s ∨ podHigh s < q.pa + q.size then .next (logViolation s (0x100 + q.rank) 3 (BitVec.ofNat 64 q.pa))
    else match q.data with
      | none => .next s
      | some v =>
        if !q.page then .next (logViolation s (0x100 + q.rank) 4 (BitVec.ofNat 64 q.pa))
        else if q.atom.isSome && s.poison.contains (q.pa / 64) then .next s
        else .next (peerWrote s q v) := by
  have hform : (!(q.size == 1 || q.size == 2 || q.size == 4 || q.size == 8) || q.pa % q.size != 0) = false := by
    have : q.size = 1 ∨ q.size = 2 ∨ q.size = 4 ∨ q.size = 8 := by simpa using hsize
    rw [haligned]
    obtain h | h | h | h := this <;> rw [h] <;> rfl
  have htime : (!linkUp s || decide (190 ≤ q.age)) = false := by
    rw [hup, decide_eq_false (Nat.not_le.mpr hyoung)]
    rfl
  refine (if_neg (by rw [htime]; exact Bool.false_ne_true)).trans ((if_neg (by rw [hform]; exact Bool.false_ne_true)).trans ?_)
  simp only [Bool.or_eq_true, decide_eq_true_eq]
  rfl

theorem peerAccess_outside (hout : q.pa < podLow s ∨ podHigh s < q.pa + q.size) :
    exec (.peerAccess q) s = .next (logViolation s (256 + q.rank) 3 (BitVec.ofNat 64 q.pa)) :=
  (peerAccess_timely hup hsize haligned hyoung).trans (if_pos hout)

variable {v : Word} (hlow : podLow s ≤ q.pa) (hhigh : q.pa + q.size ≤ podHigh s) (hdata : q.data = some v)
include hlow hhigh hdata

theorem peerAccess_pageless (hpage : q.page = false) :
    exec (.peerAccess q) s = .next (logViolation s (256 + q.rank) 4 (BitVec.ofNat 64 q.pa)) := by
  rw [peerAccess_timely hup hsize haligned hyoung, if_neg (by omega), hdata, hpage]
  rfl

theorem peerAccess_stores (hpage : q.page = true) (hclean : q.atom.isSome = true → q.pa / 64 ∉ s.poison) :
    exec (.peerAccess q) s = .next (peerWrote s q v) := by
  have hperform : ¬(q.atom.isSome && s.poison.contains (q.pa / 64)) = true := by
    rw [Bool.and_eq_true, List.contains_iff_mem]
    exact fun ⟨hatom, hmarked⟩ => hclean hatom hmarked
  rw [peerAccess_timely hup hsize haligned hyoung, if_neg (by omega), hdata, hpage]
  exact if_neg hperform

end

theorem readPa_peerWrote {s : State} (q : PeerReq) (v : Word) (hmem : memOk s) (x : Nat) : readPa (peerWrote s q v) x =
    if q.pa ≤ x ∧ x < q.pa + q.size then (bytesOfNat q.size (peerStored s q v)).getD (x - q.pa) 0 else readPa s x := by
  have h := tabGet_cellsPut (bytesOfNat q.size (peerStored s q v)) s.mem q.pa x hmem
  rw [length_bytesOfNat] at h
  exact h

theorem peerWrote_harts (s : State) (q : PeerReq) (v : Word) : (allHarts (peerWrote s q v)).map unlinked = (allHarts s).map unlinked :=
  (breakLine_stores ..).allHarts_eq

/-- Settles O57: each event by the law of its function above. -/
theorem fleetEvents : Obligations.FleetEvents := by
  unfold Obligations.FleetEvents
  intro s core grp die st quad bank pa dom port q v lanes
  refine ⟨laneGroupFailure_serving, fun hst hsite => ?_, fun d => evictionDataError_marks, bankRetirement_retires,
    flitReplay_counts, linkDown_trains, fun htrain => ⟨fun hl => ?_, fun hl => ?_, fun hl => ?_⟩, linkTrainRequest_trains,
    fun hport hup => ⟨_, cxlLinkLoss_up hport hup, rfl, rfl⟩, peerAccess_down q,
    fun hup hsize haligned => ⟨peerAccess_old, fun hyoung hout => ?_, fun hyoung hlow hhigh hdata hpage => ?_,
      fun hyoung hlow hhigh hdata hpage hclean hmem => ?_⟩⟩
  · by_cases h2 : st = 2
    · subst h2
      obtain ⟨hcore, hgrp⟩ := hsite rfl
      have hdie := die_of_lanes hst
      have hcount := coloHour_coloError s die 2
      have hours := residueError_coloHour (coloError s die 2) (die * 64 + core) grp
      obtain ⟨hfew, hmany⟩ := residue_counted (coloError_only s die 2) (c := die * 64 + core) (by omega) hgrp
      refine ⟨_, correctedError_residue hst hcore hgrp, closeHours_early, ?_, fun k hk => ?_, fun h => absurd rfl h,
        fun _ => ⟨fun h => ⟨?_, (hfew h).2⟩, hmany⟩⟩
      · rw [hours, hcount, if_pos rfl]
      · rw [hours, hcount, if_neg hk]
      · rw [hours]
        exact (hfew h).1
    · exact ⟨_, correctedError_counted hst h2, closeHours_early, (coloHour_coloError ..).trans (if_pos rfl),
        fun k hk => (coloHour_coloError ..).trans (if_neg hk), fun _ => rfl, fun h => absurd h h2⟩
  · subst hl
    exact ⟨_, linkTrainingEnd_four htrain _ laneCount_all, (portState_up ..).1, (portState_up ..).2⟩
  · obtain ⟨hstate, hlanes⟩ := portState_up s port 3 (lowLanes lanes)
    obtain ⟨htwo, hsub⟩ := lowLanes_two lanes hl
    exact ⟨_, linkTrainingEnd_two htrain lanes hl, hstate, by rw [hlanes]; exact htwo, by rw [hlanes]; exact hsub⟩
  · exact ⟨_, linkTrainingEnd_failed htrain lanes hl, (portState_up ..).1, (portState_up ..).2⟩
  · exact ⟨_, peerAccess_outside hup hsize haligned hyoung hout, logViolation_logged ..⟩
  · exact ⟨_, peerAccess_pageless hup hsize haligned hyoung hlow hhigh hdata hpage, logViolation_logged ..⟩
  · exact ⟨_, peerAccess_stores hup hsize haligned hyoung hlow hhigh hdata hpage hclean, readPa_peerWrote q v hmem, rfl,
      peerWrote_harts s q v⟩

end Sys2Proof.Proofs
end
